-- ==== Sys2Proof/Word.lean ====
section
/-! DEFINITION. The word types of the CPX-7240 and their plainest arithmetic. -/
namespace Sys2Proof

/-- A byte of memory. -/
abbrev Byte := BitVec 8

/-- A 32-bit register of a thread or of a TCU slot (R202, R294). -/
abbrev Word := BitVec 32

/-- A 64-bit register image, a thread instruction word or a queue word. -/
abbrev DWord := BitVec 64

/-- Field [lo + n - 1 : lo] of a natural number read as bits (R5). -/
def bits (v lo n : Nat) : Nat := (v / 2 ^ lo) % 2 ^ n

/-- Bit i of a natural number (R5). -/
def bitAt (v i : Nat) : Bool := bits v i 1 == 1

/-- The value v put into the field [lo + n - 1 : lo]. -/
def place (v lo n : Nat) : Nat := (v % 2 ^ n) * 2 ^ lo

/-- A flag as a bit. -/
def b2n (b : Bool) : Nat := if b then 1 else 0

end Sys2Proof
end

