-- ==== Sys2Proof/Machine/Float.lean ====
section
/-! DEFINITION. Exact binary arithmetic and the number formats of R221–R227 and R336: a finite value is
(-1)^neg × m × 2^e with a natural m, so sums and products are exact and one rounding follows. -/
namespace Sys2Proof.Machine

/-- A floating-point value: NaN, an infinity, or an exact binary number. -/
inductive FVal where
  | nan
  | inf (neg : Bool)
  | fin (neg : Bool) (m : Nat) (e : Int)
deriving DecidableEq, Repr, Inhabited

/-- A binary format: exponent and mantissa bits, bias, whether it has infinities and NaN, and the largest finite
magnitude maxM × 2^maxE. -/
structure Fmt where
  ebits : Nat
  mbits : Nat
  bias : Nat
  hasInf : Bool
  nanBits : Option Nat
  maxM : Nat
  maxE : Int
deriving DecidableEq, Repr

/-- IEEE 754 binary32 (R222). -/
def fp32 : Fmt := ⟨8, 23, 127, true, some 0x7FC00000, 2 ^ 24 - 1, 104⟩
/-- IEEE 754 binary16 (R222). -/
def fp16 : Fmt := ⟨5, 10, 15, true, some 0x7E00, 2 ^ 11 - 1, 5⟩
/-- BF16 (R336). -/
def bf16 : Fmt := ⟨8, 7, 127, true, some 0x7FC0, 2 ^ 8 - 1, 120⟩
/-- FP8 E4M3: no infinity, one NaN code, largest magnitude 448 (R336). -/
def e4m3 : Fmt := ⟨4, 3, 7, false, some 0x7F, 14, 5⟩
/-- FP8 E5M2: infinities and NaNs as IEEE (R336). -/
def e5m2 : Fmt := ⟨5, 2, 15, true, some 0x7E, 7, 13⟩
/-- FP4 E2M1: neither infinity nor NaN, largest magnitude 6 (R336). -/
def e2m1 : Fmt := ⟨2, 1, 1, false, none, 3, 1⟩

/-- Bits of a format. -/
def Fmt.width (f : Fmt) : Nat := 1 + f.ebits + f.mbits

/-- The exponent of the smallest normal number. -/
def Fmt.emin (f : Fmt) : Int := 1 - (f.bias : Int)

/-- The value a code of the format stands for; bits above the format are ignored (R226). -/
def Fmt.unpack (f : Fmt) (v : Nat) : FVal :=
  let neg := bitAt v (f.ebits + f.mbits)
  let ex := bits v f.mbits f.ebits
  let ma := bits v 0 f.mbits
  if f.hasInf && ex == 2 ^ f.ebits - 1 then
    if ma == 0 then .inf neg else .nan
  else if !f.hasInf && f.nanBits.isSome && ex == 2 ^ f.ebits - 1 && ma == 2 ^ f.mbits - 1 then .nan
  else if ex == 0 then .fin neg ma (f.emin - f.mbits)
  else .fin neg (2 ^ f.mbits + ma) ((ex : Int) - f.bias - f.mbits)

/-- The NaN a result takes in a format (R223, R336; FP4 has none and takes 0, R227). -/
def Fmt.nan (f : Fmt) : Nat := f.nanBits.getD 0

/-- The sign bit in place. -/
def Fmt.sign (f : Fmt) (neg : Bool) : Nat := b2n neg * 2 ^ (f.ebits + f.mbits)

/-- The code of the largest finite magnitude with a sign. -/
def Fmt.maxFinite (f : Fmt) (neg : Bool) : Nat :=
  let top := if f.hasInf then 2 ^ (f.ebits + f.mbits) - 2 ^ f.mbits - 1
    else 2 ^ (f.ebits + f.mbits) - 1 - b2n f.nanBits.isSome
  f.sign neg + top

/-- The code of an infinity. -/
def Fmt.inf (f : Fmt) (neg : Bool) : Nat := f.sign neg + (2 ^ f.ebits - 1) * 2 ^ f.mbits

/-- The rounding modes of R221. -/
inductive RMode where
  | nearest | zero | up | down
deriving DecidableEq, Repr

/-- The rounding mode of a MOD field (R221). -/
def RMode.code : Nat → RMode
  | 0 => .nearest | 1 => .zero | 2 => .up | _ => .down

/-- n or n + 1, where the exact value is n + rem / 2^d. -/
def roundInc (mode : RMode) (neg : Bool) (n rem d : Nat) : Nat :=
  if rem == 0 then n else
  match mode with
  | .nearest =>
    let h := 2 ^ (d - 1)
    if rem > h || (rem == h && n % 2 == 1) then n + 1 else n
  | .zero => n
  | .up => if neg then n else n + 1
  | .down => if neg then n + 1 else n

/-- m × 2^e rounded to a multiple of 2^q: the multiplier. -/
def roundAt (mode : RMode) (neg : Bool) (m : Nat) (e q : Int) : Nat :=
  if q ≤ e then m * 2 ^ (e - q).toNat
  else
    let d := (q - e).toNat
    roundInc mode neg (m / 2 ^ d) (m % 2 ^ d) d

/-- a × 2^ea < b × 2^eb. -/
def magLt (a : Nat) (ea : Int) (b : Nat) (eb : Int) : Bool :=
  let e := min ea eb
  a * 2 ^ (ea - e).toNat < b * 2 ^ (eb - e).toNat

/-- The code for n × 2^q, where the value is representable and n < 2^(mbits+1) or n is one more. -/
def Fmt.encode (f : Fmt) (neg : Bool) (n : Nat) (q : Int) : Nat :=
  let (n, q) := if n == 2 ^ (f.mbits + 1) then (n / 2, q + 1) else (n, q)
  if n < 2 ^ f.mbits then f.sign neg + n
  else f.sign neg + (q + f.mbits + f.bias).toNat * 2 ^ f.mbits + (n - 2 ^ f.mbits)

/-- The result of a value beyond the largest finite magnitude (R227). -/
def Fmt.overflow (f : Fmt) (mode : RMode) (sat neg : Bool) : Nat :=
  if sat || !f.hasInf then f.maxFinite neg else
  match mode with
  | .nearest => f.inf neg
  | .zero => f.maxFinite neg
  | .up => if neg then f.maxFinite neg else f.inf neg
  | .down => if neg then f.inf neg else f.maxFinite neg

/-- Round an exact value into a format (R221, R222, R223, R227). `flush`: subnormal results become zero, judged after
a rounding without a lower exponent bound (R221). -/
def Fmt.round (f : Fmt) (mode : RMode) (flush sat : Bool) : FVal → Nat
  | .nan => f.nan
  | .inf neg => if f.hasInf && !sat then f.inf neg else f.maxFinite neg
  | .fin neg m e =>
    if m == 0 then f.sign neg else
    let top : Int := e + Nat.log2 m
    let qFree : Int := top - f.mbits
    let qMin : Int := f.emin - f.mbits
    if flush then
      let n := roundAt mode neg m e qFree
      if magLt n qFree 1 f.emin then f.sign neg
      else if magLt f.maxM f.maxE n qFree then f.overflow mode sat neg
      else f.encode neg n qFree
    else
      let q := max qFree qMin
      let n := roundAt mode neg m e q
      if magLt f.maxM f.maxE n q then f.overflow mode sat neg
      else f.encode neg n q

/-- An operand with subnormals flushed to zero where the modifier says so (R221). -/
def Fmt.operand (f : Fmt) (flush : Bool) (v : Nat) : FVal :=
  match f.unpack v with
  | .fin neg m e => if flush && m < 2 ^ f.mbits then .fin neg 0 e else .fin neg m e
  | x => x

/-- Signed integer m × 2^(e - q), for q at most e. -/
def FVal.scaled (neg : Bool) (m : Nat) (e q : Int) : Int :=
  let v : Int := (m * 2 ^ (e - q).toNat : Nat)
  if neg then -v else v

/-- The exact sum; an exact zero sum of unlike signs is +0, or −0 when rounding down (IEEE 754). -/
def FVal.add (mode : RMode) : FVal → FVal → FVal
  | .nan, _ => .nan
  | _, .nan => .nan
  | .inf a, .inf b => if a == b then .inf a else .nan
  | .inf a, _ => .inf a
  | _, .inf b => .inf b
  | .fin na ma ea, .fin nb mb eb =>
    let q := min ea eb
    let v := FVal.scaled na ma ea q + FVal.scaled nb mb eb q
    if v == 0 then
      if ma == 0 && mb == 0 && na == nb then .fin na 0 q else .fin (mode == .down) 0 q
    else .fin (v < 0) v.natAbs q

/-- The exact product. -/
def FVal.mul : FVal → FVal → FVal
  | .nan, _ => .nan
  | _, .nan => .nan
  | .inf a, .inf b => .inf (a != b)
  | .inf a, .fin b m _ => if m == 0 then .nan else .inf (a != b)
  | .fin a m _, .inf b => if m == 0 then .nan else .inf (a != b)
  | .fin na ma ea, .fin nb mb eb => .fin (na != nb) (ma * mb) (ea + eb)

/-- The negated value. -/
def FVal.neg : FVal → FVal
  | .nan => .nan
  | .inf a => .inf (!a)
  | .fin a m e => .fin (!a) m e

/-- Whether a value is NaN. -/
def FVal.isNan : FVal → Bool
  | .nan => true
  | _ => false

/-- Order of two values that are not NaN: less, equal, greater (−0 equals +0). -/
def FVal.cmp : FVal → FVal → Ordering
  | .inf a, .inf b => if a == b then .eq else if a then .lt else .gt
  | .inf a, _ => if a then .lt else .gt
  | _, .inf b => if b then .gt else .lt
  | .fin na ma ea, .fin nb mb eb =>
    let q := min ea eb
    compare (FVal.scaled na ma ea q) (FVal.scaled nb mb eb q)
  | _, _ => .eq

/-- Whether the sign of a value is minus. -/
def FVal.isNeg : FVal → Bool
  | .nan => false
  | .inf a => a
  | .fin a _ _ => a

/-- a is taken by a minimum over b: a below b, or the zeros in sign order (R224). -/
def FVal.minFirst (a b : FVal) : Bool :=
  match FVal.cmp a b with
  | .lt => true
  | .gt => false
  | .eq => a.isNeg || !b.isNeg

end Sys2Proof.Machine
end

