-- ==== Sys2Proof/Machine/Flags.lean ====
section
/-! DEFINITION. Results, compares and predicates of the thread engine's arithmetic (R218–R227). -/
namespace Sys2Proof.Machine

/-- Signed or unsigned value of a word. -/
def wordInt (signed : Bool) (v : Word) : Int := if signed then v.toInt else v.toNat

/-- High 32 bits of a product (R215, IMULHI). -/
def mulHi (signed : Bool) (a b : Word) : Word := BitVec.ofInt 32 ((wordInt signed a * wordInt signed b) >>> (32 : Nat))

def intMin (signed : Bool) (a b : Word) : Word := if wordInt signed a ≤ wordInt signed b then a else b
def intMax (signed : Bool) (a b : Word) : Word := if wordInt signed a ≤ wordInt signed b then b else a

/-- Bits set, leading zeros and the reversed order of a word's bits. -/
def popc (v : Word) : Word := BitVec.ofNat 32 ((List.range 32).countP (fun i => v.getLsbD i))
def clz (v : Word) : Word := BitVec.ofNat 32 (if v = 0 then 32 else 31 - Nat.log2 v.toNat)
def brev (v : Word) : Word := v.reverse

/-- The compare field of ISETP and ISETPI (R218). -/
def intCmp (c : Nat) (a b : Word) : Bool :=
  let x := a.toInt
  let y := b.toInt
  match c with
  | 0 => a == b
  | 1 => a != b
  | 2 => x < y
  | 3 => x ≤ y
  | 4 => x > y
  | 5 => x ≥ y
  | 6 => a.toNat < b.toNat
  | 7 => a.toNat ≤ b.toNat
  | 8 => a.toNat > b.toNat
  | _ => a.toNat ≥ b.toNat

/-- The compare field of FSETP (R219): every condition but NE, NUM and NAN is false on NaN. -/
def fpCmp (c : Nat) (a b : Word) : Bool :=
  let x := fp32.unpack a.toNat
  let y := fp32.unpack b.toNat
  let nan := x.isNan || y.isNan
  let o := FVal.cmp x y
  match c with
  | 0 => !nan && o == .eq
  | 1 => nan || o != .eq
  | 2 => !nan && o == .lt
  | 3 => !nan && o != .gt
  | 4 => !nan && o == .gt
  | 5 => !nan && o != .lt
  | 6 => !nan
  | _ => nan

/-- The PLOP operations (R220). -/
def plop (op : Nat) (a b : Bool) : Bool :=
  match op with
  | 0 => a && b
  | 1 => a || b
  | 2 => a != b
  | _ => a && !b

/-- Rounding mode and subnormal flush of a floating-point modifier (R221). -/
def fmode (m : Nat) : RMode := RMode.code (bits m 0 2)
def fflush (m : Nat) : Bool := bitAt m 2

/-- A correctly rounded sum, product and fused multiply-add in a format (R222, R223). -/
def fAdd (f : Fmt) (m a b : Nat) : Nat :=
  f.round (fmode m) (fflush m) false (FVal.add (fmode m) (f.operand (fflush m) a) (f.operand (fflush m) b))
def fMul (f : Fmt) (m a b : Nat) : Nat :=
  f.round (fmode m) (fflush m) false (FVal.mul (f.operand (fflush m) a) (f.operand (fflush m) b))
def fFma (f : Fmt) (m a b c : Nat) : Nat :=
  f.round (fmode m) (fflush m) false
    (FVal.add (fmode m) (FVal.mul (f.operand (fflush m) a) (f.operand (fflush m) b)) (f.operand (fflush m) c))

/-- FMIN and FMAX (R224): a number beats a NaN, and −0 lies below +0. -/
def fMinMax (max : Bool) (m a b : Nat) : Nat :=
  let x := fp32.operand (fflush m) a
  let y := fp32.operand (fflush m) b
  let r := if x.isNan then y else if y.isNan then x
    else if max then (if FVal.minFirst x y then y else x) else (if FVal.minFirst x y then x else y)
  fp32.round .nearest (fflush m) false r

/-- Two FP16 results on packed halves. -/
def halves (f : Nat → Nat → Nat → Nat) (a b c : Word) : Word :=
  let lo := f (bits a.toNat 0 16) (bits b.toNat 0 16) (bits c.toNat 0 16)
  let hi := f (bits a.toNat 16 16) (bits b.toNat 16 16) (bits c.toNat 16 16)
  BitVec.ofNat 32 (lo + hi * 65536)

/-- A value as a signed integer rounded in a mode; out of range it saturates, and NaN is 0 (R227). -/
def toInteger (mode : RMode) (lo hi : Int) : FVal → Int
  | .nan => 0
  | .inf neg => if neg then lo else hi
  | .fin neg m e =>
    let n : Int := roundAt mode neg m e 0
    max lo (min hi (if neg then -n else n))

/-- The floating-point format of a CVT code (R225). -/
def cvtFmt : Nat → Fmt
  | 2 => fp32 | 3 => fp16 | 4 => bf16 | 5 => e4m3 | 6 => e5m2 | _ => e2m1

/-- CVT (R225–R227). -/
def cvt (m : Nat) (a : Word) : Word :=
  let src := bits m 0 4
  let dst := bits m 4 4
  let mode := RMode.code (bits m 8 2)
  let sat := bitAt m 10
  let v : FVal :=
    if src == 0 then .fin (decide (a.toInt < 0)) a.toInt.natAbs 0
    else if src == 1 then .fin false a.toNat 0
    else (cvtFmt src).unpack (bits a.toNat 0 (cvtFmt src).width)
  if dst == 0 then BitVec.ofInt 32 (toInteger mode (-(2 ^ 31)) (2 ^ 31 - 1) v)
  else if dst == 1 then BitVec.ofInt 32 (toInteger mode 0 (2 ^ 32 - 1) v)
  else BitVec.ofNat 32 ((cvtFmt dst).round mode false sat v)

/-- The FP32 code that lies k steps above a positive finite code. -/
def ulpShift (base : Nat) (k : Int) : Nat := ((base : Int) + k).toNat

/-- The code of the largest FP32 number not above n / d × 2^e for positive n and d, and whether it is exact. -/
def fp32Floor (n d : Nat) (e : Int) : Nat × Bool :=
  let sh := 64 + Nat.log2 d
  let q := n * 2 ^ sh / d
  let rem := n * 2 ^ sh % d
  let ev := e - sh
  let code := fp32.round .zero false false (.fin false q ev)
  (code, rem == 0 && fp32.unpack code != .nan && FVal.cmp (fp32.unpack code) (.fin false q ev) == .eq)

/-- Largest natural r with r × r ≤ n, by bits from the top. -/
def isqrt (n : Nat) : Nat :=
  (List.range (Nat.log2 n / 2 + 1)).reverse.foldl (fun r i => if (r + 2 ^ i) * (r + 2 ^ i) ≤ n then r + 2 ^ i else r) 0

/-- A value within 2 ulp of an exact positive result whose FP32 floor is known: the distance is free (R222). -/
def within2 (fl : Nat × Bool) (free : Nat) : Nat :=
  min 0x7F800000 (if fl.2 then ulpShift fl.1 ((free % 5 : Nat) - 2) else ulpShift fl.1 ((free % 4 : Nat) - 1))

/-! ## FEXP2, FLOG2, FSIN and FCOS (R222), in units of 2^-220 -/

/-- One. -/
def fx1 : Nat := 2 ^ 220
/-- ln 2, 1 / ln 2 and 2π, rounded down. -/
def fxLn2 : Nat := 0xb17217f7d1cf79abc9e3b39803f2f6af40f343267298b62d8a0d175
def fxInvLn2 : Nat := 0x171547652b82fe1777d0ffda0d23a7d11d6aef551bad2b4b1164a2cd
def fxTwoPi : Nat := 0x6487ed5110b4611a62633145c06e0e68948127044533e63a0105df53

/-- A real result: its sign, its magnitude in units of 2^scale, rounded down, and whether it is exact. -/
structure FxVal where
  neg : Bool := false
  mag : Nat
  scale : Int := -220
  exact : Bool := false
deriving DecidableEq, Repr

/-- A finite operand in units of 2^-220, exactly. -/
def fxOf (neg : Bool) (n : Nat) (e : Int) : Int :=
  let v : Int := (n * 2 ^ (e + 220).toNat : Nat)
  if neg then -v else v

/-- The power series of exp, sin or cos from a first term: term k + 1 is term k times y times y ^ p over its next factors. -/
def fxSeries (y : Nat) (two alt : Bool) : Nat → Nat → Nat → Bool → Int
  | 0, _, _, _ => 0
  | fuel + 1, t, k, minus =>
    let t1 := if two then t * y / fx1 * y / fx1 / (k * (k + 1)) else t * y / fx1 / k
    (if minus then -(t : Int) else t) + fxSeries y two alt fuel t1 (if two then k + 2 else k + 1) (alt && !minus)

/-- 2^x. -/
def fxExp2 (x : Int) : FxVal :=
  let f := (x % (fx1 : Int)).toNat
  { mag := (fxSeries (f * fxLn2 / fx1) false false 60 fx1 1 false).toNat, scale := x / (fx1 : Int) - 220, exact := f == 0 }

/-- The odd powers of z over their exponents: the area hyperbolic tangent. -/
def fxAtanh (zz : Nat) : Nat → Nat → Nat → Nat
  | 0, _, _ => 0
  | fuel + 1, p, k => p / k + fxAtanh zz fuel (p * zz / fx1) (k + 2)

/-- log2 of n × 2^e for positive n: twice the area tangent of (m − 1) / (m + 1), m the significand in [1, 2). -/
def fxLog2 (n : Nat) (e : Int) : FxVal :=
  let k := Nat.log2 n
  let m := n * 2 ^ (220 - k)
  let z := (m - fx1) * fx1 / (m + fx1)
  let l := 2 * fxAtanh (z * z / fx1) 80 z 1 * fxInvLn2 / fx1
  let v : Int := (e + k) * (fx1 : Int) + l
  { neg := v < 0, mag := v.natAbs, exact := m == fx1 }

/-- The sine of x turns, x taken to the nearest quarter turn. -/
def fxSin (x : Int) : FxVal :=
  let quarter : Int := (fx1 / 4 : Nat)
  let r := (x % (fx1 : Int))
  let q := (r + quarter / 2) / quarter
  let t := r - q * quarter
  let a := t.natAbs * fxTwoPi / fx1
  if q % 2 == 0 then
    { neg := (t < 0) != (q % 4 == 2), mag := (fxSeries a true true 30 a 2 false).toNat, exact := t == 0 }
  else { neg := q % 4 == 3, mag := (fxSeries a true true 30 fx1 1 false).toNat - b2n (t != 0), exact := t == 0 }

/-- An FP32 value within 2 ulp of a result; of zero, one of at most two of the least magnitudes, of either sign (R222). -/
def FxVal.near (x : FxVal) (free : Nat) : FVal :=
  if x.mag == 0 then .fin (free / 3 % 2 == 1) (free % 3) (-149)
  else
    let fl := fp32Floor x.mag 1 x.scale
    let v := fp32.unpack (within2 (fl.1, fl.2 && x.exact) free)
    if x.neg then v.neg else v

end Sys2Proof.Machine
end

