-- ==== Sys2Proof/Config.lean ====
section
/-! DEFINITION. Values the specification leaves open. Each is an opaque constant with no body: nothing in Lean can
evaluate it, so a statement holds whatever it is. A counter of the state (`freeCount`) or the operands the value depends
on select it. -/
namespace Sys2Proof.Config

/-- A byte that has no defined value (R188, R640): by the generation of its undefined bytes, the key it was first read under (0: none;
2n + 1: the n-th drawn; 2v + 2: the loaded key v), and its address. -/
opaque noise : Nat → Nat → Nat → Byte

/-- The 512 bits of the n-th key that the random number generator drew (R193, R828). -/
opaque key : Nat → BitVec 512

/-- A free choice between two outcomes the specification allows, one per draw. -/
opaque choice : Nat → Bool

/-- Whether an HBM controller serves a read to its open row ahead of the earliest-deadline read where it may (R631): by pseudo-channel and the
number of reads it has served. -/
opaque bypass : Nat → Nat → Bool

/-- A free natural number, one per draw. -/
opaque nat : Nat → Nat

/-- Whether a PCIe address lies in one of the chip's own BARs, which the host places (R156). -/
opaque inOwnBar : Nat → Bool

/-- The result of FRCP to FCOS for an operand at which R222 bounds none: by opcode, modifier and operand. -/
opaque unary : Nat → Nat → Word → Word

/-- FMAX of a tile as fused, in 10 MHz units (R548): kept within 170–240 where it is used. -/
opaque fmax : Nat → Nat

/-- Entry i of Patina fuse bank b as fused (R549, R818). -/
opaque patina : Nat → Nat → Nat

/-- The fused estimator weight in pJ of activity j, 1–12, of a tile; 13 an Armature test, 14 a ray of a sorter, 15 an HBM line (R560, R597). -/
opaque weight : Nat → Nat

/-- The static power of a tile in mW by the fused model, at a voltage in mV and a temperature in units of 0.5 °C (R560). -/
opaque tileStatic : Nat → Nat → Nat → Nat

/-- The static power in mW of block b by the fused model, at a temperature in units of 0.5 °C (R560): Armatures 0–47, ray sorters 48–51, HBM
stacks 52–59, the base die 60. -/
opaque blockStatic : Nat → Nat → Nat

/-- The threshold in mV of a droop detector of a tile at an operating point, as fused (R544). -/
opaque droopThreshold : Nat → Nat → Nat → Nat

/-- The fused lifecycle (R836, R854): 1 MANUFACTURE, any other value FIELD. -/
opaque lifecycle : Nat

/-- The fused stepping (R750): major in bits [15:8], minor in bits [7:0]. -/
opaque stepping : Nat

/-- The fused UniqueId of the chip (R750). -/
opaque uniqueId : Nat

/-- Character i of the fused SerialNumber of the chip (R750). -/
opaque serial : Nat → Byte

/-- The 256 bits of the nonce of a challenge, by the number of the draw (R843). -/
opaque nonce : Nat → Nat

/-- Whether the signature of a chip section verifies with the fused key digest (R812): by what it signs, its bytes 0–159 and the body, and by the
signature, as little-endian numbers. -/
opaque imageSigned : Nat → Nat → Bool

/-- Whether the signature of a debug unlock token verifies for a challenge (R843): by challenge and token, as little-endian numbers. -/
opaque tokenSigned : Nat → Nat → Bool

/-- The fused identity of a tray controller (R750, R752): by kind of controller and object subindex;
strings and addresses as little-endian numbers. -/
opaque trayFused : Nat → Nat → Nat

/-- The address leased to a tray controller in DHCP mode (R752), by controller kind and tray time. -/
opaque lease : Nat → Nat → Nat

/-- The tray ceiling, in W, for a healthy count of 0, 1 or 2, for which R762 states none. -/
opaque noCeiling : Nat → Nat

/-- The measured ratio of a lane, in units of 1e-12, where 32 bits do not hold it or no bit was compared (R802): by errors and bits. -/
opaque laneRatio : Nat → Nat → Nat

end Sys2Proof.Config
end

