-- ==== Sys2Proof/Machine/Mem.lean ====
section
/-! DEFINITION. Memory as a list of (address, byte) cells in one canonical form: strictly rising addresses, and no
cell equal to what an unlisted address reads as (the default `d`; none: an unlisted byte has no defined value). -/
namespace Sys2Proof.Machine

/-- A memory: byte cells at strictly rising addresses. -/
abbrev Mem := List Host.Cell

/-- The byte at an address, or the default. -/
def Mem.get (d : Option Byte) (m : Mem) (a : Nat) : Option Byte :=
  match m with
  | [] => d
  | (b, v) :: r => if b = a then some v else Mem.get d r a

/-- Store one byte (none: the byte loses its defined value), keeping the canonical form. -/
def Mem.put (d : Option Byte) (m : Mem) (a : Nat) (v : Option Byte) : Mem :=
  match m with
  | [] =>
    match v with
    | none => []
    | some x => if d = some x then [] else [(a, x)]
  | (b, w) :: r =>
    if b < a then (b, w) :: Mem.put d r a v
    else
      let rest := if b = a then r else (b, w) :: r
      match v with
      | none => rest
      | some x => if d = some x then rest else (a, x) :: rest

/-- Store bytes at rising addresses. -/
def Mem.putAll (d : Option Byte) (m : Mem) (a : Nat) : List Byte → Mem
  | [] => m
  | v :: r => Mem.putAll d (Mem.put d m a (some v)) (a + 1) r

/-- Lay cells over a memory. -/
def Mem.overlay (d : Option Byte) (m : Mem) (c : Mem) : Mem :=
  c.foldl (fun m x => Mem.put d m x.1 (some x.2)) m

/-- The cells at lo ≤ address < hi. -/
def Mem.within (m : Mem) (lo hi : Nat) : Mem := m.filter fun c => lo ≤ c.1 && c.1 < hi

/-- Drop the cells at lo ≤ address < hi: they read as the default again. -/
def Mem.drop (m : Mem) (lo hi : Nat) : Mem := m.filter fun c => c.1 < lo || hi ≤ c.1

/-- The canonical form. -/
abbrev Mem.wf (d : Option Byte) (m : Mem) : Prop :=
  m.Pairwise (fun a b => a.1 < b.1) ∧ ∀ c ∈ m, d ≠ some c.2

/-- n bytes from address a, each read with the default byte z where none is listed. -/
def Mem.bytes (m : Mem) (z : Byte) (a n : Nat) : List Byte :=
  (List.range n).map fun i => (Mem.get (some z) m (a + i)).getD z

/-- The natural number that bytes spell, least significant first (R6). -/
def leNat : List Byte → Nat
  | [] => 0
  | b :: r => b.toNat + 256 * leNat r

/-- n bytes of a natural number, least significant first (R6). -/
def toLe : Nat → Nat → List Byte
  | 0, _ => []
  | n + 1, v => BitVec.ofNat 8 v :: toLe n (v / 256)

/-- The little-endian number in bytes lo … lo + n - 1 of a record (R6). -/
def field (l : List Byte) (lo n : Nat) : Nat := leNat ((l.drop lo).take n)

end Sys2Proof.Machine
end

