-- ==== Sys2Proof/Machine/Aes.lean ====
section
/-! DEFINITION. AES-256-XTS on a line of 128 bytes (R192). Bytes are natural numbers below 256; a block is a list of 16 of them. The spec
names the cipher and leaves its text to the standards of that name (log 137). -/
namespace Sys2Proof.Machine

/-- The substitution box, 16 bytes to a row, the first in the lowest bits. -/
def aesBox : List Nat :=
  [0x76ABD7FE2B670130C56F6BF27B777C63, 0xC072A49CAFA2D4ADF04759FA7DC982CA, 0x1531D871F1E5A534CCF73F362693FDB7,
   0x75B227EBE28012079A059618C323C704, 0x842FE329B3D63B52A05A6E1B1A2C8309, 0xCF584C4A39BECB6A5BB1FC20ED00D153,
   0xA89F3C507F02F94585334D43FBAAEFD0, 0xD2F3FF1021DAB6BCF5389D928F40A351, 0x73195D643D7EA7C41744975FEC130CCD,
   0xDB0B5EDE14B8EE4688902A22DC4F8160, 0x79E4959162ACD3C25C2406490A3A32E0, 0x08AE7A65EAF4566CA94ED58D6D37C8E7,
   0x8A8BBD4B1F74DDE8C6B4A61C2E2578BA, 0x9E1DC186B95735610EF6034866B53E70, 0xDF2855CEE9871E9B948ED9691198F8E1,
   0x16BB54B00F2D99416842E6BF0D89A18C]

/-- Its inverse. -/
def aesInvBox : List Nat :=
  [0xFBD7F3819EA340BF38A53630D56A0952, 0xCBE9DEC444438E3487FF2F9B8239E37C, 0x4EC3FA420B954CEE3D23C2A632947B54,
   0x25D18B6D49A25B76B224D92866A12E08, 0x92B6655DCC5CA4D41698688664F6F872, 0x849D8DA75746155EDAB9EDFD5048706C,
   0x0645B3B80558E4F70AD3BC8C00ABD890, 0x6B8A130103BDAFC1020F3FCA8F1E2CD0, 0x73E6B4F0CECFF297EADC674F4111913A,
   0x6EDF751CE837F9E28535ADE72274AC96, 0x1BBE18AA0E62B76F89C5291D711AF147, 0xF45ACD78FEC0DB9A2079D2C64B3E56FC,
   0x5FEC8027591012B131C7078833A8DD1F, 0xEF9CC9939F7AE52D0D4AB519A97F5160, 0x619953833CBBEBC8B0F52AAE4D3BE0A0,
   0x7D0C2155631469E126D677BA7E042B17]

/-- The byte that a box gives a byte. -/
def boxAt (t : List Nat) (b : Nat) : Nat := t.getD (b / 16) 0 / 2 ^ (8 * (b % 16)) % 256

/-- Multiplication by x in the field of 256 elements. -/
def xtime (a : Nat) : Nat := if a < 128 then 2 * a else (2 * a - 256) ^^^ 0x1B

/-- Multiplication by a constant of four bits. -/
def gmul (k a : Nat) : Nat :=
  let a2 := xtime a
  let a4 := xtime a2
  (if k % 2 == 1 then a else 0) ^^^ (if k / 2 % 2 == 1 then a2 else 0) ^^^ (if k / 4 % 2 == 1 then a4 else 0)
    ^^^ (if k / 8 % 2 == 1 then xtime a4 else 0)

def xorBytes (a b : List Nat) : List Nat := List.zipWith (· ^^^ ·) a b

/-- A column times a circulant row of constants. -/
def mixColumn (k : List Nat) (c : List Nat) : List Nat :=
  (List.range 4).map fun r => (List.range 4).foldl (fun x j => x ^^^ gmul (k.getD ((j + 4 - r) % 4) 0) (c.getD j 0)) 0

def mixColumns (k : List Nat) (s : List Nat) : List Nat :=
  (List.range 4).flatMap fun c => mixColumn k ((s.drop (4 * c)).take 4)

/-- Row r of the state moves by r columns, to the left or, with `back`, to the right. -/
def shiftRows (back : Bool) (s : List Nat) : List Nat :=
  (List.range 16).map fun i => s.getD ((i + (if back then 12 else 4) * (i % 4)) % 16) 0

/-- The next word of the key schedule, from the words so far, newest first. -/
def nextKeyWord (i rcon : Nat) (ws : List (List Nat)) : List Nat :=
  let t := ws.headD []
  let t := if i % 8 == 0 then xorBytes (((t.drop 1) ++ (t.take 1)).map (boxAt aesBox)) [rcon, 0, 0, 0]
    else if i % 8 == 4 then t.map (boxAt aesBox) else t
  xorBytes t (ws.getD 7 [])

/-- The words of the key schedule, newest first: n more, the next being word i. -/
def keyWords : Nat → Nat → Nat → List (List Nat) → List (List Nat)
  | 0, _, _, ws => ws
  | n + 1, i, rcon, ws => keyWords n (i + 1) (if i % 8 == 0 then xtime rcon else rcon) (nextKeyWord i rcon ws :: ws)

/-- The 15 round keys of a key of 32 bytes. -/
def roundKeys (key : List Nat) : List (List Nat) :=
  let w := (keyWords 52 8 1 ((List.range 8).map fun i => (key.drop (4 * i)).take 4).reverse).reverse
  (List.range 15).map fun r => ((w.drop (4 * r)).take 4).flatten

/-- A block encrypted under the round keys. -/
def aesEncrypt : List (List Nat) → List Nat → List Nat
  | [], s => s
  | [k], s => xorBytes k (shiftRows false (s.map (boxAt aesBox)))
  | k :: r, s => aesEncrypt r (xorBytes k (mixColumns [2, 3, 1, 1] (shiftRows false (s.map (boxAt aesBox)))))

/-- A block decrypted under the round keys in reverse order. -/
def aesDecrypt : List (List Nat) → List Nat → List Nat
  | [], s => s
  | [k], s => xorBytes k ((shiftRows true s).map (boxAt aesInvBox))
  | k :: r, s => aesDecrypt r (mixColumns [14, 11, 13, 9] (xorBytes k ((shiftRows true s).map (boxAt aesInvBox))))

/-- AES-256 of a block under a key of 32 bytes. -/
def aes256 (key s : List Nat) : List Nat :=
  match roundKeys key with
  | [] => s
  | k :: r => aesEncrypt r (xorBytes k s)

/-- Its inverse. -/
def aes256Inv (key s : List Nat) : List Nat :=
  match (roundKeys key).reverse with
  | [] => s
  | k :: r => aesDecrypt r (xorBytes k s)

/-- The n bytes of a number, lowest first. -/
def natBytes (n v : Nat) : List Nat := (toLe n v).map (·.toNat)

/-- The number that bytes spell, lowest first. -/
def bytesNat (l : List Nat) : Nat := l.foldr (fun b v => b + 256 * v) 0

/-- The tweak of the next block: times x in the field of 2^128 elements. -/
def nextTweak (t : Nat) : Nat := if t < 2 ^ 127 then 2 * t else (2 * t - 2 ^ 128) ^^^ 0x87

/-- The blocks of a data unit, each between its tweaks; f is the cipher of the first half of the key. -/
def xtsBlocks (f : List Nat → List Nat) : Nat → Nat → List Nat → List Nat
  | 0, _, _ => []
  | n + 1, t, d =>
    let tw := natBytes 16 t
    xorBytes (f (xorBytes (d.take 16) tw)) tw ++ xtsBlocks f n (nextTweak t) (d.drop 16)

/-- The first tweak of a line: its number encrypted under the second half of the key (R192). -/
def lineTweak (key line : Nat) : Nat := bytesNat (aes256 (natBytes 32 (key / 2 ^ 256)) (natBytes 16 line))

/-- The ciphertext of a line under a 512-bit key (R192). -/
def xtsEncrypt (key line : Nat) (d : List Byte) : List Byte :=
  (xtsBlocks (aes256 (natBytes 32 key)) 8 (lineTweak key line) (d.map (·.toNat))).map (BitVec.ofNat 8)

/-- What a line's ciphertext decrypts to under a 512-bit key (R192, R195). -/
def xtsDecrypt (key line : Nat) (d : List Byte) : List Byte :=
  (xtsBlocks (aes256Inv (natBytes 32 key)) 8 (lineTweak key line) (d.map (·.toNat))).map (BitVec.ofNat 8)

/-! ## Key wrap (R830) -/

/-- 8 bytes, highest first, of a step count. -/
def stepBytes (t : Nat) : List Nat := (natBytes 8 t).reverse

/-- One pass of the wrap over the semiblocks left: the register A and the new semiblocks. -/
def kwPass (key : List Nat) : Nat → List Nat → List (List Nat) → List Nat × List (List Nat)
  | _, a, [] => (a, [])
  | t, a, r :: rest =>
    let b := aes256 key (a ++ r)
    let (a', rs) := kwPass key (t + 1) (xorBytes (b.take 8) (stepBytes t)) rest
    (a', b.drop 8 :: rs)

/-- One pass of the unwrap, over the semiblocks last first. -/
def kwUnpass (key : List Nat) : Nat → List Nat → List (List Nat) → List Nat × List (List Nat)
  | _, a, [] => (a, [])
  | t, a, r :: rest =>
    let b := aes256Inv key (xorBytes a (stepBytes t) ++ r)
    let (a', rs) := kwUnpass key (t - 1) (b.take 8) rest
    (a', b.drop 8 :: rs)

/-- The initial value of the wrap. -/
def kwInit : List Nat := List.replicate 8 0xA6

/-- The key wrap KW of semiblocks under a key of 32 bytes: A, then the semiblocks (R830). -/
def kwWrap (key : List Nat) (p : List (List Nat)) : List Nat :=
  let (a, r) := (List.range 6).foldl (fun x j => kwPass key (p.length * j + 1) x.1 x.2) (kwInit, p)
  a ++ r.flatten

/-- The semiblocks that a wrapped text holds, if its integrity check passes (R830). -/
def kwUnwrap (key : List Nat) (c : List (List Nat)) : Option (List (List Nat)) :=
  let n := c.length - 1
  let (a, r) := (List.range 6).foldl (fun x j => kwUnpass key (n * (6 - j)) x.1 x.2) (c.headD [], (c.drop 1).reverse)
  if a == kwInit then some r.reverse else none

/-- Bytes in semiblocks of 8. -/
def semiblocks (n : Nat) (l : List Nat) : List (List Nat) := (List.range n).map fun i => (l.drop (8 * i)).take 8

end Sys2Proof.Machine
end

