-- ==== Sys2Proof/Syntax.lean ====
section
/-! DEFINITION. The commands of the block: one constructor of Instr for each row of the opcode table, and the field
structures of the thread engine's and the TCU's instruction formats (R206, R207, R327). Common operands: `tile` is a
tile_index (R8); `slot` a group slot or TCU slot of that tile; `fn` a PCIe function, 0 for the PF and v for VF v (R45);
`now` the device time in ns at which a time-driven event takes place; `q` a command queue; `raw` the 64 bytes of the
command as the device read them over PCIe (empty: the read failed; not used for a queue in device memory);
`host` the bytes of host memory, by address, that PCIe completions returned (the old value of a
HOST atomic at (lane + 1) · 2^64 + address, each being a request of its own). -/
namespace Sys2Proof

/-- Fields of a REG instruction (R206, R207). -/
structure RegF where
  pneg : Bool
  psel : Nat
  dst : Nat
  srca : Nat
  srcb : Nat
  srcc : Nat
  mod : Nat
deriving DecidableEq, Repr, Inhabited

/-- Fields of an IMM instruction (R206, R207). -/
structure ImmF where
  pneg : Bool
  psel : Nat
  dst : Nat
  srca : Nat
  mod4 : Nat
  imm : Word
deriving DecidableEq, Repr, Inhabited

/-- Fields of a MEM instruction (R206, R207, R233). -/
structure MemF where
  pneg : Bool
  psel : Nat
  dst : Nat
  srca : Nat
  srcb : Nat
  size : Nat
  subop : Nat
  signed : Bool
  off : Nat
deriving DecidableEq, Repr, Inhabited

/-- Fields of a BRN instruction (R206, R207). -/
structure BrnF where
  pneg : Bool
  psel : Nat
  dst : Nat
  srca : Nat
  rsv : Nat
  disp : Word
deriving DecidableEq, Repr, Inhabited

/-- Fields of an SPC instruction (R206, R207). SRCB is given its own field, bits 35:28. -/
structure SpcF where
  pneg : Bool
  psel : Nat
  dst : Nat
  srca : Nat
  srcb : Nat
  spec : Nat
deriving DecidableEq, Repr, Inhabited

/-- Fields of a TCU format A instruction (R327). -/
structure TaF where
  dst : Nat
  sa : Nat
  sb : Nat
  rsv : Nat
deriving DecidableEq, Repr, Inhabited

/-- Fields of a TCU format I instruction (R327). -/
structure TiF where
  dst : Nat
  sa : Nat
  imm : Nat
deriving DecidableEq, Repr, Inhabited

/-- Fields of a TCU format B instruction (R327). -/
structure TbF where
  sa : Nat
  sb : Nat
  disp : Nat
deriving DecidableEq, Repr, Inhabited

/-- Field of a TCU format J instruction (R327). -/
structure TjF where
  disp : Nat
deriving DecidableEq, Repr, Inhabited

/-- Fields of a TCU format S instruction (R327). -/
structure TsF where
  dst : Nat
  sa : Nat
  sub : Nat
deriving DecidableEq, Repr, Inhabited

/-- What a power period brings from outside what the state counts: the mesh flits of the period by tile and context (R560; log 153), and for each core
rail how a VOUT_COMMAND and its retry go (R863). -/
structure PeriodAct where
  flits : List ((Nat × Nat) × Nat)
  vout : List (Bool × Bool)
deriving DecidableEq, Repr, Inhabited

/-- A configuration request of the host that changes more than PCIe's own bookkeeping (R610, R613): the size of PF BAR4 in GiB, the power state of a
function, a DOE request. -/
inductive CfgReq where
  | resizeBar4 (gib : Nat)
  | power (fn : Nat) (d3hot : Bool)
  | doe (vendor protocol index : Nat)
deriving DecidableEq, Repr, Inhabited

/-- An outbound non-posted request that fails (R623): of a load, of a fence the confirming read of one of its destinations, of a stream line
or a COPY. -/
inductive Request where
  | load (id : Nat)
  | fence (tile : Nat) (tcu : Bool) (slot dest : Nat)
  | line (tile index : Nat)
  | copy (id : Nat)
deriving DecidableEq, Repr, Inhabited

/-- What the controller meets on a read and on its retry (R634, R635): the symbols in error of the line's four codewords; and the number of
on-die corrections that the reads reported. -/
structure ReadErr where
  first : List Nat
  retry : List Nat
  onDie : Nat
deriving DecidableEq, Repr, Inhabited

/-- What the boot ROM meets (R811–R814): the self-tests, the chip section as it reads it over the boot port, the SEQ of the image copy in use, and
whether every stack trained. -/
structure BootObs where
  selfTest : Bool
  image : List Byte
  sequence : Nat
  hbm : Bool
deriving DecidableEq, Repr, Inhabited

/-- The result of a loopback (R840, R841): bits compared, bit errors after FEC, and by lane the corrected symbols and the bits counted;
`partner`: the partner took part. -/
structure LoopObs where
  bits : Nat
  errors : Nat
  lanes : List Nat
  laneBits : Nat
  partner : Bool
deriving DecidableEq, Repr, Inhabited

/-- A final status that the bridge received from a chip (R716, R745, R746): STATUS 1 OK, 2 ABORT, 4 NOT_READY, or 0xFF for a lasting
SMP error; TYPE, TOTAL, GEN and DATA of the response; and the transient errors on the way. -/
structure BridgeFinal where
  pos : Nat
  status : Nat
  typ : Nat
  total : Nat
  gen : Nat
  data : List Byte
  transients : Nat
deriving DecidableEq, Repr, Inhabited

/-- What a tray observes as it starts (R781, R782, R816, R836): ms for which the bus has been at least 48.0 V, the lid, the host's
standby report, masks of the chips that show NOT_READY and of those whose Lifecycle reads MANUFACTURE, and the BootStatus of each. -/
structure StartObs where
  busMs : Nat
  lidClosed : Bool
  hostReady : Bool
  notReady : Nat
  manufacture : Nat
  boot : List Nat
deriving DecidableEq, Repr, Inhabited

/-- What a tray reads of its chips and its host module (R790, R791, R842): masks of the chips whose every port is ADMIN_DOWN and of those
with a context READY or RUNNING, the PowerDownState of each, whether the host reports off, and how many frames of a CAN FD loopback came
back intact. -/
structure ChipObs where
  adminDown : Nat
  pd : List Nat
  live : Nat
  hostOff : Bool
  intact : Nat
deriving DecidableEq, Repr, Inhabited

/-- What a tray measures for its state block (R777, R778): its input power and bus voltage, the lid, the power of each module, the mask of
chips with a latched coolant stop, whether a chip port is DISABLED or MISWIRED, and a switch tray's links. -/
structure TraySense where
  powerW : Nat
  busMv : Nat
  lid : Bool
  modW : List Nat
  stopped : Nat
  portDown : Bool
  chipLinks : Nat
  rackLinks : Nat
deriving DecidableEq, Repr, Inhabited

/-- A chip's event record as the tray read it (R753). -/
structure LogRecord where
  time : Nat
  seq : Nat
  code : Nat
  source : Nat
  severity : Nat
  detail : List Byte
deriving DecidableEq, Repr, Inhabited

/-- A byte of tray flash that reads differently from what was written: copy 0 image A, 1 image B, 2 dictionary A, 3 dictionary B. -/
structure FlashFault where
  copy : Nat
  off : Nat
  byte : Byte
deriving DecidableEq, Repr, Inhabited

/-- A port's bit-error test (R797): its position and number, corrected symbols by lane, bits per lane, and whether a codeword was
uncorrectable. -/
structure BerObs where
  pos : Nat
  port : Nat
  syms : List Nat
  bits : Nat
  bad : Bool
deriving DecidableEq, Repr, Inhabited
/-- The commands of the block, one per row of the opcode table. -/
inductive Instr where
  /-- ISSUE_CYCLE (R114). -/
  | issueCycle (tile : Nat) (holds : List Nat)
  /-- NOP (R215). -/
  | nop (tile : Nat) (f : SpcF)
  /-- MOVI (R215). -/
  | movi (tile : Nat) (f : ImmF)
  /-- MOV (R215). -/
  | mov (tile : Nat) (f : RegF)
  /-- SEL (R215). -/
  | sel (tile : Nat) (f : RegF)
  /-- RDSPEC (R284). -/
  | rdspec (tile : Nat) (f : SpcF)
  /-- IADD (R215). -/
  | iadd (tile : Nat) (f : RegF)
  /-- ISUB (R215). -/
  | isub (tile : Nat) (f : RegF)
  /-- IMUL (R215). -/
  | imul (tile : Nat) (f : RegF)
  /-- IMULHI (R215). -/
  | imulhi (tile : Nat) (f : RegF)
  /-- IMAD (R215). -/
  | imad (tile : Nat) (f : RegF)
  /-- IMIN (R215). -/
  | imin (tile : Nat) (f : RegF)
  /-- IMAX (R215). -/
  | imax (tile : Nat) (f : RegF)
  /-- AND (R215). -/
  | and (tile : Nat) (f : RegF)
  /-- OR (R215). -/
  | or (tile : Nat) (f : RegF)
  /-- XOR (R215). -/
  | xor (tile : Nat) (f : RegF)
  /-- SHL (R215). -/
  | shl (tile : Nat) (f : RegF)
  /-- SHR (R215). -/
  | shr (tile : Nat) (f : RegF)
  /-- SAR (R215). -/
  | sar (tile : Nat) (f : RegF)
  /-- POPC (R215). -/
  | popc (tile : Nat) (f : RegF)
  /-- CLZ (R215). -/
  | clz (tile : Nat) (f : RegF)
  /-- BREV (R215). -/
  | brev (tile : Nat) (f : RegF)
  /-- IADDI (R215). -/
  | iaddi (tile : Nat) (f : ImmF)
  /-- ISUBI (R215). -/
  | isubi (tile : Nat) (f : ImmF)
  /-- IMULI (R215). -/
  | imuli (tile : Nat) (f : ImmF)
  /-- IMULHII (R215). -/
  | imulhii (tile : Nat) (f : ImmF)
  /-- IMINI (R215). -/
  | imini (tile : Nat) (f : ImmF)
  /-- IMAXI (R215). -/
  | imaxi (tile : Nat) (f : ImmF)
  /-- ANDI (R215). -/
  | andi (tile : Nat) (f : ImmF)
  /-- ORI (R215). -/
  | ori (tile : Nat) (f : ImmF)
  /-- XORI (R215). -/
  | xori (tile : Nat) (f : ImmF)
  /-- SHLI (R215). -/
  | shli (tile : Nat) (f : ImmF)
  /-- SHRI (R215). -/
  | shri (tile : Nat) (f : ImmF)
  /-- SARI (R215). -/
  | sari (tile : Nat) (f : ImmF)
  /-- ISETP (R218). -/
  | isetp (tile : Nat) (f : RegF)
  /-- ISETPI (R218). -/
  | isetpi (tile : Nat) (f : ImmF)
  /-- FSETP (R219). -/
  | fsetp (tile : Nat) (f : RegF)
  /-- PLOP (R220). -/
  | plop (tile : Nat) (f : RegF)
  /-- VOTE (R231). -/
  | vote (tile : Nat) (f : RegF)
  /-- FADD (R222). -/
  | fadd (tile : Nat) (f : RegF)
  /-- FMUL (R222). -/
  | fmul (tile : Nat) (f : RegF)
  /-- FFMA (R222). -/
  | ffma (tile : Nat) (f : RegF)
  /-- FMIN (R224). -/
  | fmin (tile : Nat) (f : RegF)
  /-- FMAX (R224). -/
  | fmax (tile : Nat) (f : RegF)
  /-- FRCP (R222). -/
  | frcp (tile : Nat) (f : RegF)
  /-- FRSQ (R222). -/
  | frsq (tile : Nat) (f : RegF)
  /-- FSQRT (R222). -/
  | fsqrt (tile : Nat) (f : RegF)
  /-- FEXP2 (R222). -/
  | fexp2 (tile : Nat) (f : RegF)
  /-- FLOG2 (R222). -/
  | flog2 (tile : Nat) (f : RegF)
  /-- FSIN (R222). -/
  | fsin (tile : Nat) (f : RegF)
  /-- FCOS (R222). -/
  | fcos (tile : Nat) (f : RegF)
  /-- HADD2 (R222). -/
  | hadd2 (tile : Nat) (f : RegF)
  /-- HMUL2 (R222). -/
  | hmul2 (tile : Nat) (f : RegF)
  /-- HFMA2 (R222). -/
  | hfma2 (tile : Nat) (f : RegF)
  /-- CVT (R227). -/
  | cvt (tile : Nat) (f : RegF)
  /-- SHFL (R228). -/
  | shfl (tile : Nat) (f : RegF)
  /-- REDUX (R229). -/
  | redux (tile : Nat) (f : RegF)
  /-- SCANX (R230). -/
  | scanx (tile : Nat) (f : RegF)
  /-- LDL (R243). -/
  | ldl (tile : Nat) (f : MemF)
  /-- STL (R239). -/
  | stl (tile : Nat) (f : MemF)
  /-- ATOML (R186). -/
  | atoml (tile : Nat) (f : MemF)
  /-- LD (R243). -/
  | ld (tile : Nat) (f : MemF)
  /-- ST (R243). -/
  | st (tile : Nat) (f : MemF)
  /-- ATOM (R235). -/
  | atom (tile : Nat) (f : MemF)
  /-- GATHER (R238). -/
  | gather (tile : Nat) (f : MemF)
  /-- SCATTER (R239). -/
  | scatter (tile : Nat) (f : MemF)
  /-- FENCE (R240). -/
  | fence (tile : Nat) (f : SpcF)
  /-- FENCE_RETIRE (R174). -/
  | fenceRetire (tile : Nat) (tcu : Bool) (slot : Nat)
  /-- BRA (R247). -/
  | bra (tile : Nat) (f : BrnF)
  /-- BRX (R248). -/
  | brx (tile : Nat) (f : BrnF)
  /-- CALL (R247). -/
  | call (tile : Nat) (f : BrnF)
  /-- RET (R248). -/
  | ret (tile : Nat) (f : BrnF)
  /-- EXIT (R249). -/
  | exit (tile : Nat) (f : BrnF)
  /-- EXIT_RELEASE (R249). -/
  | exitRelease (tile slot lane : Nat)
  /-- BAR (R250). -/
  | bar (tile : Nat) (f : SpcF)
  /-- BARRIER_COMPLETE (R251). -/
  | barrierComplete (tile bslot scope id : Nat)
  /-- EVSIG (R257). -/
  | evsig (tile : Nat) (f : SpcF)
  /-- EVWAIT (R259). -/
  | evwait (tile : Nat) (f : SpcF)
  /-- EVWAIT_RESUME (R259). -/
  | evwaitResume (tile slot lane : Nat)
  /-- EVWAIT_TIMEOUT (R260). -/
  | evwaitTimeout (now tile slot lane : Nat)
  /-- EVPOLL (R263). -/
  | evpoll (tile : Nat) (f : SpcF)
  /-- TRACE (R265). -/
  | trace (tile : Nat) (f : SpcF)
  /-- TRACEQ (R273). -/
  | traceq (tile : Nat) (f : SpcF)
  /-- PHASE (R275). -/
  | phase (tile : Nat) (f : SpcF)
  /-- SACQ (R278). -/
  | sacq (tile : Nat) (f : SpcF)
  /-- SACQ_WAKE (R391). -/
  | sacqWake (tile slot : Nat)
  /-- SREL (R279). -/
  | srel (tile : Nat) (f : SpcF)
  /-- CHOP (R342). -/
  | chop (tile : Nat) (f : SpcF)
  /-- CHWAIT (R282). -/
  | chwait (tile : Nat) (f : SpcF)
  /-- CHWAIT_RETURN (R282). -/
  | chwaitReturn (tile slot : Nat)
  /-- DEMAND_FETCH (R134). -/
  | demandFetch (tile : Nat) (tcu : Bool) (slot : Nat)
  /-- SPECULATIVE_FETCH (R129). -/
  | speculativeFetch (tile : Nat) (tcu : Bool) (slot va : Nat)
  /-- STORE_BUFFER_DRAIN (R182). -/
  | storeBufferDrain (tile : Option Nat) (index : Nat)
  /-- BLOCK_PLACE (R118). -/
  | blockPlace (tile : Nat)
  /-- LAUNCH_QUEUE_RESERVE (R119). -/
  | launchQueueReserve (now tile : Nat)
  /-- TILE_CNT_SNAP_TAKE (R141). -/
  | tileCntSnapTake (fn tile : Nat) (val : DWord)
  /-- COUNTER_LOW_READ (R140). -/
  | counterLowRead (fn addr size : Nat)
  /-- COUNTER_HIGH_READ (R140). -/
  | counterHighRead (fn addr : Nat)
  /-- LOWER_HALF_WRITE (R615). -/
  | lowerHalfWrite (fn addr : Nat) (val : Word)
  /-- UPPER_HALF_WRITE (R615). -/
  | upperHalfWrite (fn addr : Nat) (val : Word)
  /-- REGISTER_WRITE (R89). -/
  | registerWrite (fn addr size : Nat) (val : DWord)
  /-- DOORBELL (R52). -/
  | doorbell (fn q offset size : Nat) (val : Option DWord)
  /-- NOP_COMMAND (R56). -/
  | nopCommand (q : Nat) (raw : List Byte)
  /-- LAUNCH (R64). -/
  | launch (q : Nat) (raw : List Byte) (host : List (Nat × Byte))
  /-- LAUNCH_COMPLETE (R54). -/
  | launchComplete (id : Nat)
  /-- EPOCH_COMMAND (R50). -/
  | epochCommand (q : Nat) (raw : List Byte)
  /-- EPOCH_APPLY_TIMEOUT (R84). -/
  | epochApplyTimeout (now : Nat)
  /-- WAIT_COMMAND (R56). -/
  | waitCommand (q : Nat) (raw : List Byte)
  /-- WAIT_SATISFIED (R56). -/
  | waitSatisfied (id : Nat) (host : List (Nat × Byte))
  /-- SIGNAL_COMMAND (R56). -/
  | signalCommand (q : Nat) (raw : List Byte)
  /-- COPY_COMMAND (R56). -/
  | copyCommand (q : Nat) (raw : List Byte)
  /-- COPY_COMPLETE (R54). -/
  | copyComplete (id : Nat) (host : List (Nat × Byte))
  /-- KILL_COMMAND (R70). -/
  | killCommand (q : Nat) (raw : List Byte)
  /-- HST_Q_RESUME (R58). -/
  | hstQResume (fn q : Nat) (val : DWord)
  /-- HST_Q_SKIP (R58). -/
  | hstQSkip (fn q : Nat) (val : DWord)
  /-- WATCHDOG (R68). -/
  | watchdog (now id : Nat)
  /-- CTX_CTRL_CREATE (R69). -/
  | ctxCtrlCreate (fn c : Nat) (val : DWord)
  /-- CTX_CTRL_KILL (R70). -/
  | ctxCtrlKill (fn c : Nat) (val : DWord)
  /-- CTX_CTRL_RELEASE (R69). -/
  | ctxCtrlRelease (fn c : Nat) (val : DWord)
  /-- CTX_KILL (R70). -/
  | ctxKill (c val : Nat)
  /-- HOST_EVENT_POST (R254). -/
  | hostEventPost (fn c : Nat) (val : DWord)
  /-- TLB_INVALIDATE (R159). -/
  | tlbInvalidate (fn c : Nat) (val : DWord)
  /-- TLB_INVALIDATE_COMPLETE (R159). -/
  | tlbInvalidateComplete (c : Nat)
  /-- FAULT_ARRIVAL (R17). -/
  | faultArrival (n : Nat)
  /-- KILL_COMPLETE (R72). -/
  | killComplete (c : Nat)
  /-- EVENT_DEADLOCK (R82). -/
  | eventDeadlock (now c : Nat)
  /-- DRAIN_APPLY (R93). -/
  | drainApply (now : Nat)
  /-- DRAIN_TIMEOUT (R95). -/
  | drainTimeout (now : Nat)
  /-- TCU_SLOT_ASSIGN (R285). -/
  | tcuSlotAssign (tile : Nat)
  /-- TCU_ADD (R331). -/
  | tcuAdd (tile slot : Nat) (f : TaF)
  /-- TCU_SUB (R331). -/
  | tcuSub (tile slot : Nat) (f : TaF)
  /-- TCU_AND (R331). -/
  | tcuAnd (tile slot : Nat) (f : TaF)
  /-- TCU_OR (R331). -/
  | tcuOr (tile slot : Nat) (f : TaF)
  /-- TCU_XOR (R331). -/
  | tcuXor (tile slot : Nat) (f : TaF)
  /-- TCU_SHL (R331). -/
  | tcuShl (tile slot : Nat) (f : TaF)
  /-- TCU_SHR (R331). -/
  | tcuShr (tile slot : Nat) (f : TaF)
  /-- TCU_SAR (R331). -/
  | tcuSar (tile slot : Nat) (f : TaF)
  /-- TCU_MUL (R331). -/
  | tcuMul (tile slot : Nat) (f : TaF)
  /-- TCU_SLT (R331). -/
  | tcuSlt (tile slot : Nat) (f : TaF)
  /-- TCU_SLTU (R331). -/
  | tcuSltu (tile slot : Nat) (f : TaF)
  /-- TCU_ADDI (R331). -/
  | tcuAddi (tile slot : Nat) (f : TiF)
  /-- TCU_ANDI (R331). -/
  | tcuAndi (tile slot : Nat) (f : TiF)
  /-- TCU_ORI (R331). -/
  | tcuOri (tile slot : Nat) (f : TiF)
  /-- TCU_XORI (R331). -/
  | tcuXori (tile slot : Nat) (f : TiF)
  /-- TCU_LUI (R331). -/
  | tcuLui (tile slot : Nat) (f : TiF)
  /-- TCU_SHLI (R331). -/
  | tcuShli (tile slot : Nat) (f : TiF)
  /-- TCU_SHRI (R331). -/
  | tcuShri (tile slot : Nat) (f : TiF)
  /-- TCU_SARI (R331). -/
  | tcuSari (tile slot : Nat) (f : TiF)
  /-- TCU_LDW (R305). -/
  | tcuLdw (tile slot : Nat) (f : TiF)
  /-- TCU_STW (R305). -/
  | tcuStw (tile slot : Nat) (f : TiF)
  /-- TCU_LDV (R306). -/
  | tcuLdv (tile slot : Nat) (f : TiF)
  /-- TCU_STV (R306). -/
  | tcuStv (tile slot : Nat) (f : TiF)
  /-- TCU_BEQ (R330). -/
  | tcuBeq (tile slot : Nat) (f : TbF)
  /-- TCU_BNE (R330). -/
  | tcuBne (tile slot : Nat) (f : TbF)
  /-- TCU_BLT (R330). -/
  | tcuBlt (tile slot : Nat) (f : TbF)
  /-- TCU_BGE (R330). -/
  | tcuBge (tile slot : Nat) (f : TbF)
  /-- TCU_BLTU (R330). -/
  | tcuBltu (tile slot : Nat) (f : TbF)
  /-- TCU_BGEU (R330). -/
  | tcuBgeu (tile slot : Nat) (f : TbF)
  /-- TCU_JAL (R330). -/
  | tcuJal (tile slot : Nat) (f : TjF)
  /-- TCU_JR (R330). -/
  | tcuJr (tile slot : Nat) (f : TaF)
  /-- TCU_SAVE (R295). -/
  | tcuSave (tile slot : Nat) (f : TsF)
  /-- TCU_RESTORE (R297). -/
  | tcuRestore (tile slot : Nat) (f : TsF)
  /-- TCU_TRET (R299). -/
  | tcuTret (tile slot : Nat) (f : TsF)
  /-- TCU_HRET (R326). -/
  | tcuHret (tile slot : Nat) (f : TsF)
  /-- TCU_SEND (R318). -/
  | tcuSend (tile slot : Nat) (f : TsF)
  /-- MESSAGE_ARRIVAL (R320). -/
  | messageArrival (now tile slot : Nat)
  /-- MESSAGE_RETRY (R320). -/
  | messageRetry (now tile slot : Nat)
  /-- SEND_STATUS (R318). -/
  | sendStatus (now tile slot : Nat)
  /-- TCU_RECV (R322). -/
  | tcuRecv (tile slot : Nat) (f : TsF)
  /-- TCU_RECVW (R322). -/
  | tcuRecvw (tile slot : Nat) (f : TsF)
  /-- RECVW_WAKE (R322). -/
  | recvwWake (tile slot : Nat)
  /-- HANDLER_DISPATCH (R325). -/
  | handlerDispatch (tile slot : Nat)
  /-- TCU_PLACE (R308). -/
  | tcuPlace (tile slot : Nat) (f : TsF)
  /-- PLACE_WAKE (R308). -/
  | placeWake (tile slot : Nat)
  /-- TCU_STARTB (R312). -/
  | tcuStartb (tile slot : Nat) (f : TsF)
  /-- TCU_WAITB (R313). -/
  | tcuWaitb (tile slot : Nat) (f : TsF)
  /-- WAITB_WAKE (R313). -/
  | waitbWake (tile slot : Nat)
  /-- TCU_RETIRE (R314). -/
  | tcuRetire (tile slot : Nat) (f : TsF)
  /-- TCU_TEVSIG (R316). -/
  | tcuTevsig (tile slot : Nat) (f : TsF)
  /-- TCU_RDSR (R332). -/
  | tcuRdsr (tile slot : Nat) (f : TsF)
  /-- TCU_WRSR (R332). -/
  | tcuWrsr (tile slot : Nat) (f : TsF)
  /-- TCU_FENCE (R307). -/
  | tcuFence (tile slot : Nat) (f : TsF)
  /-- TCU_WRD (R299). -/
  | tcuWrd (tile slot : Nat) (f : TsF)
  /-- TCU_WWR (R299). -/
  | tcuWwr (tile slot : Nat) (f : TsF)
  /-- TCU_END (R315). -/
  | tcuEnd (tile slot : Nat) (f : TsF)
  /-- END_COMPLETE (R315). -/
  | endComplete (tile slot : Nat)
  /-- CHISEL_OP_START (R357). -/
  | chiselOpStart (tile : Nat)
  /-- CHISEL_OP_COMPLETE (R355). -/
  | chiselOpComplete (tile op : Nat)
  /-- RELAY_SLICE_ARRIVAL (R353). -/
  | relaySliceArrival (tile : Nat) (plus : Bool)
  /-- RELAY_TIMEOUT (R356). -/
  | relayTimeout (now tile op : Nat)
  /-- NEURAL_BATCH_ARRIVAL (R366). -/
  | neuralBatchArrival (n : Nat)
  /-- NEURAL_BATCH_START (R371). -/
  | neuralBatchStart (tile : Nat)
  /-- NEURAL_WEIGHT_CACHE_FILL (R368). -/
  | neuralWeightCacheFill (tile : Nat)
  /-- NEURAL_BATCH_COMPLETE (R365). -/
  | neuralBatchComplete (tile : Nat)
  /-- STREAM_OPEN (R382). -/
  | streamOpen (tile slot : Nat) (f : TsF)
  /-- STREAM_CLOSE (R384). -/
  | streamClose (tile slot : Nat) (f : TsF)
  /-- STREAM_CLOSE_COMPLETE (R384). -/
  | streamCloseComplete (num : Nat)
  /-- STR_CTX_RANGE_WRITE (R378). -/
  | strCtxRangeWrite (fn c : Nat) (val : DWord)
  /-- LINE_REQUEST_ISSUE (R407). -/
  | lineRequestIssue (tile : Nat)
  /-- LINE_ARRIVAL (R394). -/
  | lineArrival (tile index : Nat) (host : List (Nat × Byte))
  /-- STORE_LINE_DONE (R401). -/
  | storeLineDone (tile index : Nat)
  /-- LINK_TRANSFER (R398). -/
  | linkTransfer (num : Nat)
  /-- LINK_SLOT_DELIVERED (R398). -/
  | linkSlotDelivered (num : Nat)
  /-- WAIT_CYCLE_SCAN (R412). -/
  | waitCycleScan (now : Nat)
  /-- RAY_PACKET_ARRIVAL (R459). -/
  | rayPacketArrival (n : Nat)
  /-- VISIT_ARRIVAL (R462). -/
  | visitArrival (n : Nat)
  /-- VISIT_RETURN (R462). -/
  | visitReturn (n : Nat)
  /-- NODE_FETCH (R439). -/
  | nodeFetch (arm ray : Nat)
  /-- SPECULATIVE_NODE_FETCH (R480). -/
  | speculativeNodeFetch (arm ray va : Nat)
  /-- NEURAL_BATCH_SEND (R474). -/
  | neuralBatchSend (arm : Nat)
  /-- NEURAL_REPLY (R473). -/
  | neuralReply (n : Nat)
  /-- PLACEMENT_PERIOD (R455). -/
  | placementPeriod (now : Nat)
  /-- MAQUETTE_BUILD (R442). -/
  | maquetteBuild (fn p : Nat) (val : DWord)
  /-- MAQUETTE_BUILD_COMPLETE (R449). -/
  | maquetteBuildComplete (p : Nat)
  /-- MAQUETTE_RELEASE (R448). -/
  | maquetteRelease (fn p : Nat) (val : DWord)
  /-- RELOAD (R453). -/
  | reload (fn p : Nat) (val : DWord)
  /-- TRACE_ADMISSION (R499). -/
  | traceAdmission (now unit : Nat)
  /-- BIN_TIMEOUT (R506). -/
  | binTimeout (now unit bin : Nat)
  /-- PACKET_SEND (R509). -/
  | packetSend (now unit : Nat)
  /-- BIN_TIMEOUT_ADJUST (R511). -/
  | binTimeoutAdjust (now unit : Nat)
  /-- HIT_ARRIVAL (R515). -/
  | hitArrival (n : Nat)
  /-- HIT_BIN_TIMEOUT (R518). -/
  | hitBinTimeout (now unit bin : Nat)
  /-- HIT_RING_WRITE (R519). -/
  | hitRingWrite (unit : Nat)
  /-- HIT_RING_RETRY (R519). -/
  | hitRingRetry (unit : Nat)
  /-- DISPATCH_BLOCK (R520). -/
  | dispatchBlock (unit : Nat) (host : List (Nat × Byte))
  /-- OVERLOAD_SAMPLE (R529). -/
  | overloadSample (now p : Nat)
  /-- DROOP_DETECT (R545). -/
  | droopDetect (tile detector mv : Nat)
  /-- DROOP_STRETCH_END (R545). -/
  | droopStretchEnd (tile : Nat)
  /-- POWER_PERIOD (R568). -/
  | powerPeriod (now : Nat) (act : PeriodAct)
  /-- RECONCILIATION_WINDOW (R561). -/
  | reconciliationWindow (now : Nat) (reads : List (Option Nat))
  /-- VOLTAGE_SETTLED (R554). -/
  | voltageSettled (die : Nat)
  /-- PMBUS_REPORT (R564). -/
  | pmbusReport (now : Nat) (vin : Option Nat) (rail : List (Option Nat))
  /-- THERMAL_SAMPLE (R583). -/
  | thermalSample (now : Nat) (tiles base : List Nat)
  /-- THERMAL_STEP (R584). -/
  | thermalStep (now : Nat)
  /-- SHED_ENTER (R587). -/
  | shedEnter (now mv : Nat)
  /-- SHED_EXIT (R589). -/
  | shedExit (now mv : Nat)
  /-- COOLANT_STOP (R593). -/
  | coolantStop (now n : Nat)
  /-- COOLANT_GLITCH (R592). -/
  | coolantGlitch
  /-- PHASE_MARK_APPLY (R276). -/
  | phaseMarkApply (now p : Nat)
  /-- PART_LEARN_RESET (R570). -/
  | partLearnReset (p val : Nat)
  /-- AGEING_EPOCH (R552). -/
  | ageingEpoch
  /-- BAR4_READ (R620). -/
  | bar4Read (fn offset bytes : Nat) (atomicOp : Bool)
  /-- BAR4_WRITE (R620). -/
  | bar4Write (fn offset : Nat) (data : List Byte)
  /-- VF_FLR (R625). -/
  | vfFlr (vf : Nat)
  /-- LINK_DOWN (R624). -/
  | linkDown
  /-- LINK_RETRAIN (R612). -/
  | linkRetrain (speed width : Nat) (flit : Bool) (replays : Nat)
  /-- COMPLETION_FAILURE (R623). -/
  | completionFailure (req : Request) (host : List (Nat × Byte))
  /-- COMPLETION_TIMEOUT (R623). -/
  | completionTimeout (now : Nat) (req : Request) (host : List (Nat × Byte))
  /-- MSIX_UNMASK (R628). -/
  | msixUnmask (vector : Nat)
  /-- HBM_READ_ERROR (R635). -/
  | hbmReadError (now pa : Nat) (err : ReadErr)
  /-- ROW_RETIRE_COMPLETE (R643). -/
  | rowRetireComplete (now stack index bad : Nat)
  /-- PATROL_READ (R641). -/
  | patrolRead (now stack : Nat) (err : ReadErr)
  /-- HBM_REFRESH (R633). -/
  | hbmRefresh (now stack : Nat)
  /-- HBM_TEMP_READ (R647). -/
  | hbmTempRead (now stack temp : Nat)
  /-- RETIRE_ROW (R645). -/
  | retireRow (now : Nat) (val : Word)
  /-- LOOPBACK_PCIE_PIPE (R837). -/
  | loopbackPciePipe (now : Nat) (cmd : List Byte)
  /-- LOOPBACK_PCIE_NEAR_END (R837). -/
  | loopbackPcieNearEnd (now : Nat) (cmd : List Byte)
  /-- LOOPBACK_HBM_CONTROLLER (R837). -/
  | loopbackHbmController (now : Nat) (cmd : List Byte)
  /-- LOOPBACK_HBM_PHY (R837). -/
  | loopbackHbmPhy (now : Nat) (cmd : List Byte)
  /-- LOOPBACK_NGUA_NEAR_END_PCS (R837). -/
  | loopbackNguaNearEndPcs (now : Nat) (cmd : List Byte)
  /-- LOOPBACK_NGUA_FAR_END_PMA (R837). -/
  | loopbackNguaFarEndPma (now : Nat) (cmd : List Byte)
  /-- LOOPBACK_NGUA_LINK_LAYER (R837). -/
  | loopbackNguaLinkLayer (now : Nat) (cmd : List Byte)
  /-- LOOPBACK_NGUA_TRANSACTION (R837). -/
  | loopbackNguaTransaction (now : Nat) (cmd : List Byte)
  /-- LOOPBACK_STOP (R839). -/
  | loopbackStop (now val : Nat)
  /-- LOOPBACK_END (R839). -/
  | loopbackEnd (now : Nat) (obs : LoopObs)
  /-- FRAME_RECEIVE (R662). -/
  | frameReceive (now port : Nat) (lanes : List (List Nat))
  /-- TRAIN_FLIT_RECEIVE (R664). -/
  | trainFlitReceive (now port : Nat)
  /-- TRAINING_TIMEOUT (R663). -/
  | trainingTimeout (now port : Nat)
  /-- PORT_TRAIN_RETRY (R663). -/
  | portTrainRetry (now port : Nat)
  /-- DATA_FLIT_RECEIVE (R667). -/
  | dataFlitReceive (now port : Nat)
  /-- IDLE_FLIT_RECEIVE (R668). -/
  | idleFlitReceive (now port : Nat)
  /-- NAK_RECEIVE (R669). -/
  | nakReceive (now port : Nat)
  /-- REPLAY_TIMEOUT (R669). -/
  | replayTimeout (now port : Nat)
  /-- PACKET_START (R674). -/
  | packetStart (now port : Nat)
  /-- PUT_RECEIVE (R678). -/
  | putReceive (now : Nat)
  /-- GET_RECEIVE (R679). -/
  | getReceive (now : Nat)
  /-- EVENT_RECEIVE (R679). -/
  | eventReceive (now : Nat)
  /-- DATA_RECEIVE (R679). -/
  | dataReceive (now : Nat)
  /-- ACK_RECEIVE (R687). -/
  | ackReceive (now : Nat)
  /-- REQUEST_RETRY (R680). -/
  | requestRetry (now dst tid : Nat)
  /-- DETOUR_FORWARD (R690). -/
  | detourForward (now : Nat)
  /-- FABRIC_QUEUE_POLL (R684). -/
  | fabricQueuePoll (now c q : Nat)
  /-- FABRIC_PUT (R686). -/
  | fabricPut (now c q : Nat) (host : List (Nat × Byte))
  /-- FABRIC_GET (R686). -/
  | fabricGet (now c q : Nat)
  /-- FABRIC_EVENT (R683). -/
  | fabricEvent (now c q : Nat)
  /-- TIME_FLIT_SEND (R692). -/
  | timeFlitSend (now port : Nat)
  /-- TIME_FLIT_RECEIVE (R693). -/
  | timeFlitReceive (now port : Nat)
  /-- LOOPBACK_FLIT_RECEIVE (R698). -/
  | loopbackFlitReceive (now port : Nat)
  /-- ADMIN_DOWN (R673). -/
  | adminDown (port : Nat)
  /-- ADMIN_DOWN_COMPLETE (R673). -/
  | adminDownComplete (now port : Nat)
  /-- ADMIN_UP (R670). -/
  | adminUp (now port : Nat)
  /-- SMP_CS_ASSERT (R707). -/
  | smpCsAssert (now : Nat)
  /-- SMP_CS_DEASSERT (R709). -/
  | smpCsDeassert (now : Nat)
  /-- SMP_FRAME (R708). -/
  | smpFrame (now : Nat) (frame : List Byte)
  /-- SMP_NOP (R713). -/
  | smpNop (now : Nat)
  /-- SMP_READ (R719). -/
  | smpRead (now : Nat)
  /-- SMP_WRITE (R721). -/
  | smpWrite (now : Nat)
  /-- COMMIT_OPEN (R728). -/
  | commitOpen (now : Nat)
  /-- COMMIT_EXECUTE (R730). -/
  | commitExecute (now : Nat)
  /-- COMMIT_DISCARD (R727). -/
  | commitDiscard (now : Nat)
  /-- COMMIT_BUILD_TIMEOUT (R731). -/
  | commitBuildTimeout (tray : Option Nat) (now : Nat)
  /-- POWER_DOWN_ORDERLY (R734). -/
  | powerDownOrderly (now : Nat)
  /-- POWER_DOWN_FORCED (R734). -/
  | powerDownForced (now : Nat)
  /-- POWER_DOWN_DONE (R735). -/
  | powerDownDone (now : Nat)
  /-- PLINTH_REQUEST (R743). -/
  | plinthRequest (who now src : Nat) (msg : List Byte) (obs : ChipObs) (finals : List BridgeFinal)
  /-- BRIDGE_TIMEOUT (R746). -/
  | bridgeTimeout (now pos : Nat)
  /-- SMP_REENABLE (R748). -/
  | smpReenable (now src seq pos val : Nat)
  /-- REQUEST_RESEND (R743). -/
  | requestResend (who now src : Nat) (msg : List Byte) (obs : ChipObs) (finals : List BridgeFinal)
  /-- STATE_FRAME_SEND (R741). -/
  | stateFrameSend (who now : Nat) (obs : TraySense)
  /-- STATE_FRAME_RECEIVE (R762). -/
  | stateFrameReceive (who now node : Nat) (emergency : Bool) (block : List Byte)
  /-- EMERGENCY_FRAME_SEND (R741). -/
  | emergencyFrameSend (who now : Nat) (obs : TraySense)
  /-- BUS_LOST (R763). -/
  | busLost (now : Nat)
  /-- CEILING_RAISE (R766). -/
  | ceilingRaise (now : Nat)
  /-- CAP_CHECK (R765). -/
  | capCheck (now : Nat) (caps : List Nat)
  /-- FLOW_SAMPLE (R768). -/
  | flowSample (who now flow supply ret : Nat) (latched wet : Bool)
  /-- LEAK_POWER_REMOVE (R773). -/
  | leakPowerRemove (now : Nat)
  /-- MODULE_THERMTRIP (R774). -/
  | moduleThermtrip (now pos : Nat)
  /-- TRAY_START_STEP (R782). -/
  | trayStartStep (now : Nat) (obs : StartObs)
  /-- HOST_STANDBY_TIMEOUT (R784). -/
  | hostStandbyTimeout (now : Nat)
  /-- CHIP_READY_TIMEOUT (R784). -/
  | chipReadyTimeout (now : Nat)
  /-- SWITCH_WAIT_TIMEOUT (R782). -/
  | switchWaitTimeout (now : Nat)
  /-- SWITCH_TRAY_POWER_OFF (R787). -/
  | switchTrayPowerOff (now : Nat)
  /-- SERVICE_DRAIN (R790). -/
  | serviceDrain (now src seq : Nat) (obs : ChipObs)
  /-- SERVICE_DRAIN_FORCED (R790). -/
  | serviceDrainForced (now src seq : Nat) (obs : ChipObs)
  /-- SERVICE_PULL (R794). -/
  | servicePull (now src seq : Nat)
  /-- SERVICE_RESUME (R794). -/
  | serviceResume (now src seq : Nat)
  /-- TRAY_DRAIN_STEP (R791). -/
  | trayDrainStep (now : Nat) (obs : ChipObs)
  /-- HOST_SHUTDOWN_TIMEOUT (R791). -/
  | hostShutdownTimeout (now : Nat)
  /-- TRAY_DRAIN_OBJECT_WRITE (R795). -/
  | trayDrainObjectWrite (now src seq sub val : Nat) (obs : ChipObs)
  /-- MODULE_CYCLE (R803). -/
  | moduleCycle (now src seq val : Nat) (obs : ChipObs)
  /-- BER_INSTALL (R798). -/
  | berInstall (now src seq : Nat) (obs : ChipObs)
  /-- BER_INSTALL_END (R801). -/
  | berInstallEnd (now : Nat) (results : List BerObs)
  /-- BER_PERIODIC (R799). -/
  | berPeriodic (now : Nat) (up spare : List (Nat × Nat))
  /-- BER_PORT_TEST_END (R800). -/
  | berPortTestEnd (now : Nat) (result : BerObs) (spare : List (Nat × Nat))
  /-- CAN_LOOPBACK (R842). -/
  | canLoopback (who now src seq : Nat) (obs : ChipObs)
  /-- EVENT_LOG_POLL (R757). -/
  | eventLogPoll (now pos seq : Nat) (recs : List LogRecord)
  /-- IMAGE_BLOCK (R826). -/
  | imageBlock (who now src seq : Nat) (data : List Byte)
  /-- IMAGE_SAVE (R827). -/
  | imageSave (who now src seq : Nat)
  /-- IMAGE_SAVE_COMPLETE (R823). -/
  | imageSaveComplete (who now : Nat)
  /-- DICT_SAVE (R824). -/
  | dictSave (who now : Nat)
  /-- TRAY_CONTROLLER_START (R822). -/
  | trayControllerStart (who : Nat) (flash : List FlashFault)
  /-- KEY_GENERATE (R829). -/
  | keyGenerate (now fn : Nat) (val : DWord)
  /-- KEY_LOAD (R830). -/
  | keyLoad (now fn : Nat) (val : DWord)
  /-- KEY_ERASE (R829). -/
  | keyErase (now fn : Nat) (val : DWord)
  /-- UNLOCK_TOKEN (R846). -/
  | unlockToken (now : Nat) (token : List Byte)
  /-- UNLOCK_OPEN (R846). -/
  | unlockOpen (now : Nat)
  /-- INTRUSION (R848). -/
  | intrusion (now : Nat)
  /-- PWRIN_GOOD_RISE (R805). -/
  | pwrinGoodRise
  /-- PWRIN_GOOD_FALL (R867). -/
  | pwrinGoodFall
  /-- CHIP_RST_N_ASSERT (R805). -/
  | chipRstNAssert
  /-- RESET_COMMAND_COLD (R854). -/
  | resetCommandCold (now val : Nat)
  /-- BOOT_COMPLETE (R813). -/
  | bootComplete (now : Nat) (obs : BootObs)
  /-- PF_FLR (R625). -/
  | pfFlr (now : Nat)
  /-- HOT_RESET (R625). -/
  | hotReset (now : Nat)
  /-- PERST_N_ASSERT (R805). -/
  | perstNAssert (now : Nat)
  /-- RESET_COMMAND_WARM (R854). -/
  | resetCommandWarm (now val : Nat)
  /-- WARM_RESET_COMPLETE (R808). -/
  | warmResetComplete (now : Nat) (coolant : Bool)
  /-- JTAG_EXTEST (R833). -/
  | jtagExtest
  /-- JTAG_IDCODE (R834). -/
  | jtagIdcode
  /-- JTAG_SAMPLE_PRELOAD (R833). -/
  | jtagSamplePreload
  /-- JTAG_CLAMP (R833). -/
  | jtagClamp
  /-- JTAG_HIGHZ (R833). -/
  | jtagHighz
  /-- JTAG_EXTEST_PULSE (R833). -/
  | jtagExtestPulse
  /-- JTAG_EXTEST_TRAIN (R833). -/
  | jtagExtestTrain
  /-- JTAG_TEST_INSTRUCTION (R833). -/
  | jtagTestInstruction (code : Nat)
  /-- JTAG_BYPASS (R833). -/
  | jtagBypass (code : Nat)
  /-- CHIP_RST_N_DEASSERT (R813). -/
  | chipRstNDeassert
  /-- PERST_N_DEASSERT (R810). -/
  | perstNDeassert (now : Nat)
  /-- LINK_UP (R624). -/
  | linkUp (speed width : Nat) (flit : Bool) (cfg : List CfgReq)
  /-- INTRUSION_N_DEASSERT (R850). -/
  | intrusionNDeassert (now : Nat)
  /-- FRAME_LOCK_LOSS (R793). -/
  | frameLockLoss (now port : Nat)
  /-- STATE_FRAME_TIMEOUT (R762). -/
  | stateFrameTimeout (who now node : Nat)
  /-- SWITCH_TRAY_START (R781). -/
  | switchTrayStart (now busMs : Nat)
  /-- MANAGEMENT_TRAY_START (R781). -/
  | managementTrayStart (now busMs : Nat)
  /-- LOAD_RETURN (R174). -/
  | loadReturn (id : Nat) (host : List (Nat × Byte))
deriving DecidableEq, Repr, Inhabited

end Sys2Proof
end

