-- ==== Sys2Proof/Machine/State.lean ====
section
/-! DEFINITION. The state of the CPX-7240 and of the tray controller beside it: plain data, one structure per
part of the specification, the queue of waiting commands, the reasons a step can stop, and the state after reset. -/
namespace Sys2Proof.Machine

/-- Reasons for which a step stops the model. No command of the specification stops the block, so the one
constructor says what a model of this interface needs to name; nothing raises it and it is safe. -/
inductive Fault where
  /-- Never raised: every context fault of R15 is a next state (it kills one context). Safe. -/
  | none
deriving DecidableEq, Repr, Inhabited

/-- Reasons for which a command has no meaning in the model. -/
inductive Refusal where
  /-- A command that has no meaning yet; raised by Dispatch alone; safe. -/
  | notModelled (mnemonic : String)
  /-- The specification names the test instruction and gives it no effect (R833); raised by execJtagTestInstruction; safe. -/
  | testInstructionEffectNotGiven
deriving DecidableEq, Repr, Inhabited


/-! ## Context manager, queues and apply classes (02_sessions.md) -/

/-- The state of a context (R69, R99). -/
inductive CtxState where
  | free | ready | running | killing | dead
deriving DecidableEq, Repr, Inhabited

/-- The code of a context state (R99). -/
def CtxState.code : CtxState → Nat
  | .free => 0 | .ready => 1 | .running => 2 | .killing => 3 | .dead => 4

/-- A fault on its way to the context manager, with the fields of its record that its source knows (R76). -/
structure FaultInfo where
  code : Nat
  ctx : Nat
  tile : Nat := 0xFFFF
  unit : Nat
  lane : Nat := 0xFF
  group : Nat := 0xFF
  pc : Nat := 0
  addr : Nat := 0
  insn : Nat := 0
  detail : Nat := 0
  unitId : Nat := 0xFFFF
  valid : Nat := 0
  tag : Nat := 0xFFFFFF
deriving DecidableEq, Repr, Inhabited

/-- The fault record of a context (R76): the accepted fault and the fields the context manager adds. -/
structure FaultRec where
  info : FaultInfo
  secondary : Nat
  time : Nat
  partition : Nat
  gen : Nat
  seq : Nat
deriving DecidableEq, Repr, Inhabited

/-- CTX_TLB_STATUS and the range being invalidated (R159, R198). -/
structure TlbCtl where
  busy : Bool := false
  dropped : Bool := false
  refused : Bool := false
  first : Nat := 0
  bytes : Nat := 0
deriving DecidableEq, Repr, Inhabited

/-- One of the 64 contexts: its registers (R69, R99, R879, R881, R884) and its shared event lines (R254). `ran`: it was RUNNING when its
kill began (R571). -/
structure Ctx where
  state : CtxState := .free
  part : Nat := 0
  refused : Bool := false
  root : Nat := 0
  tiles : Nat := 0
  faultAddr : Nat := 0
  faultVec : Nat := 0
  hostevArm : Nat := 0
  quietSince : Option Nat := none
  record : Option FaultRec := none
  hostLines : List Word := List.replicate 16 0
  fabricLines : List Word := List.replicate 8 0
  tlb : TlbCtl := {}
  ran : Bool := false
deriving DecidableEq, Repr, Inhabited

/-- One of the 32 partitions (R50, R51, R40). -/
structure Part where
  enabled : Bool := false
  epochT : Nat := 0
  frame : Nat := 0
  phase : Nat := 0
deriving DecidableEq, Repr, Inhabited

/-- A command a queue has started and not completed (R53). -/
structure Outst where
  seq : Nat
  id : Nat
deriving DecidableEq, Repr, Inhabited

/-- One of the 128 command queues (R52, R61–R63, R882). -/
structure HostQ where
  base : Nat := 0
  enable : Bool := false
  location : Nat := 0
  log2 : Nat := 0
  part : Nat := 0
  errVec : Nat := 0
  head : Nat := 0
  tail : Nat := 0
  done : Nat := 0
  errCode : Nat := 0
  halted : Bool := false
  errSeen : Bool := false
  errAtHead : Bool := false
  outstanding : List Outst := []
deriving DecidableEq, Repr, Inhabited

/-- A kernel header (R291). -/
structure KHdr where
  entry : Nat
  threads : Nat
  regs : Nat
  cluster : Nat
  loc : Nat
deriving DecidableEq, Repr, Inhabited

/-- A program image as the launch check read it (R290). -/
structure Image where
  base : Nat
  khdrs : List (Option KHdr)
  trapEntry : Nat
  handlerBase : Nat
  handlers : List Nat
  codeBytes : Nat
deriving DecidableEq, Repr, Inhabited

/-- A placement entry (R65) with its program image and the number of blocks of the entries before it (R310). -/
structure Entry where
  tile : Nat
  count : Nat
  image : Image
  firstBlock : Nat
deriving DecidableEq, Repr, Inhabited

/-- A LAUNCH in progress (R54, R60, R64, R68). `failed` as for a COPY. -/
structure Launch where
  id : Nat
  ctx : Nat
  queue : Nat
  seq : Nat
  signal : Bool
  irq : Bool
  tag : Nat
  deadline : Option Nat
  width : Nat
  oldest : Bool
  args : Nat
  entries : List Entry
  doneAddr : Nat
  doneValue : Nat
  vector : Nat
  runLimit : Nat
  start : Nat
  blocks : Nat
  retired : Nat := 0
  completed : Bool := false
  failed : Bool := false
deriving DecidableEq, Repr, Inhabited

/-- A COPY in progress (R54, R56, R60). `failed`: its completion failed, and waits for RESUME or SKIP of its queue (R58, R59); `since`: when
it began, and its reads of host memory left (R623). -/
structure Copy where
  id : Nat
  ctx : Nat
  queue : Nat
  seq : Nat
  signal : Bool
  irq : Bool
  src : Nat
  dst : Nat
  count : Nat
  tag : Nat
  deadline : Option Nat
  doneAddr : Nat
  doneValue : Nat
  vector : Nat
  failed : Bool := false
  since : Nat := 0
deriving DecidableEq, Repr, Inhabited

/-- A WAIT in progress (R56, R59). `failed`: it failed while it waited, and waits for RESUME or SKIP of its queue (R58). -/
structure Wait where
  id : Nat
  ctx : Nat
  queue : Nat
  seq : Nat
  addr : Nat
  value : Nat
  eq : Bool
  failed : Bool := false
deriving DecidableEq, Repr, Inhabited

/-- What a write that waits for its apply class is to set: one constructor per settable register or object
(a register and the dictionary object that holds the same value share one). -/
inductive Tgt where
  | ctxPtroot (c : Nat)
  | ctxTiles (c i : Nat)
  | partEnable (p : Nat)
  | wayMask (p : Nat)
  | qBase (q : Nat)
  | resBase (p : Nat)
  | resCtrl (p : Nat)
  | srtDisp (p : Nat)
  | chipId
  | fabQBase (c q : Nat)
  | fabQCtrl (c q : Nat)
  | srtBox (p i : Nat)
  | srtMinTo (p : Nat)
  | srtMaxTo (p : Nat)
  | srtExpire (p : Nat)
  | srtCeil (p : Nat)
  | srtOvl (p : Nat)
  | pwrMode
  | floor (p : Nat)
  | ceiling (p : Nat)
  | fraction (p : Nat)
  | pops (p : Nat)
  | cap
  | patrol (s : Nat)
  | adminDown (p : Nat)
  | echo
deriving DecidableEq, Repr, Inhabited

/-- A written value that has not yet taken effect. -/
structure Setting where
  tgt : Tgt
  val : Nat
deriving DecidableEq, Repr, Inhabited

/-- Staged EPOCH values: one single write (commit none) or one commit's members (R84–R86, R90, R91).
`part` is the partition at whose epoch they apply; none: chip-wide or mixed, at 1 ms only. -/
structure Staged where
  settings : List Setting
  part : Option Nat
  time : Nat
  commit : Bool
deriving DecidableEq, Repr, Inhabited

/-- What a drain holds until its scope is idle (R87, R93): values, or an action of the security block (R831). -/
inductive DrainAct where
  | settings (l : List Setting) (commit : Bool)
  | key (cmd slot : Nat)
deriving DecidableEq, Repr, Inhabited

/-- The drain in progress (R93, R98). `parts`: the partitions of the scope; `all`: every context. -/
structure Drain where
  act : DrainAct
  parts : List Nat
  all : Bool
  time : Nat
deriving DecidableEq, Repr, Inhabited

/-- The context manager: device time, contexts, partitions, queues, launches, staging and its counters. -/
structure CtxMgr where
  ctxs : List Ctx := List.replicate 64 {}
  parts : List Part := List.replicate 32 {}
  queues : List HostQ := List.replicate 128 {}
  launches : List Launch := []
  copies : List Copy := []
  waits : List Wait := []
  nextId : Nat := 0
  applyGen : Nat := 0
  lastAbort : Nat := 0
  staged : List Staged := []
  drain : Option Drain := none
  faultQ : List FaultInfo := []
  faultSeq : Nat := 0
  eventDeadlocks : Nat := 0
  drainRefusals : Nat := 0
  lateArrivals : Nat := 0
  ctxKills : Nat := 0
  tlbInvalidations : Nat := 0
  wayMaskRefusals : Nat := 0
deriving DecidableEq, Repr, Inhabited

/-! ## The tile (03_tile.md, 05_isa.md, 06_tcu.md) -/

/-- What a thread waits for (R126, R174, R249, R251, R259, R278, R282). `asked`: when the fence sent the reads that confirm its PCIe
destinations (R176); `left`: tile cycles that an access to a neighbour's local memory still takes. -/
inductive LaneWait where
  | run
  | evwait (id : Nat) (target : Word) (until_ : Option Nat) (dst : Nat)
  | barrier (scope id : Nat)
  | hits
  | sacq (stream : Nat) (dst : Nat)
  | chwait
  | traceHeld
  | fence (scope : Nat) (cluster : Bool) (insn : Nat) (asked : Option Nat)
  | load (id : Nat)
  | neighbour (left : Nat)
  | exited
  | faulted
deriving DecidableEq, Repr, Inhabited

/-- A thread: program counter, registers, predicates pr0–pr6 (R202), skip count (R109). -/
structure Lane where
  pc : Nat
  regs : List Word
  preds : List Bool := List.replicate 7 false
  skip : Nat := 0
  wait : LaneWait := .run
  pcieDests : List Nat := []
deriving DecidableEq, Repr, Inhabited

/-- A resident group in its lowest slot (R104, R107): a lane is none where no thread is. `replay`: tile cycles left of the replays of its
own local access (R185). -/
structure Group where
  slot : Nat
  slot2 : Option Nat
  bslot : Nat
  idx : Nat
  width : Nat
  lanes : List (Option Lane)
  since : Nat
  acquired : List (Nat × Nat) := []
  rays : List (Nat × Nat) := []
  dispRays : Nat := 0
  replay : Nat := 0
deriving DecidableEq, Repr, Inhabited

/-- A resident block (R104, R121, R254, R308–R314). -/
structure Block where
  bslot : Nat
  ctx : Nat
  launch : Nat
  tcu : Option Nat
  hdr : KHdr
  base : Nat
  size : Nat
  regUnits : Nat
  blockId : Nat
  cluster : Option Nat
  rank : Nat
  events : List Word := List.replicate 32 0
  started : Bool
  exited : Bool := false
  reported : Bool := false
  retired : Bool := false
deriving DecidableEq, Repr, Inhabited

/-- Hits handed to a dispatched block (R520): the 32-byte records, lane by lane, with the rays' numbers, the sorter unit and the
packet's deadline. -/
structure Dispatched where
  unit : Nat
  deadline : Option Nat
  hits : List (Nat × List Byte)
deriving DecidableEq, Repr, Inhabited

/-- A block waiting in the launch queue (R118, R119): presented by a TCU slot, or dispatched by a sorter (R522). -/
structure WaitBlock where
  launch : Nat
  ctx : Nat
  tcu : Option Nat
  hdr : KHdr
  start : Bool
  since : Nat
  arrival : Nat
  blockId : Nat
  disp : Option Dispatched := none
deriving DecidableEq, Repr, Inhabited

/-- A launch that has arrived on the tile (R113, R115). -/
structure Arrived where
  launch : Nat
  order : Nat
  lastSlot : Nat := 63
deriving DecidableEq, Repr, Inhabited

/-- The instruction that issued and whose effect is the next command of this tile. -/
structure Issued where
  slot : Nat
  pc : Nat
  mask : List Nat
  word : Nat
deriving DecidableEq, Repr, Inhabited

/-- A line of an instruction near cache (R135). -/
structure IcLine where
  line : Nat
  part : Nat
  way : Nat
  data : List Byte
deriving DecidableEq, Repr, Inhabited

/-- A line of the data near cache (R163, R165, R166); `host` tells a HOST line from a DEVICE line. -/
structure NcLine where
  host : Bool
  line : Nat
  part : Nat
  way : Nat
  data : List Byte
deriving DecidableEq, Repr, Inhabited

/-- Who issued a store or load: a lane of a group slot, or a TCU slot (slot number 64 + s). -/
structure Owner where
  tile : Nat
  slot : Nat
  lane : Nat
deriving DecidableEq, Repr, Inhabited

/-- A store buffer or host write buffer line (R182): memory type, key slot, line number, the buffered bytes
at their addresses, and the contexts, launches and threads whose stores they are. -/
structure SbLine where
  typ : Nat
  key : Nat
  ctxs : List Nat
  launches : List Nat
  line : Nat
  cells : Mem
  owners : List Owner
deriving DecidableEq, Repr, Inhabited

/-- An arithmetic operation performed on memory (R235). -/
structure AtomOp where
  op : Nat
  operand : Nat
  compare : Nat
deriving DecidableEq, Repr, Inhabited

/-- One lane of an outstanding load, gather or atomic. -/
structure LaneLoad where
  lane : Nat
  va : Nat
  typ : Nat
  pa : Nat
  atom : Option AtomOp := none
deriving DecidableEq, Repr, Inhabited

/-- An outstanding load, gather or atomic (R174, R243). `fault`: the fault of its lowest faulting lane, which its
return raises; `gather`: it is a GATHER (R78); `since`: when its last request to the host left (R623); `asked`: the HOST lines requested,
of an atomic the lanes whose AtomicOp left; `vals`: what lanes of an atomic have returned so far. -/
structure LoadRec where
  id : Nat
  owner : Owner
  ctx : Nat
  key : Nat
  bytes : Nat
  signed : Bool
  dst : Nat
  alloc : Bool
  lanes : List LaneLoad
  fault : Option FaultInfo
  insn : Nat
  pc : Nat
  gather : Bool := false
  since : Nat := 0
  asked : List Nat := []
  vals : List (Nat × Nat) := []
deriving DecidableEq, Repr, Inhabited

/-- A mesh message queued at a slot (R318, R321). -/
structure Msg where
  src : Nat
  typ : Nat
  tag : Nat
  deadline : Option Nat
  payload : List Byte
deriving DecidableEq, Repr, Inhabited

/-- A SEND in progress (R318, R320). -/
structure Sending where
  msg : Msg
  dest : Nat
  first : Option Nat
  status : Option Nat
  dst : Nat
deriving DecidableEq, Repr, Inhabited

/-- The state of a TCU slot (R334) with what its wait needs. -/
inductive TcuState where
  | free
  | run
  | waitRecv (dst : Nat)
  | waitPlace (dst : Nat)
  | waitBlock (dst : Nat)
  | waitEnd
  | waitSend
  | waitFence (scope insn : Nat) (asked : Option Nat)
  | waitLoad (id : Nat)
  | waitClose (stream : Nat)
  | waitRetire (dst bslot : Nat)
  | halted
deriving DecidableEq, Repr, Inhabited

/-- A TCU slot (R286, R294, R332). -/
structure Tcu where
  state : TcuState := .free
  ctx : Nat := 0
  launch : Nat := 0
  entry : Option Entry := none
  pc : Nat := 0
  gl : List Word := List.replicate 8 0
  wins : List (List Word) := List.replicate 8 (List.replicate 16 0)
  tr : List Word := List.replicate 16 0
  trap : Bool := false
  cwp : Nat := 0
  wocc : Nat := 0
  wsp : Nat := 0
  hen : Bool := false
  inHandler : Bool := false
  trapCause : Nat := 0
  trapPc : Nat := 0
  wtgt : Nat := 0
  hpc : Nat := 0
  msgTag : Nat := 0
  sendTag : Nat := 0
  timeHi : Nat := 0
  queue : List Msg := []
  sending : Option Sending := none
  placed : Nat := 0
  placedSlot : Option Nat := none
deriving DecidableEq, Repr, Inhabited

/-- A placement entry waiting for a TCU slot (R285). -/
structure WaitEntry where
  launch : Nat
  ctx : Nat
  entry : Entry
  arrival : Nat
deriving DecidableEq, Repr, Inhabited

/-- The thread-engine counters of a tile, the ones a snapshot copies (R141, R143). -/
structure TileCnt where
  stall : List Nat := List.replicate 11 0
  issue : Nat := 0
  empty : Nat := 0
  ifetchDemand : Nat := 0
  ifetchSpec : Nat := 0
  reconvForced : Nat := 0
  placeWait : List Nat := List.replicate 4 0
  blocksPlaced : Nat := 0
  fstall : List Nat := List.replicate 11 0
deriving DecidableEq, Repr, Inhabited

/-- The TCU counters of a tile (R333). -/
structure TcuCnt where
  insns : Nat := 0
  traps : Nat := 0
  handlers : Nat := 0
  sent : Nat := 0
  recv : Nat := 0
  refused : Nat := 0
  shortEnd : Nat := 0
deriving DecidableEq, Repr, Inhabited

/-! ## Memory (04_memory.md) and the HBM stacks (12_host_hbm.md) -/

/-- Who holds translations of its own (R157). -/
inductive Agent where
  | tile (t : Nat)
  | armature (n : Nat)
  | stream
  | copy
  | host
  | fabric
deriving DecidableEq, Repr, Inhabited

/-- A leaf of a page table as the walk found it (R152, R153). -/
structure Leaf where
  va : Nat
  size : Nat
  pa : Nat
  r : Bool
  w : Bool
  x : Bool
  typ : Nat
deriving DecidableEq, Repr, Inhabited

/-- A cached translation (R157). -/
structure TlbEnt where
  ctx : Nat
  agent : Agent
  leaf : Leaf
deriving DecidableEq, Repr, Inhabited

/-- A 512-bit key: the n-th that the random number generator drew, or the number that a blob brought (R193, R829, R830). -/
inductive KeyId where
  | drawn (n : Nat)
  | loaded (v : Nat)
deriving DecidableEq, Repr, Inhabited

/-- What the model keeps of a line's contents beside its defined bytes: the generation of its undefined bytes, the key under which they
were first read, the key it was last written under (none: never written), and its poison (R195, R638). -/
structure LineMeta where
  line : Nat
  gen : Nat
  via : Option KeyId := none
  kid : Option KeyId := none
  poison : Bool := false
deriving DecidableEq, Repr, Inhabited

/-- What the SEC-DED of a device cache line finds at its next read (R637): no error, a single-bit error, which is corrected, an
uncorrectable error, which poisons the line; or that the line was poisoned so. No row brings an error about (log 73). -/
inductive DcEcc where
  | sound
  | single
  | double
  | lost
deriving DecidableEq, Repr, Inhabited

/-- A device cache line (R162, R170, R885): the key slot it was filled under, its way, whether it is dirty, and the
meta data of its contents. The list is kept most recently used first. -/
structure DcLine where
  info : LineMeta
  key : Nat
  way : Nat
  dirty : Bool
  ecc : DcEcc := .sound
deriving DecidableEq, Repr, Inhabited

/-- A read that waits at a pseudo-channel (R631): the outstanding request it belongs to (none: an access that reads within its own step), its
line, its effective deadline, its context, and when it came. -/
structure PcRead where
  id : Option Nat
  line : Nat
  eff : Option Nat
  ctx : Nat
  since : Nat
deriving DecidableEq, Repr, Inhabited

/-- A pseudo-channel (R629–R632): its queued reads and the lines of its queued writes in order of arrival, the row that is open, how many
reads in a row have gone ahead of the earliest one, whether writes go ahead of reads, the number of reads served, and the lines of the power period
by context, writes under 64 (R597; log 153). -/
structure PChan where
  reads : List PcRead := []
  writes : List Nat := []
  row : Option Nat := none
  bypasses : Nat := 0
  wfirst : Bool := false
  served : Nat := 0
  acts : List (Nat × Nat) := []
deriving DecidableEq, Repr, Inhabited

/-- HBM, the device cache, the host write buffer, cached translations and the keys of the 33 key slots (R191, R193). `hbm` holds the
plaintext of each line under the key that the line was last written under, which its ciphertext stands for (R192). `pcs`: the 32
pseudo-channels of stack 0, then those of stack 1, and so on. -/
structure MemSys where
  hbm : Mem := []
  meta_ : List LineMeta := []
  dcData : Mem := []
  dc : List DcLine := []
  hwb : List SbLine := []
  tlb : List TlbEnt := []
  wayMask : List Nat := (List.range 32).map (2 ^ ·)
  dcHits : List Nat := List.replicate 32 0
  dcMisses : List Nat := List.replicate 32 0
  dcCorrected : Nat := 0
  keys : List KeyId := (List.range 33).map KeyId.drawn
  nextKey : Nat := 34
  baseGen : Nat := 0
  nextGen : Nat := 1
  pcs : List PChan := List.replicate 256 {}
deriving DecidableEq, Repr, Inhabited

/-! ## Host link (12_host_hbm.md) -/

/-- A message the chip sends over PCIe, in the order sent: the requester function is 0 for the PF, v for VF v. -/
inductive PcieMsg where
  | write (fn addr : Nat) (data : Mem)
  | read (fn addr bytes id : Nat)
  | atomic (fn addr op operand compare id : Nat)
  | zeroRead (fn addr : Nat)
  | msix (vector : Nat)
  | aer
deriving DecidableEq, Repr, Inhabited

/-- What the last read of a BAR returned (a completion with data, or an error completion). -/
inductive ReadAnswer where
  | none
  | data (v : Nat)
  | bytes (l : List Byte)
  | poisoned
  | completerAbort
  | configRetry
  | unsupported
deriving DecidableEq, Repr, Inhabited

/-- A half of a 64-bit register held for one function: a latched high half (R140) or a held low half (R615). -/
structure Half where
  fn : Nat
  addr : Nat
  val : Nat
deriving DecidableEq, Repr, Inhabited

/-- An aperture entry of a VF (R653). -/
structure Aperture where
  vf : Nat
  seg : Nat
  val : Nat
deriving DecidableEq, Repr, Inhabited

/-- An MSI-X vector's Mask and Pending bits (R626, R628). -/
structure Vector_ where
  masked : Bool := true
  pending : Bool := false
deriving DecidableEq, Repr, Inhabited

/-- The host link: its registers (R650–R653), halves held per function, MSI-X bits, the functions that are in D3hot (R610), and what it sent. -/
structure HostLink where
  speed : Nat := 0
  width : Nat := 0
  flit : Bool := false
  up : Bool := false
  retrains : Nat := 0
  bar4Base : Nat := 0
  bar4Size : Nat := 16
  linkLost : Bool := false
  refused : Bool := false
  cplFail : Nat := 0
  misroute : Nat := 0
  badAccess : Nat := 0
  replays : Nat := 0
  apertures : List Aperture := []
  latches : List Half := []
  held : List Half := []
  vectors : List Vector_ := List.replicate 2048 {}
  fnMsix : List Bool := List.replicate 33 false
  vfFlr : List Bool := List.replicate 33 false
  d3 : List Bool := List.replicate 33 false
  sent : List PcieMsg := []
  answer : ReadAnswer := .none
deriving DecidableEq, Repr, Inhabited

/-- Where the chip stands between power and service (R805–R815): `off` without input power or held by CHIP_RST_N,
`cold` and `warm` while a reset and boot runs, `rom` when the boot stopped in ROM mode, `ready` in service, `down`
after a power-down command was acknowledged (R735). -/
inductive Phase where
  | off | cold | warm | rom | ready | down
deriving DecidableEq, Repr, Inhabited

/-! ## Chisel (07_chisel.md) -/

/-- An operation descriptor (R341) as the CHOP read it. -/
structure ChopDesc where
  afmt : Nat
  bfmt : Nat
  dfmt : Nat
  accum : Bool
  relu : Bool
  sat : Bool
  m : Nat
  n : Nat
  k : Nat
  bsrc : Nat
  fwd : Nat
  relayId : Nat
  aOff : Nat
  bOff : Nat
  cOff : Nat
  dOff : Nat
  lda : Nat
  ldc : Nat
  ldd : Nat
  tag : Nat
  scale : Nat
  stream : Nat
deriving DecidableEq, Repr, Inhabited

/-- Where an operation stands (R347): `n` cycles of its stage are left. -/
inductive OpStage where
  | queued
  | sourceFill (n : Nat)
  | accFill (n : Nat)
  | resume (n : Nat)
  | compute
  | drain (n : Nat)
  | drained
deriving DecidableEq, Repr, Inhabited

/-- An operation in a tile's operation queue, from its CHOP until it completes (R355). `slice`: slices used; `mac`: MAC
cycles done in the current slice; `acc`: the accumulators, row by row; `received`,
`offered`, `accepted`: slices taken from the relay, put into the output buffers, and accepted downstream; `ringSlot`: the ring
slot held; `progress`: the device time of its last relay progress (R356); `arr`: when it came (R36). -/
structure ChiselOp where
  id : Nat
  ctx : Nat
  launch : Nat
  bslot : Nat
  base : Nat
  group : Nat
  gid : Nat
  desc : Nat
  d : ChopDesc
  deadline : Option Nat
  stage : OpStage := .queued
  slice : Nat := 0
  mac : Nat := 0
  acc : List Word := []
  received : Nat := 0
  offered : Nat := 0
  accepted : Nat := 0
  ringSlot : Option Nat := none
  progress : Nat := 0
  limited : Bool := false
  arr : Nat := 0
deriving DecidableEq, Repr, Inhabited

/-- A slice in a relay buffer (R353): the operation it belongs to, and the side it goes to or came from. -/
structure RelayBuf where
  op : Nat
  plus : Bool
  data : List Byte
deriving DecidableEq, Repr, Inhabited

/-- A neural batch (R365), and when it came to its tile (R36). -/
structure Batch where
  armature : Nat
  req : Nat
  ctx : Nat
  deadline : Option Nat
  va : Nat
  points : List (List Word)
  arr : Nat := 0
deriving DecidableEq, Repr, Inhabited

/-- A phase of a layer of a running batch (R370): cycles left, and whether they are MAC cycles. -/
structure BatchPhase where
  mac : Bool
  left : Nat
deriving DecidableEq, Repr, Inhabited

/-- The batch that is running, the network block it uses, and what is left of it (R370, R371). -/
structure RunBatch where
  batch : Batch
  block : List Byte
  phases : List BatchPhase
deriving DecidableEq, Repr, Inhabited

/-- A block of the neural weight cache (R372); the list is kept most recently used first. -/
structure NwcBlock where
  part : Nat
  va : Nat
  data : List Byte
deriving DecidableEq, Repr, Inhabited

/-- The reply to a batch (R365). -/
structure BatchReply where
  armature : Nat
  req : Nat
  ctx : Nat
  outs : List (List Word)
deriving DecidableEq, Repr, Inhabited

/-- The Chisel of a tile (R343–R376): its counters in the order of R373 from CHS_MAC_CYCLES on. -/
structure Chisel where
  ops : List ChiselOp := []
  outBuf : List RelayBuf := []
  inBuf : List RelayBuf := []
  batches : List Batch := []
  run : Option RunBatch := none
  nwc : List NwcBlock := []
  limit : Nat := 16
  nextLimit : Nat := 16
  cycle : Nat := 0
  cnt : List Nat := List.replicate 12 0
deriving DecidableEq, Repr, Inhabited

/-! ## Streams (08_streams.md) -/

/-- Counters of a stream, which stay after it closes (R383, R408, R416). `late` in the order of R408. -/
structure StrCnt where
  num : Nat
  lines : Nat := 0
  slots : Nat := 0
  late : List Nat := List.replicate 6 0
  escapes : Nat := 0
deriving DecidableEq, Repr, Inhabited

/-- A transfer of a slot over a link (R398), with the effective deadline it travels at (R399). -/
structure Xfer where
  slot : Nat
  data : List Byte
  eff : Option Nat := none
deriving DecidableEq, Repr, Inhabited

/-- Who waits for the close of a stream: a CLOSE of the TCU slot, with its DST, or nobody (R384, R385). -/
inductive Closing where
  | no
  | close (dst : Nat)
  | retire
deriving DecidableEq, Repr, Inhabited

/-- An open stream (R377–R415). Rings are addressed in the tile's local memory. `id` numbers the opens in order.
`requested` and `done`: the lines asked for, and those arrived or stored, in slots not yet produced (inbound)
or consumed (outbound), by number slot × lines + line; `marks`: slots released ahead of their pointer (R390); `skips`: acquired slots that a close discards (R384);
`waiters`: group slots with their lanes waiting in SACQ in the order they issued; `gaps`: the last four intervals in ns (R403). -/
structure Stream where
  num : Nat
  id : Nat
  ctx : Nat
  tile : Nat
  tcu : Nat
  bslot : Nat
  kind : Nat
  mode : Nat
  slots : Nat
  ahead : Nat
  ring : Nat
  slotBytes : Nat
  base : Nat
  rowBytes : Nat
  rowPitch : Nat
  stride : Nat
  count : Nat
  tag : Nat
  maxLines : Nat
  rateNs : Nat
  partner : Nat
  produced : Nat := 0
  acquired : Nat := 0
  consumed : Nat := 0
  ended : Bool := false
  token : Bool := false
  requested : List Nat := []
  done : List Nat := []
  marks : List Nat := []
  skips : List Nat := []
  waiters : List (Nat × List Nat) := []
  lastAcq : Option Nat := none
  gaps : List Nat := []
  progress : Nat := 0
  ready : Option Nat := none
  closing : Closing := .no
  xfer : Option Xfer := none
deriving DecidableEq, Repr, Inhabited

/-- A line outstanding at a stream port (R401): its stream's open, its number, its VA, the bytes a STORE line carries,
the effective deadline it left with (R407), when it left, for a LOAD line its translation and its request number, and whether its request
to the host has left. -/
structure PortLine where
  num : Nat
  id : Nat
  ctx : Nat
  idx : Nat
  va : Nat
  data : Option (List Byte)
  eff : Option Nat
  since : Nat := 0
  leaf : Option (Leaf × Nat) := none
  rid : Nat := 0
  sent : Bool := true
deriving DecidableEq, Repr, Inhabited

/-- The stream engine: open streams, the range of each context, and its registers (R416–R418). -/
structure StrEng where
  streams : List Stream := []
  cnts : List StrCnt := []
  nextId : Nat := 0
  ranges : List (Nat × Nat) := (List.range 64).map fun c => (64 * c, 64)
  refused : Bool := false
  found : Nat := 0
  escapes : Nat := 0
  deadlocks : Nat := 0
  sel : Nat := 0
deriving DecidableEq, Repr, Inhabited

/-- The stream port of a tile (R401, R420). -/
structure StrPort where
  lines : List PortLine := []
  requested : Nat := 0
  fullCycles : Nat := 0
  escapes : Nat := 0
deriving DecidableEq, Repr, Inhabited

/-- A batch on its way to a tile (R364). -/
structure Flight where
  tile : Nat
  batch : Batch
deriving DecidableEq, Repr, Inhabited

/-- Neural batches on their way to a tile, refused by a full queue, and replies on their way back (R364–R366). -/
structure NeuralBus where
  flight : List Flight := []
  refused : List Batch := []
  replies : List BatchReply := []
deriving DecidableEq, Repr, Inhabited

/-! ## Rays: the Armatures (09_armature.md) and the ray sorters (10_sorting.md) -/

/-- A trace descriptor as the TRACE read it (R266). -/
structure TraceDesc where
  tree : Nat
  tag : Nat
  cls : Nat
  anyHit : Bool
  cull : Bool
  noNeural : Bool
  ret : Nat
  mask : Nat
  ring : Nat
  event : Nat
  dispatch : Nat
deriving DecidableEq, Repr, Inhabited

/-- A ray from its TRACE until its hit is delivered: who issued it, its values as FP32 codes (R264), its descriptor, its
absolute deadline, the sorter unit that holds its slot and whether the slot is a reserved one (R495–R498). `id` numbers rays in
order of issue, `order` in order of admission, which was at device time `adm`. -/
structure Ray where
  id : Nat
  ctx : Nat
  tile : Nat
  launch : Nat
  bslot : Nat
  gslot : Nat
  gid : Nat
  cookie : Nat
  org : List Nat
  tmin : Nat
  dir : List Nat
  tmax : Nat
  d : TraceDesc
  deadline : Option Nat
  unit : Nat
  reserved : Bool := false
  order : Nat := 0
  adm : Nat := 0
deriving DecidableEq, Repr, Inhabited

/-- What a ray carries into a child tree: the instance leaf's ID and transform (R434, R435, R464). -/
structure InstRef where
  id : Nat
  xform : List Nat
deriving DecidableEq, Repr, Inhabited

/-- A candidate intersection (R465, R470–R479): T, U and V as FP32 codes. -/
structure Cand where
  t : Nat
  status : Nat
  prim : Nat
  inst : Nat
  material : Nat
  flags : Nat
  u : Nat
  v : Nat
deriving DecidableEq, Repr, Inhabited

/-- A pending entry (R460–R463): a full-precision node by VA with its subtree, or an entry of an image (`image`: its number and
the entry); the distance as an FP32 code; the children to test; the depth of the node in its path; `front`: it came from a frontier of an image, whose
subtree is that of the time of its build (R450, R463). -/
structure PEntry where
  va : Nat
  sub : Nat
  image : Option (Nat × Nat)
  dist : Nat
  mask : Nat := 63
  inst : Option InstRef
  depth : Nat
  front : Bool := false
deriving DecidableEq, Repr, Inhabited

/-- A leaf that passed its box test and is still to be tested (R462): its kind, the triangle count, the entry and exit distances. -/
structure LeafTask where
  va : Nat
  kind : Nat
  count : Nat
  dist : Nat
  exit_ : Nat
  inst : Option InstRef
  depth : Nat
  sub : Nat
deriving DecidableEq, Repr, Inhabited

/-- A sphere trace in progress (R473, R476): the leaf's fields, t, the exit, the samples taken, the last sample's outputs,
and, once a candidate is found, the candidate whose normal is being sampled. -/
structure NeuralRun where
  leaf : List Byte
  inst : Option InstRef
  t : Nat
  out_ : Nat
  n : Nat
  hit : Option Cand := none
  last : List Nat := []
deriving DecidableEq, Repr, Inhabited

/-- A visit (R461, R462): the ray, its tcur and best candidate, the entries to visit (top first), leaves to test, and the sphere
trace in progress; `found`: a full-precision entry was formed or read; `sub`: the subtree of the node being visited; `arr`: when it came; `keep`: the
subtrees that have moved and in which it goes on here (R457); `spec`: the children that may be fetched ahead (R480). -/
structure Visit where
  ray : Ray
  home : Nat
  best : Option Cand
  stack : List PEntry
  leaves : List LeafTask := []
  neural : Option NeuralRun := none
  found : Bool := false
  sub : Nat := 4096
  arr : Nat := 0
  keep : List Nat := []
  spec : List Nat := []
deriving DecidableEq, Repr, Inhabited

/-- A ray in a home slot (R424, R460): its pending stack, best candidate, the image it entered, and whether a visit of it is out. -/
structure HomeRay where
  ray : Ray
  stack : List PEntry
  best : Option Cand := none
  out_ : Bool := false
  found : Bool := false
deriving DecidableEq, Repr, Inhabited

/-- A node or leaf held in a node store (R458): its line, the partition and subtree it belongs to, the 64-byte entries it takes, and
whether it came by speculation and has not been used (R483). -/
structure StoreLine where
  part : Nat
  sub : Nat
  pa : Nat
  size : Nat
  spec : Bool
deriving DecidableEq, Repr, Inhabited

/-- Points that gather for a batch (R474), each with the ray whose visit it belongs to; `since`, `arr`: the Armature cycle and the device time of
its first point; `solo`: the four points of a normal (R476). -/
structure Forming where
  ctx : Nat
  va : Nat
  since : Nat
  solo : Bool
  points : List (Nat × List Word)
  arr : Nat := 0
deriving DecidableEq, Repr, Inhabited

/-- A batch that has been sent and not answered: its number and the rays of its points in order. -/
structure SentBatch where
  req : Nat
  rays : List Nat
deriving DecidableEq, Repr, Inhabited

/-- An Armature (R424, R484): counters in the order of R484 from ARM_BUSY_CYCLES on. `load`: visit cycles of the period by
(partition, subtree) (R455); `cycle`: its cycles (R423); `acts`: tests of the power period by context (R597). -/
structure Arm where
  homes : List HomeRay := []
  waiting : List Visit := []
  visits : List Visit := []
  store : List StoreLine := []
  forming : List Forming := []
  sent : List SentBatch := []
  load : List ((Nat × Nat) × Nat) := []
  cnt : List Nat := List.replicate 19 0
  cycle : Nat := 0
  acts : List (Nat × Nat) := []
deriving DecidableEq, Repr, Inhabited

/-- A child of an image entry (R442, R445): the child number in its node, the codes of its box, and its entry, or none for a
frontier. -/
structure ImgChild where
  idx : Nat
  codes : List Nat
  entry : Option Nat
deriving DecidableEq, Repr, Inhabited

/-- An entry of an image: its node's VA, subtree and depth, its grid box as six FP32 codes, its children. -/
structure ImgEntry where
  va : Nat
  sub : Nat
  depth : Nat
  grid : List Nat
  kids : List ImgChild
deriving DecidableEq, Repr, Inhabited

/-- A Maquette image (R441–R451). `live`: it is in its slot; an image that was replaced or released stays until no ray walks it. -/
structure Image_ where
  id : Nat
  part : Nat
  slot : Nat
  ctx : Nat
  root : Nat
  homes : List Nat
  budget : Nat
  entries : List ImgEntry
  live : Bool := true
deriving DecidableEq, Repr, Inhabited

/-- A valid residency entry of a partition as the Armatures hold it (R452). -/
structure ResEnt where
  sub : Nat
  owner : Nat
  pin : Bool
  region : Nat
deriving DecidableEq, Repr, Inhabited

/-- A BUILD in progress (R442, R449). -/
structure MqBuild where
  ctx : Nat
  root : Nat
  slot : Nat
  depth : Nat
  budget : Nat
  home : Nat
  replicas : Nat
deriving DecidableEq, Repr, Inhabited

/-- The traversal registers of a partition (R486–R492), its residency and its image under construction. -/
structure ArmPart where
  resBase : Nat := 0
  adapt : Bool := false
  badIndex : Nat := 0
  mqRoot : Nat := 0
  mqParam : Nat := 0
  build : Option MqBuild := none
  result : Nat := 0
  entries : Nat := 0
  slot : Nat := 0
  res : List ResEnt := []
deriving DecidableEq, Repr, Inhabited

/-- Rays of one packet on their way to a home (R508). -/
structure RayFlight where
  arm : Nat
  rays : List Ray
deriving DecidableEq, Repr, Inhabited

/-- A visit, or the return of one, on the mesh. -/
structure VisitFlight where
  arm : Nat
  visit : Visit
deriving DecidableEq, Repr, Inhabited

/-- A hit on its way to its sorter, in its slot, or in a hit packet (R270, R515). -/
structure Hit where
  ray : Ray
  cand : Cand
deriving DecidableEq, Repr, Inhabited

/-- The Armatures, the images, what is on the mesh between them, and the counters of R494. -/
structure ArmEng where
  arms : List Arm := List.replicate 48 {}
  parts : List ArmPart := List.replicate 32 {}
  images : List Image_ := []
  nextId : Nat := 0
  rayFlight : List RayFlight := []
  visitFlight : List VisitFlight := []
  returns : List VisitFlight := []
  hits : List Hit := []
  moves : Nat := 0
  placeClamps : Nat := 0
  builds : Nat := 0
  stepLimits : Nat := 0
deriving DecidableEq, Repr, Inhabited

/-- A held TRACE (R272, R498): the rays of one issue, whether a dispatched block issued it, and when it
came. -/
structure Held where
  rays : List Ray
  lanes : List Nat
  dispatched : Bool
  arr : Nat := 0
deriving DecidableEq, Repr, Inhabited

/-- What rays of one bin have in common (R503): `home` none is the class IMAGE. -/
structure BinId where
  ctx : Nat
  tree : Nat
  flags : Nat
  mask : Nat
  home : Option Nat
  key : Nat
deriving DecidableEq, Repr, Inhabited

/-- A ray bin (R504). -/
structure RayBin where
  num : Nat
  bid : BinId
  rays : List Ray
  since : Nat
deriving DecidableEq, Repr, Inhabited

/-- A flushed packet (R506–R509); `alone`: it has begun to go ray by ray (R510). -/
structure Packet where
  bid : BinId
  rays : List Ray
  alone : Bool := false
deriving DecidableEq, Repr, Inhabited

/-- Where a hit goes (R517). -/
inductive HitDest where
  | ring (tile bslot launch ring : Nat)
  | dispatch (launch va : Nat)
deriving DecidableEq, Repr, Inhabited

/-- A hit bin (R517, R518). -/
structure HitBin where
  num : Nat
  ctx : Nat
  material : Nat
  dest : HitDest
  hits : List Hit
  since : Nat
deriving DecidableEq, Repr, Inhabited

/-- A flushed hit packet (R518–R520). `tried`: it found its ring full and waits for the HEAD to move. -/
structure HitPacket where
  ctx : Nat
  dest : HitDest
  hits : List Hit
  tried : Bool := false
deriving DecidableEq, Repr, Inhabited

/-- A ray slot in use (R495, R496): its ray, who issued it, and the event of a hit-ring ray. -/
structure SlotUse where
  ray : Nat
  ctx : Nat
  launch : Nat
  tile : Nat
  gslot : Nat
  gid : Nat
  event : Option Nat
  part : Nat
  reserved : Bool
deriving DecidableEq, Repr, Inhabited

/-- The bin timeout of a partition at a unit (R511, R514): the timeout in ns, and the period's timed-out packets, their rays and the
sum of their ages. -/
structure BinTo where
  t : Nat := 500
  pkts : Nat := 0
  rays : Nat := 0
  ages : Nat := 0
deriving DecidableEq, Repr, Inhabited

/-- A ray sorter (R495–R525, R533): counters in the order of R533 from SRT_RAYS_ADMITTED on. `last`: the tile last used for a
launch's dispatched blocks (R522); `acts`: rays admitted in the power period by context (R597). -/
structure Sorter where
  held : List Held := []
  slots : List SlotUse := []
  bins : List RayBin := []
  flush : List Packet := []
  hitBins : List HitBin := []
  hitq : List HitPacket := []
  tos : List BinTo := List.replicate 32 {}
  last : List (Nat × Nat) := []
  admitted : Nat := 0
  acts : List (Nat × Nat) := []
  cnt : List Nat := List.replicate 12 0
deriving DecidableEq, Repr, Inhabited

/-- The sorter registers of a partition (R535–R540) and its overload watch (R529, R530). `since`: the time from which its samples
have been overloaded; `raised`: OVERLOAD has been raised since the last sample that was not. -/
structure SrtPart where
  box0 : Nat := 0
  box1 : Nat := 0
  minTo : Nat := 20
  maxTo : Nat := 200
  expire : Nat := 0
  ceil : Nat := 2048
  ovlVec : Nat := 0
  dispSlots : Nat := 0
  dispRegs : Nat := 0
  dispLocal : Nat := 0
  overload : Bool := false
  refused : Bool := false
  count : Nat := 0
  since : Option Nat := none
  raised : Bool := false
deriving DecidableEq, Repr, Inhabited

/-- The four ray sorters and the counters of R541. -/
structure SrtEng where
  units : List Sorter := List.replicate 4 {}
  parts : List SrtPart := List.replicate 32 {}
  nextRay : Nat := 0
  overloads : Nat := 0
  toClamps : Nat := 0
  expired : Nat := 0
deriving DecidableEq, Repr, Inhabited

/-- A clamp record (R581). -/
structure Clamp where
  time : Nat
  loop : Nat
  part : Nat
  unit : Nat
  winner : Nat
  loser : Nat
  winQual : Nat
  loseQual : Nat
deriving DecidableEq, Repr, Inhabited

/-! ## Power manager (11_power.md) -/

/-- A partition as the power manager sees it (R556, R569–R574, R599, R606): its bounds and preferred points, the learned energies and
the energies of the frame's phases in nJ, the energy of the current phase, the tag and deadline of that phase, and its energy in
all. -/
structure PwrPart where
  floor : Nat := 0
  ceiling : Nat := 256
  fraction : Nat := 8
  pops : List Nat := List.replicate 8 0xFF
  learned : List Nat := List.replicate 8 0
  phaseNj : List Nat := List.replicate 8 0
  used : Nat := 0
  deadline : Option Nat := none
  energy : Nat := 0
deriving DecidableEq, Repr, Inhabited

/-- A tile as the power manager sees it (R544–R547, R557, R568, R583, R584, R608). `kShare`: the limit of the sharing loop; `want`: the
point the operating point loop chose; `low`: the detectors that sense low supply; `left`: cycles for which the tile stretches on once none does;
`hot`, `warm`: it read at least 105 °C, or at least 102 °C, in this
100 µs; `trip`: its last sample was at least 120 °C. Temperatures in units of 0.5 °C. -/
structure PwrTile where
  kThermal : Nat := 16
  kShare : Nat := 16
  point : Nat := 0
  want : Nat := 0
  temp : Nat := 0
  droops : Nat := 0
  low : List Nat := []
  left : Nat := 0
  hot : Bool := false
  warm : Bool := false
  trip : Bool := false
deriving DecidableEq, Repr, Inhabited

/-- A base-die temperature sensor. -/
structure BaseTemp where
  temp : Nat := 0
  hot : Bool := false
  warm : Bool := false
  trip : Bool := false
deriving DecidableEq, Repr, Inhabited

/-- The record of input dips (R590). Times in µs, voltages in mV. -/
structure Dips where
  count : Nat := 0
  lastMin : Nat := 0
  lastUs : Nat := 0
  lowest : Nat := 0
  longest : Nat := 0
  totalNs : Nat := 0
deriving DecidableEq, Repr, Inhabited

/-- A dip in progress (R587–R590): when its first sample was taken, its lowest sample so far in mV, and since when every sample has been
above 11.4 V. -/
structure Dip where
  start : Nat
  min : Nat
  above : Option Nat := none
deriving DecidableEq, Repr, Inhabited

/-- A PMBus command that the chip issues (R564, R862): the address, the command code, and the bytes that follow it from the chip. -/
structure PmbusCmd where
  addr : Nat
  code : Nat
  data : List Byte := []
deriving DecidableEq, Repr, Inhabited

/-- A PHASE mark on its way to the power manager (R275, R276): when it issued, and the tile it came from. -/
structure PhaseMark where
  part : Nat
  phase : Nat
  tag : Nat
  time : Nat
  tile : Nat
deriving DecidableEq, Repr, Inhabited

/-- A core rail (R553, R554, R860): the voltage in effect in mV, and the voltage commanded and not yet settled. -/
structure CoreRail where
  mv : Nat := 850
  want : Option Nat := none
deriving DecidableEq, Repr, Inhabited

/-- Pacing of a context on a fabric event line (R602, R603): the open episode's start and last arrival, and the registers. -/
structure Pace where
  ctx : Nat
  line : Nat
  since : Option Nat := none
  arrival : Nat := 0
  total : Nat := 0
  episodes : Nat := 0
  lastUs : Nat := 0
  lastChip : Nat := 0
deriving DecidableEq, Repr, Inhabited

/-- The power manager. Energies in nJ, powers in mW, the gain in units of 1/65,536. `window`, `periods`: the sum of the estimates of the
reconciliation window and their number; `onset`: the clamps of the last power period (R580); `overCap`: the point ceiling has fallen in
this window; `under95`: every estimate of it was below 0.95 times the cap; `baseHold`: a base-die sensor holds the point ceiling; `rails`,
`railTurn`: the last readings of each rail and the rail whose turn is next (R564, R862); `bus`: the PMBus commands issued; `patina`: the table in effect (R549, R819). -/
structure Pwr where
  cap : Nat := 1500
  fixed : Bool := false
  gain : Nat := 65536
  est : Nat := 0
  meas : Nat := 0
  window : Nat := 0
  periods : Nat := 0
  clamps : Nat := 0
  recs : List Clamp := []
  onset : List Clamp := []
  unattr : Nat := 0
  pkg : Nat := 0
  parts : List PwrPart := List.replicate 32 {}
  ctxNj : List Nat := List.replicate 64 0
  tiles : List PwrTile := List.replicate 144 {}
  base : List BaseTemp := List.replicate 8 {}
  pointCeil : Nat := 0
  overCap : Bool := false
  under95 : Bool := true
  baseHold : Bool := false
  transients : Nat := 0
  unrec : Nat := 0
  badRun : Nat := 0
  goodRun : Nat := 0
  degraded : Bool := false
  thermalSteps : Nat := 0
  maxTemp : Nat := 0
  thermtrip : Bool := false
  stops : Nat := 0
  glitches : Nat := 0
  dip : Option Dip := none
  dips : Dips := {}
  inputMv : Nat := 0
  vin : Nat := 0
  rails : List (List Nat) := List.replicate 8 [0, 0, 0]
  bus : List PmbusCmd := []
  railTurn : Nat := 0
  ageFuses : Nat := 0
  patina : List Nat := List.replicate 16 0
  patinaSource : Nat := 0
  dies : List CoreRail := List.replicate 2 {}
  marks : List PhaseMark := []
  pace : List Pace := []
deriving DecidableEq, Repr, Inhabited

/-! ## Event log (14_plinth.md) -/

/-- An event record (R753) but for its constant layout. -/
structure Event where
  time : Nat
  seq : Nat
  code : Nat
  source : Nat
  severity : Nat
  detail : List Byte
deriving DecidableEq, Repr, Inhabited

/-- An event log (R755–R757): its records, newest first, and the counts of records and of critical ones. -/
structure EventLog where
  recs : List Event := []
  seq : Nat := 0
  critical : Nat := 0
deriving DecidableEq, Repr, Inhabited

/-! ## HBM controllers (12_host_hbm.md) -/

/-- A row being copied into a spare row (R643): its pseudo-channel, number, and CAUSE of R646. -/
structure RowCopy where
  pc : Nat
  row : Nat
  cause : Nat
deriving DecidableEq, Repr, Inhabited

/-- The controller of one stack (R629–R647, R654, R655). `spent`: the pseudo-channel of each spare row in use; `redirects`: the rows
redirected, by pseudo-channel and row; `hot`: the last reading was at least 105 °C; `patrolAt`, `patrolCur`: the next line of the pass
and the hours of the pass; `refreshed`: when rows were last refreshed; `loopback` as in R654. -/
structure HbmStack where
  temp : Nat := 0
  refresh2x : Bool := false
  throttle : Bool := false
  hot : Bool := false
  patrolH : Nat := 24
  evtVec : Nat := 0
  ceTransient : Nat := 0
  ceLasting : Nat := 0
  ueTransient : Nat := 0
  ueLasting : Nat := 0
  retired : Nat := 0
  requests : Nat := 0
  passes : Nat := 0
  onDie : Nat := 0
  poisonReads : Nat := 0
  spent : List Nat := []
  redirects : List (Nat × Nat) := []
  copies : List RowCopy := []
  patrolAt : Nat := 0
  patrolCur : Nat := 24
  refreshed : Nat := 0
  loopback : Nat := 0
deriving DecidableEq, Repr, Inhabited

/-- The eight controllers and the last 16 retirement records, newest first (R656). -/
structure HbmEng where
  stackList : List HbmStack := List.replicate 8 {}
  recs : List (List Byte) := []
deriving DecidableEq, Repr, Inhabited

/-! ## Ngua fabric (13_fabric.md) -/

/-- A packet (R676): its header fields and payload. `addr` holds ADDR, for an EVENT its DELTA; `deadline` is rack time; `arr`: when it came to
the stage it waits at. -/
structure FPkt where
  typ : Nat
  cls : Nat
  signal : Bool := false
  last : Bool := false
  dst : Nat
  src : Nat
  dctx : Nat
  sctx : Nat
  aux : Nat := 0
  tid : Nat
  deadline : Nat
  addr : Nat := 0
  data : List Byte := []
  arr : Nat := 0
deriving DecidableEq, Repr, Inhabited

/-- A flit that a frame brought (R661, R667): whether every codeword of it decoded, and the corrected symbols of the frame by lane. -/
structure RxFlit where
  bytes : List Byte
  decoded : Bool
  laneErr : List Nat
deriving DecidableEq, Repr, Inhabited

/-- A DATA flit in the replay buffer (R666, R669): its SEQ, its payload, and when it was last sent. -/
structure Unacked where
  seq : Nat
  payload : List Byte
  sent : Nat
deriving DecidableEq, Repr, Inhabited

/-- The training of a port (R663): the lanes tried, whether only these are to be tried, failed tries at this width, the start of the
step, headers found in a row, whether a TRAIN has come, whether the port trains from DOWN. -/
structure Training where
  lanes : Nat
  only : Bool := false
  fails : Nat := 0
  start : Nat
  run : Nat := 0
  seen : Bool := false
  cold : Bool
  trainAt : Nat := 0
deriving DecidableEq, Repr, Inhabited

/-- A port (R657–R675, R692, R699, R700). `state` as in R700; `run`: headers found in a row; `frame`: the count of the last frame received;
`credits`, `owed`: units this side may send and has yet to return, by class; `expect`: the next SEQ accepted; `fails`, `failErr`: failed
receptions of that flit and their symbol errors by lane; `nakAt`: when the outstanding NAK was sent; `progress`: when ACK last moved;
`rx`: bytes of a packet not yet whole; `inq`, `out`: packets received, and waiting to be sent; `lasting`: when the last lasting error
came; `flits`: flits of received frames that are not yet taken; `tx`, `txCount`: flits waiting for a frame, and the count of the next frame;
`heard`: the master and hops heard; `timeRx`: receive time and transmit time of the last TIME; `berErr`, `berBits`, `berFrom`,
`worstBer`: the running and the last 1 s of R703; `since`: when the port went DOWN. -/
structure Port where
  state : Nat := 0
  lanes : Nat := 0
  partnerSw : Bool := false
  partnerId : Nat := 0
  partnerPort : Nat := 0
  adminDown : Bool := false
  training : Option Training := none
  run : Nat := 0
  frame : Option Nat := none
  since : Nat := 0
  seq : Nat := 0
  unacked : List Unacked := []
  progress : Nat := 0
  credits : List Nat := List.replicate 6 0
  owed : List Nat := List.replicate 6 0
  expect : Nat := 0
  fails : Nat := 0
  failErr : List Nat := List.replicate 8 0
  nakAt : Option Nat := none
  lasting : Option Nat := none
  flits : List RxFlit := []
  tx : List (List Byte) := []
  txCount : Nat := 0
  rx : List Byte := []
  inq : List FPkt := []
  out : List FPkt := []
  partnerLoop : Nat := 0
  heard : Option (Nat × Nat) := none
  timeRx : Option (Nat × Nat) := none
  transient : Nat := 0
  lastingCnt : Nat := 0
  fecCorr : Nat := 0
  fecUnc : Nat := 0
  flitsTx : Nat := 0
  bad : Nat := 0
  laneErr : List Nat := List.replicate 8 0
  berErr : List Nat := List.replicate 8 0
  berBits : Nat := 0
  berFrom : Nat := 0
  worstBer : Nat := 0
deriving DecidableEq, Repr, Inhabited

/-- A taken entry of a fabric queue (R683–R688): `next`: the bytes already put into packets; `open_`: packets not yet answered; `host`:
bytes of LOCAL in host memory, as PCIe completions returned them. -/
structure FEntry where
  id : Nat
  ctx : Nat
  queue : Nat
  va : Nat
  op : Nat
  cls : Nat
  dst : Nat
  dctx : Nat
  signal : Option Nat
  done : Option Nat
  len : Nat
  tag : Nat
  deadline : Option Nat
  loc : Nat
  remote : Nat
  next : Nat := 0
  open_ : Nat := 0
  host : Mem := []
deriving DecidableEq, Repr, Inhabited

/-- A request that has not been answered (R680): its packet, the entry it belongs to, its offset in it, its attempt and when it was
sent. -/
structure FReq where
  pkt : FPkt
  entry : Nat
  off : Nat
  attempt : Nat
  sent : Nat
deriving DecidableEq, Repr, Inhabited

/-- What a destination keeps of a source chip (R681): the base TID and the completed PUTs and EVENTs from it upward. -/
structure DupRec where
  src : Nat
  base : Nat
  done : List Nat
deriving DecidableEq, Repr, Inhabited

/-- A fabric queue of a context (R682, R699, R701). -/
structure FQueue where
  base : Nat := 0
  enable : Bool := false
  log2 : Nat := 4
deriving DecidableEq, Repr, Inhabited

/-- A peer binding (R702). -/
structure Peer where
  valid : Bool := false
  chip : Nat := 0
  ctx : Nat := 0
deriving DecidableEq, Repr, Inhabited

/-- The fabric engine (R676–R694, R699–R703): queues and bindings by context; `self`: packets of the chip to itself; `tids`: the next
TID by destination; `offset`: rack time less device time; `sent`: flits given to the PCS, by port; `frames`: frames sent, by port, as the
levels of their lanes. -/
structure Fabric where
  chipId : Nat := 0xFFFF
  ports : List Port := List.replicate 18 {}
  queues : List FQueue := List.replicate 256 {}
  peers : List Peer := List.replicate 1024 {}
  entries : List FEntry := []
  reqs : List FReq := []
  tids : List (Nat × Nat) := []
  dups : List DupRec := []
  self : List FPkt := []
  offset : Int := 0
  slewAt : Option Nat := none
  locked : Bool := false
  master : Nat := 0xFFFF
  hops : Nat := 0
  retries : Nat := 0
  duplicates : Nat := 0
  detours : Nat := 0
  unreachable : Nat := 0
  sent : List (Nat × List Byte) := []
  frames : List (Nat × List (List Nat)) := []
deriving DecidableEq, Repr, Inhabited

/-! ## SMP engine, dictionary and commits (14_plinth.md) -/

/-- A request as the SMP took it (R711): its header fields and, for a WRITE, its data. -/
structure SmpReq where
  seq : Nat
  op : Nat
  index : Nat
  sub : Nat
  offset : Nat
  header : Bool := true
  data : List Byte := []
deriving DecidableEq, Repr, Inhabited

/-- The mailbox as it stood from a time on (R707, R712). `status` as in R712. -/
structure Mailbox where
  since : Nat := 0
  status : Nat := 4
  req : Option SmpReq := none
  typ : Nat := 0
  total : Nat := 0
  gen : Nat := 0
  data : List Byte := []
deriving DecidableEq, Repr, Inhabited

/-- Bytes of an object that a segmented READ captured or a segmented WRITE has brought so far (R720, R721). -/
structure Segments where
  index : Nat
  sub : Nat
  bytes : List Byte
deriving DecidableEq, Repr, Inhabited

/-- A member of a build: an object and the value written to it (R729). -/
structure Member where
  index : Nat
  sub : Nat
  val : Nat
deriving DecidableEq, Repr, Inhabited

/-- An open build (R727–R731): its members, and the time of the last request from its owner. -/
structure Build where
  members : List Member := []
  last : Nat
deriving DecidableEq, Repr, Inhabited

/-- The commit object (R727). -/
structure Commits where
  build : Option Build := none
  result : Nat := 0
  failMember : Nat := 0
  generation : Nat := 0
deriving DecidableEq, Repr, Inhabited

/-- The SMP engine and the sideband engine (R704–R724, R751). `cs`: a transaction is open; `full`: its 672nd edge has come; `resp`: the
response frame it shifts out; `pend`: its snapshot shows PENDING; `lastBad`, `lastDiscarded`: FLAGS of the previous transaction; `old`:
mailbox states that have been replaced, newest first; `job`: the request to be performed; `waits`: the mailbox waits for the end of
a drain; `capture`, `partial_`: a READ's capture, a WRITE's segments. -/
structure Smp where
  cs : Bool := false
  full : Bool := false
  resp : List Byte := []
  pend : Bool := false
  lastBad : Bool := false
  lastDiscarded : Bool := false
  mail : Mailbox := {}
  old : List Mailbox := []
  job : Option SmpReq := none
  waits : Bool := false
  capture : Option Segments := none
  partial_ : Option Segments := none
  commits : Commits := {}
  taken : Nat := 0
  frameErrors : Nat := 0
  discards : Nat := 0
  repeats : Nat := 0
  lastError : Nat := 0
  echo : List Byte := List.replicate 64 0
deriving DecidableEq, Repr, Inhabited

/-! ## Reset, boot, keys, test (16_bringup.md) -/

/-- The sideband pins as levels: true is asserted (R805, R848, R868). -/
structure Pins where
  pwrinGood : Bool := true
  chipRst : Bool := false
  perst : Bool := true
  intrusion : Bool := false
deriving DecidableEq, Repr, Inhabited

/-- What the counters of objects that count "since cold reset" had reached at the last warm reset, where the register beside them starts
again (R140, R807): of the stream engine, of each port, of each stack. -/
structure Carry where
  str : List Nat := List.replicate 3 0
  ports : List (List Nat) := List.replicate 18 (List.replicate 4 0)
  stackList : List (List Nat) := List.replicate 8 (List.replicate 4 0)
deriving DecidableEq, Repr, Inhabited

/-- The boot and reset objects (R854) and the boot image's identity (R750). `kind`: the LastResetKind of the reset under way. -/
structure Boot where
  status : Nat := 0
  lastKind : Nat := 1
  kind : Nat := 1
  warmResets : Nat := 0
  zeroises : Nat := 0
  imageVersion : Nat := 0
  imageSequence : Nat := 0
  powerDown : Nat := 0
  carry : Carry := {}
deriving DecidableEq, Repr, Inhabited

/-- A blob exported (R830): the draw of the KWK, the key, and the slot. -/
structure Blob where
  kwk : Nat
  key : KeyId
  slot : Nat
deriving DecidableEq, Repr, Inhabited

/-- The security block (R828–R831, R843–R853): the KWK's identity, the blob registers, the blobs exported so far, SEC_KEY_STATUS, and the
debug unlock: `nonce` numbers the challenges drawn, `attempt` those since cold reset. -/
structure Sec where
  kwk : Nat := 33
  blob : List Byte := List.replicate 80 0
  blobs : List Blob := []
  busy : Bool := false
  result : Nat := 0
  nonce : Nat := 0
  attempt : Nat := 0
  unlock : Nat := 0
  rejects : Nat := 0
deriving DecidableEq, Repr, Inhabited

/-- The test access port (R832–R834): the instruction loaded, what was captured for shifting out. -/
structure Jtag where
  ir : Nat := 0x01
  dr : List Bool := []
deriving DecidableEq, Repr, Inhabited

/-- The loopback objects and the running loopback (R837–R841): when it started and its duration in ms; `waitPartner`: it was asked for
from a partner. -/
structure LoopTest where
  state : Nat := 0
  depth : Nat := 0
  inst : Nat := 0
  pattern : Nat := 0
  start : Nat := 0
  ms : Nat := 0
  bits : Nat := 0
  errors : Nat := 0
  lanes : List Nat := List.replicate 8 0
deriving DecidableEq, Repr, Inhabited

/-! ## The tray controllers and the rack bus (14_plinth.md, 15_rack.md, 16_bringup.md) -/

/-- What a tray controller sends or switches: a Plinth response to a requester; a CAN FD frame by its function code; a WRITE of a chip's
object; a request forwarded to a chip; a module's 12 V; the host module's power and shutdown signal; COOLANT_OK; a chip's CHIP_RST_N and
PERST_N; the image copy presented to a chip; the load's power; the opening of its bus connection. -/
inductive TrayOut where
  | response (dest : Nat) (msg : List Byte)
  | frame (code : Nat) (data : List Byte)
  | chipWrite (pos index sub val : Nat)
  | chipMsg (pos : Nat) (msg : List Byte)
  | modulePower (pos : Nat) (on : Bool)
  | hostPower (on : Bool)
  | hostShutdown
  | coolantOk (on : Bool)
  | chipReset (pos : Nat) (asserted : Bool)
  | perst (pos : Nat) (held : Bool)
  | present (pos copy : Nat)
  | load (on : Bool)
  | busOpen
deriving DecidableEq, Repr, Inhabited

/-- A node's last state block as heard on the rack bus (R741, R777, R804). `fresh`: not older than 50 ms. -/
structure Heard where
  node : Nat
  time : Nat
  block : List Byte
  fresh : Bool := true
deriving DecidableEq, Repr, Inhabited

/-- The last request of a requester and its response (R743): none while it is being performed. -/
structure Asked where
  src : Nat
  key : List Nat
  answer : Option (List Byte)
deriving DecidableEq, Repr, Inhabited

/-- A request that waits for its end (R744–R746): its requester, the message, when it was sent on. -/
structure Bridged where
  src : Nat
  msg : List Byte
  sent : Nat
deriving DecidableEq, Repr, Inhabited

/-- The bridge to a chip position (R746–R749). `owner`: the requester that owns the open build on the chip, and its last request. -/
structure Channel where
  state : Nat := 0
  transients : Nat := 0
  lasting : Nat := 0
  queue : List Bridged := []
  owner : Option (Nat × Nat) := none
deriving DecidableEq, Repr, Inhabited

/-- A module position (R757, R764, R774, R783, R803, R816). `tripped`: unpowered under R774; `pd`: the PowerDownState last read; `capLast`:
the CapW last written; `measW`: its measured power; `seq`: the newest chip event copied; `cycle`: 1 while its power is off for a cycle, 2
while a cycled chip starts, since `since`; `swapped`: the other image copy has been presented; `copy`: the image copy presented. -/
structure Module where
  powered : Bool := false
  tripped : Bool := false
  pd : Nat := 0
  capLast : Nat := 0
  measW : Nat := 0
  seq : Nat := 0
  cycle : Nat := 0
  since : Nat := 0
  swapped : Bool := false
  copy : Nat := 0
  perst : Bool := true
deriving DecidableEq, Repr, Inhabited

/-- A change of DRAIN-class objects that a tray drain carries, and the request that waits for its end (R744, R795). -/
structure TrayChange where
  members : List Member
  ask : Bridged
  commit : Bool
deriving DecidableEq, Repr, Inhabited

/-- The tray drain in progress (R791): the step that waits (1, 2 or 4), whether it forces, whether the CDU's announced stop began it
(R786), the change it carries, when host shutdown was signalled. -/
structure TrayDrain where
  step : Nat := 1
  forced : Bool
  planned : Bool := false
  change : Option TrayChange := none
  shutdownAt : Nat := 0
deriving DecidableEq, Repr, Inhabited

/-- The start sequence (R782): the step that waits, and when it began; step 0: step 1, of which nothing has been looked at yet (R802: TrayWait
is 0). -/
structure TrayStart where
  step : Nat := 0
  since : Nat := 0
deriving DecidableEq, Repr, Inhabited

/-- The persisted objects (R824, R825). -/
structure Persist where
  rackNumber : Nat := 0
  limitW : Nat := 6800
  moduleEnable : Nat := 0x0F
  chipCapW : List Nat := List.replicate 4 1500
  ipv4Mode : Nat := 1
  ipv4Address : Nat := 0
  ipv4Prefix : Nat := 24
  ipv4Gateway : Nat := 0
  retired : List (List (List Byte)) := List.replicate 4 []
deriving DecidableEq, Repr, Inhabited

/-- What the tray last sensed of itself and of its load (R768, R777, R778). `stopped`: mask of chips whose coolant stop is latched;
`portDown`: a chip port is DISABLED or MISWIRED; `flowed`: flow, temperatures, latches and leak
sensor have been sampled once, `measured`: the others; before that no alarm rests on them. -/
structure Sensed where
  flow : Nat := 0
  supply : Nat := 0
  ret : Nat := 0
  latched : Bool := false
  wet : Bool := false
  lid : Bool := false
  powerW : Nat := 0
  busMv : Nat := 0
  stopped : Nat := 0
  portDown : Bool := false
  chipLinks : Nat := 0
  rackLinks : Nat := 0
  measured : Bool := false
  flowed : Bool := false
deriving DecidableEq, Repr, Inhabited

/-- The bit-error tests (R797–R802). `bad`: lanes that failed their last test, as 144 × position + 8 × port + lane; `held`: ports left
ADMIN_DOWN; `start`, `periodicAt`: when the install test and the last periodic test began; `port`: the port under test and since when;
`next`: ports still to be tested. -/
structure Ber where
  state : Nat := 0
  skipped : Nat := 0
  lastPeriodic : Nat := 0
  results : List (List Nat) := List.replicate 4 (List.replicate 144 0)
  bad : List Nat := []
  held : List (Nat × Nat) := []
  start : Nat := 0
  periodicAt : Nat := 0
  port : Option (Nat × Nat × Nat) := none
  next : List (Nat × Nat) := []
deriving DecidableEq, Repr, Inhabited

/-- The two copies of the boot image and of the tray dictionary, the staging, and the image objects (R821–R827). A byte not listed is
0xFF. `seq`, `version`: of the image in use; `dictDue`: a persisted object has been written and not yet saved. -/
structure Images where
  a : Mem := []
  b : Mem := []
  staging : Mem := []
  selected : Nat := 0
  offset : Nat := 0
  state : Nat := 0
  seq : Nat := 0
  version : Nat := 0
  dictA : Mem := []
  dictB : Mem := []
  dictDue : Bool := false
deriving DecidableEq, Repr, Inhabited

/-- A tray controller: of a compute tray (`kind` 2), a switch tray (3) or the management tray (4). `slot`: the compute tray's slot or the
switch tray's plane; `time`: tray time; `rack`: the nodes heard; `state` as in R779; `start`: a start under way; `powered`: the load of a switch or management tray; `ceilHealthy`:
the healthy count that its ceiling stands for; `higher`: since when the healthy count has been higher; `busLost`: no frame for 50 ms;
`lowFlow`: samples below 6.0 L/min in a row; `flowSince`: since when the flow and its conditions hold; `okAt`: when COOLANT_OK was last
deasserted; `flowLost`: deasserted under R770; `leakOff`: when power is to be removed for a leak; `failed`: alarms of a start or stop
that failed; `noCompute`: since when no compute tray runs; `asked` to `partial_`: its Plinth server; `sent`: what it has sent. -/
structure Tray where
  kind : Nat := 2
  slot : Nat := 0
  time : Nat := 0
  rack : List Heard := []
  state : Nat := 1
  persist : Persist := {}
  start : Option TrayStart := some {}
  drain : Option TrayDrain := none
  modules : List Module := List.replicate 4 {}
  hostOn : Bool := false
  powered : Bool := false
  busOpen : Bool := false
  sensed : Sensed := {}
  flowStops : Nat := 0
  coolantOk : Bool := false
  lowFlow : Nat := 0
  flowSince : Option Nat := none
  okAt : Nat := 0
  flowLost : Bool := false
  leakOff : Option Nat := none
  healthy : Nat := 0
  ceilHealthy : Nat := 6
  higher : Option Nat := none
  busLost : Bool := false
  lastFrame : Nat := 0
  failed : Nat := 0
  noCompute : Option Nat := none
  sentBlock : List Byte := List.replicate 60 0
  asked : List Asked := []
  channels : List Channel := List.replicate 4 {}
  commits : Commits := {}
  owner : Nat := 0
  generation : Nat := 0
  canBusOff : Nat := 0
  duplicates : Nat := 0
  canLoopback : Nat := 0
  capture : Option Segments := none
  partial_ : Option Segments := none
  log : EventLog := {}
  images : Images := {}
  ber : Ber := {}
  sent : List TrayOut := []
deriving DecidableEq, Repr, Inhabited


/-- One of the 144 tiles. `pcieDests`: the PCIe destinations that threads and slots of a context wrote there since the context's last
SYSTEM fence of a TCU slot (R176, R307); `acts`: the activities of the power period by context and number, from 0 on in the order of R560;
`lastCtx`: the context of the group that issued last. -/
structure Tile where
  groups : List Group := []
  blocks : List Block := []
  waiting : List WaitBlock := []
  reserved : Option Nat := none
  arrived : List Arrived := []
  nextOrder : Nat := 0
  localMem : Mem := []
  ic : List IcLine := []
  nc : List NcLine := []
  sb : List SbLine := []
  loads : List LoadRec := []
  issued : Option Issued := none
  second : Bool := false
  cnt : TileCnt := {}
  snap : TileCnt := {}
  filterPart : Nat := 0
  filterEn : Bool := false
  filterMask : Nat := 0xFF
  tcus : List Tcu := List.replicate 4 {}
  waitEntries : List WaitEntry := []
  tcuCnt : TcuCnt := {}
  stretched : Bool := false
  chs : Chisel := {}
  port : StrPort := {}
  pcieDests : List (Nat × Nat) := []
  acts : List ((Nat × Nat) × Nat) := []
  lastCtx : Nat := 0
deriving DecidableEq, Repr, Inhabited

/-- The whole state. `freeCount` is the model's own: it numbers the free values drawn so far. -/
structure State where
  pending : List Instr := []
  freeCount : Nat := 0
  now : Nat := 0
  cm : CtxMgr := {}
  tiles : List Tile := List.replicate 144 {}
  mem : MemSys := {}
  hst : HostLink := {}
  phase : Phase := .cold
  stopped : Bool := false
  str : StrEng := {}
  bus : NeuralBus := {}
  arm : ArmEng := {}
  srt : SrtEng := {}
  pwr : Pwr := {}
  log : EventLog := {}
  hbm : HbmEng := {}
  fab : Fabric := {}
  smp : Smp := {}
  pins : Pins := {}
  boot : Boot := {}
  sec : Sec := {}
  jtag : Jtag := {}
  loop : LoopTest := {}
  tray : Tray := {}
  sw : Tray := { kind := 3, start := none }
  mgmt : Tray := { kind := 4, start := none }
deriving DecidableEq, Repr, Inhabited

/-- The machine right after reset: every field at its reset value, no command waiting. -/
def State.reset : State := {}

end Sys2Proof.Machine
end

