-- ==== Sys2Proof/Machine/Ops.lean ====
section
/-! DEFINITION. Named operations over the state: reading and updating its tables, raising faults, sending PCIe
messages and interrupts, device memory through the device cache, and translation. -/
namespace Sys2Proof.Machine

abbrev Out := Host.Outcome State Fault Refusal

/-! ## Tables of the state -/

def State.updCm (s : State) (f : CtxMgr → CtxMgr) : State := { s with cm := f s.cm }
def State.updHst (s : State) (f : HostLink → HostLink) : State := { s with hst := f s.hst }
def State.updMem (s : State) (f : MemSys → MemSys) : State := { s with mem := f s.mem }

def State.ctx (s : State) (c : Nat) : Ctx := s.cm.ctxs.getD c {}
def State.updCtx (s : State) (c : Nat) (f : Ctx → Ctx) : State :=
  s.updCm fun m => { m with ctxs := m.ctxs.modify c f }

def State.part (s : State) (p : Nat) : Part := s.cm.parts.getD p {}
def State.updPart (s : State) (p : Nat) (f : Part → Part) : State :=
  s.updCm fun m => { m with parts := m.parts.modify p f }

def State.queue (s : State) (q : Nat) : HostQ := s.cm.queues.getD q {}
def State.updQueue (s : State) (q : Nat) (f : HostQ → HostQ) : State :=
  s.updCm fun m => { m with queues := m.queues.modify q f }

def State.tile (s : State) (t : Nat) : Tile := s.tiles.getD t {}
def State.updTile (s : State) (t : Nat) (f : Tile → Tile) : State := { s with tiles := s.tiles.modify t f }
def State.updTiles (s : State) (f : Tile → Tile) : State := { s with tiles := s.tiles.map f }

/-- A count under a key grows by n. -/
def addAct {κ : Type} [BEq κ] (l : List (κ × Nat)) (k : κ) (n : Nat) : List (κ × Nat) :=
  if n == 0 then l else (k, ((l.find? (·.1 == k)).map (·.2)).getD 0 + n) :: l.filter (·.1 != k)

/-- A context's activity j of R560, from 0 on, on a tile grows by n. -/
def State.act (s : State) (tile c j n : Nat) : State := s.updTile tile fun t => { t with acts := addAct t.acts (c, j) n }

def Tile.group? (t : Tile) (slot : Nat) : Option Group := t.groups.find? (·.slot == slot)
def Tile.updGroup (t : Tile) (slot : Nat) (f : Group → Group) : Tile :=
  { t with groups := t.groups.map fun g => if g.slot == slot then f g else g }
def Tile.block? (t : Tile) (b : Nat) : Option Block := t.blocks.find? (·.bslot == b)
def Tile.updBlock (t : Tile) (b : Nat) (f : Block → Block) : Tile :=
  { t with blocks := t.blocks.map fun x => if x.bslot == b then f x else x }
def Tile.tcu (t : Tile) (s : Nat) : Tcu := t.tcus.getD s {}
def Tile.updTcu (t : Tile) (s : Nat) (f : Tcu → Tcu) : Tile := { t with tcus := t.tcus.modify s f }

def State.updGroup (s : State) (t slot : Nat) (f : Group → Group) : State := s.updTile t (·.updGroup slot f)
def State.updBlock (s : State) (t b : Nat) (f : Block → Block) : State := s.updTile t (·.updBlock b f)
def State.updTcu (s : State) (t slot : Nat) (f : Tcu → Tcu) : State := s.updTile t (·.updTcu slot f)

def Group.lane? (g : Group) (l : Nat) : Option Lane := (g.lanes.getD l none)
def Group.updLane (g : Group) (l : Nat) (f : Lane → Lane) : Group :=
  { g with lanes := g.lanes.modify l (Option.map f) }
/-- Update the listed lanes, each told its number. -/
def Group.updLanes (g : Group) (ls : List Nat) (f : Nat → Lane → Lane) : Group :=
  { g with lanes := g.lanes.mapIdx fun i o => if ls.contains i then o.map (f i) else o }

def State.launch? (s : State) (id : Nat) : Option Launch := s.cm.launches.find? (·.id == id)

/-- Repeat an update over a list. -/
def State.each {α : Type} (s : State) (l : List α) (f : α → State → State) : State := l.foldl (fun s x => f x s) s

/-- Device time reaches `t`; it never goes back (R50). -/
def State.at (s : State) (t : Nat) : State := { s with now := max s.now t }

/-- Draw the number of the next free value. -/
def State.draw (s : State) : State := { s with freeCount := s.freeCount + 1 }

/-- A fresh number for a launch, copy, wait, load or cluster. -/
def State.fresh (s : State) : Nat × State := (s.cm.nextId, s.updCm fun m => { m with nextId := m.nextId + 1 })

/-- The compute and base die blocks run: in service, no coolant stop and no thermal trip (R585, R593, R594, R736, R815). -/
def State.clocked (s : State) : Bool := s.phase == .ready && !s.stopped && !s.pwr.thermtrip

/-- The power manager runs (R585, R594). -/
def State.powered (s : State) : Bool := s.phase == .ready && !s.pwr.thermtrip

/-- An event record enters a log whose ring holds n records (R753–R757). -/
def EventLog.add (l : EventLog) (n time code source severity : Nat) (detail : List Byte) : EventLog :=
  let e : Event := { time := time, seq := l.seq + 1, code := code, source := source, severity := severity, detail := detail }
  { recs := (e :: l.recs).take n, seq := l.seq + 1, critical := l.critical + (if severity == 3 then 1 else 0) }

/-- The chip logs an event (R754). -/
def State.logEvent (s : State) (code source severity : Nat) (detail : List Byte) : State :=
  { s with log := s.log.add 64 s.now code source severity detail }

/-! ## Deadlines (R33–R36) -/

/-- The background tag (R34). -/
def bgTag : Nat := 0xFFFFFF

/-- The absolute deadline in ns of work of partition p with a tag (R33); none: background (R34). -/
def State.deadline (s : State) (p tag : Nat) : Option Nat :=
  if tag == bgTag then none else some ((s.part p).epochT + tag * 1000)

/-- Strict order of deadlines: earlier first, background last (R34, R35). -/
def dlLt : Option Nat → Option Nat → Bool
  | some a, some b => a < b
  | some _, none => true
  | none, _ => false

/-- What an ordering stage ranks a unit of work by: its effective deadline, the device time at which it came to the stage, and its context
(R34–R36). Arrivals at one device time count as arrivals in one cycle (DESIGN CHOICE, log 147). -/
structure Rank where
  dl : Option Nat
  arr : Nat := 0
  ctx : Nat := 0
deriving DecidableEq, Repr, Inhabited

/-- a is served before b (R34–R36). -/
def Rank.lt (a b : Rank) : Bool :=
  dlLt a.dl b.dl || (!dlLt b.dl a.dl && (a.arr < b.arr || (a.arr == b.arr && a.ctx < b.ctx)))

/-- The element to serve first; the list is in order of arrival for those that rank equal (R35, R36). -/
def earliest {α : Type} (rank : α → Rank) : List α → Option α
  | [] => none
  | a :: r =>
    match earliest rank r with
    | none => some a
    | some b => if (rank b).lt (rank a) then some b else some a

/-- A list in the order in which a stage serves it (R35, R36). -/
def byRank {α : Type} (rank : α → Rank) (l : List α) : List α :=
  l.foldl (fun out x =>
    (out.takeWhile fun y => !(rank x).lt (rank y)) ++ [x] ++ out.dropWhile fun y => !(rank x).lt (rank y)) []

/-! ## Faults -/

/-- A fault leaves its source for the context manager (R15, R17). -/
def State.raise (s : State) (f : FaultInfo) : State := s.updCm fun m => { m with faultQ := m.faultQ ++ [f] }

/-- A context that has work the device may run: READY or RUNNING (R69, R72). -/
def CtxState.live : CtxState → Bool
  | .ready => true
  | .running => true
  | _ => false

def State.live (s : State) (c : Nat) : Bool := (s.ctx c).state.live

/-- Something breaks a condition of R79 for a context: its quiet window restarts (R82). -/
def State.stir (s : State) (c : Nat) : State := s.updCtx c fun x => { x with quietSince := none }

/-- The abort code of a refused change is kept as the last one (R886). -/
def State.abort (s : State) (code : Nat) : State := s.updCm fun m => { m with lastAbort := code }

/-- One completed apply (R89). -/
def State.applied (s : State) : State := s.updCm fun m => { m with applyGen := (m.applyGen + 1) % 2 ^ 32 }

/-- An 8-byte write of a function to BAR0 discards the lower half it held (R615). -/
def State.fullWrite (s : State) (fn : Nat) : State := s.updHst fun h => { h with held := h.held.filter (·.fn != fn) }

/-! ## PCIe messages and interrupts (R621–R628) -/

/-- A message leaves over PCIe; a posted one is discarded while the link is down (R624). -/
def State.post (s : State) (m : PcieMsg) : State :=
  if s.hst.up then s.updHst fun h => { h with sent := h.sent ++ [m] } else s

/-- The function whose table holds a vector (R626). -/
def vectorFn (v : Nat) : Nat := if v < 1024 then 0 else 1 + (v - 1024) / 32

/-- Send or hold one vector (R628). -/
def State.vectorSend (s : State) (v : Nat) : State :=
  let x := s.hst.vectors.getD v {}
  if x.masked || !(s.hst.fnMsix.getD (vectorFn v) false) then
    s.updHst fun h => { h with vectors := h.vectors.modify v fun x => { x with pending := true } }
  else s.post (.msix v)

/-- An interrupt raised on behalf of partition p (none: of no partition) on a vector (R627). -/
def State.msix (s : State) (p : Option Nat) (v : Nat) : State :=
  match p with
  | none => s.vectorSend v
  | some p =>
    if v < 1024 || vectorFn v == p + 1 then s.vectorSend v
    else s.updHst fun h => { h with misroute := h.misroute + 1 }

/-- The answer of a read. -/
def State.reply (s : State) (a : ReadAnswer) : State := s.updHst fun h => { h with answer := a }

/-! ## HBM and the device cache (R162–R170, R191–R195, R637–R639, R878, R885) -/

/-- The end of HBM: 192 GiB. -/
def hbmEnd : Nat := 0x3000000000

/-- The HBM stack of a physical address (R630). -/
def stackOf (pa : Nat) : Nat := (bits pa 7 3 ^^^ bits pa 18 3) ^^^ bits pa 29 3

/-- The pseudo-channel of a physical address, its local line index and its row (R630). -/
def pcOf (pa : Nat) : Nat := bits pa 10 5 ^^^ bits pa 21 5
def localLine (pa : Nat) : Nat := bits pa 15 23
def rowOf (pa : Nat) : Nat := localLine pa / 8

/-- The device cache slice of a physical address (R162). -/
def sliceOf (pa : Nat) : Nat :=
  (((bits pa 7 6 ^^^ bits pa 13 6) ^^^ bits pa 19 6) ^^^ bits pa 25 6) ^^^ bits pa 31 6

/-- The set within the slice (R885). -/
def dcSetOf (pa : Nat) : Nat := (pa / 8192) % 768

/-- The key that a key slot holds. -/
def MemSys.keyId (m : MemSys) (slot : Nat) : KeyId := m.keys.getD slot (.drawn 0)

/-- The number that a key is. -/
def KeyId.val : KeyId → Nat
  | .drawn n => (Config.key n).toNat
  | .loaded v => v % 2 ^ 512

/-- The code of a key in the index of undefined bytes. -/
def keyCode : Option KeyId → Nat
  | none => 0
  | some (.drawn n) => 2 * n + 1
  | some (.loaded v) => 2 * v + 2

/-- What HBM holds about a line; a line nothing has written is undefined (R188). -/
def MemSys.metaOf (m : MemSys) (line : Nat) : LineMeta :=
  (m.meta_.find? (·.line == line)).getD { line := line, gen := m.baseGen }

def MemSys.setMeta (m : MemSys) (i : LineMeta) : MemSys :=
  { m with meta_ := i :: m.meta_.filter (·.line != i.line) }

/-- The bytes of an access as they read, noise where a byte has no defined value. -/
def readCells (i : LineMeta) (cells : Mem) (pa n : Nat) : List Byte :=
  (List.range n).map fun k => (Mem.get none cells (pa + k)).getD (Config.noise i.gen (keyCode i.via) (pa + k))

/-- The cells of bytes at an address. -/
def cellsAt (a : Nat) (l : List Byte) : Mem := l.mapIdx fun i b => (a + i, b)

/-- A line of HBM as it reads under a key: itself when it was written under that key, else what decrypting its ciphertext under the
reading key gives (R192, R195); a line that nobody has written is undefined (R188). -/
def MemSys.lineUnder (m : MemSys) (line : Nat) (k : KeyId) : LineMeta × Mem :=
  let i := m.metaOf line
  let cells := Mem.within m.hbm (line * 128) (line * 128 + 128)
  match i.kid with
  | none => ({ i with via := some k, kid := some k }, [])
  | some k0 =>
    if k0 == k || k0.val == k.val then ({ i with kid := some k }, cells)
    else
      ({ i with kid := some k },
        cellsAt (line * 128) (xtsDecrypt k.val line (xtsEncrypt k0.val line (readCells i cells (line * 128) 128))))

/-! ### Pseudo-channels (R629–R632) -/

/-- The row of a line. -/
def lineRow (line : Nat) : Nat := rowOf (line * 128)

/-- Where the pseudo-channel of a line stands among all. -/
def pcIndex (line : Nat) : Nat := stackOf (line * 128) * 32 + pcOf (line * 128)

/-- The oldest queued write is served (R632). -/
def PChan.popWrite (p : PChan) : PChan :=
  match p.writes with
  | [] => p
  | w :: r => { p with writes := r, row := some (lineRow w), wfirst := p.wfirst && decide (r.length > 16), acts := addAct p.acts 64 1 }

/-- A write is queued: at most 64 wait, and from 48 on writes go ahead of reads (R632). -/
def PChan.putWrite (p : PChan) (line : Nat) : PChan :=
  let p := if p.writes.length ≥ 64 then p.popWrite else p
  { p with writes := p.writes ++ [line], wfirst := p.wfirst || decide (p.writes.length + 1 ≥ 48) }

def PcRead.rank (r : PcRead) : Rank := ⟨r.eff, r.since, r.ctx⟩

/-- The read that a pseudo-channel serves next: the earliest, or, while that has waited less than 250 ns and not 8 times in a row, where the
controller so chooses one to the open row (R631; log 157). The second component: it goes ahead of the earliest. -/
def PChan.next (p : PChan) (pc now : Nat) : Option (PcRead × Bool) :=
  match earliest PcRead.rank p.reads with
  | none => none
  | some e =>
    match earliest PcRead.rank (p.reads.filter fun r => p.row == some (lineRow r.line)) with
    | none => some (e, false)
    | some h =>
      if h != e && p.bypasses < 8 && now < e.since + 250 && Config.bypass pc p.served then some (h, true) else some (e, false)

/-- A pseudo-channel serves one access: writes while they go first, else the next read (R631, R632). -/
def PChan.serveOne (p : PChan) (pc now : Nat) : PChan :=
  if p.wfirst then p.popWrite
  else
    match p.next pc now with
    | none => p
    | some (r, b) =>
      { p with reads := p.reads.erase r, row := some (lineRow r.line), bypasses := if b then p.bypasses + 1 else 0, served := p.served + 1
               acts := addAct p.acts r.ctx 1 }

/-- A pseudo-channel serves accesses until no read of a request waits. -/
def PChan.serve (id : Option Nat) (pc now : Nat) : Nat → PChan → PChan
  | 0, p => p
  | n + 1, p => if p.reads.any (·.id == id) then PChan.serve id pc now n (p.serveOne pc now) else p

/-- Put a line's meta data and bytes into HBM; the controller queues the write (R632). -/
def MemSys.setHbm (m : MemSys) (i : LineMeta) (cells : Mem) : MemSys :=
  let lo := i.line * 128
  let m := { m with pcs := m.pcs.modify (pcIndex i.line) (·.putWrite i.line) }
  { m with hbm := Mem.overlay none (Mem.drop m.hbm lo (lo + 128)) cells }.setMeta i

/-- A device cache line as its SEC-DED leaves it when it is read: a single-bit error is corrected, an uncorrectable one poisons the
line (R637). -/
def DcLine.checked (e : DcLine) : DcLine :=
  match e.ecc with
  | .sound | .lost => e
  | .single => { e with ecc := .sound }
  | .double => { e with ecc := .lost, info := { e.info with poison := true } }

/-- The single-bit errors of the device cache that were corrected (R637). -/
def MemSys.countEcc (m : MemSys) (e : DcLine) : MemSys :=
  if e.ecc == .single then { m with dcCorrected := m.dcCorrected + 1 } else m

/-- A line leaves the device cache, written back under its own key if dirty, with its poison (R167, R170, R637, R639). -/
def MemSys.evict (m : MemSys) (e : DcLine) : MemSys :=
  let lo := e.info.line * 128
  let m1 := if e.dirty then (m.countEcc e).setHbm e.checked.info (Mem.within m.dcData lo (lo + 128)) else m
  { m1 with dc := m1.dc.filter (· != e), dcData := Mem.drop m1.dcData lo (lo + 128) }

/-- The ways in which a key slot may allocate: a partition's mask, or for slot 32 the ways no partition has
(R167, R878). -/
def MemSys.ways (m : MemSys) (slot : Nat) : Nat :=
  if slot < 32 then m.wayMask.getD slot 0
  else (2 ^ 32 - 1) ^^^ (m.wayMask.foldl (· ||| ·) 0)

def MemSys.countDc (m : MemSys) (slot : Nat) (hit : Bool) : MemSys :=
  if slot < 32 then
    if hit then { m with dcHits := m.dcHits.modify slot (· + 1) }
    else { m with dcMisses := m.dcMisses.modify slot (· + 1) }
  else m

/-- The way that an allocation takes: a free allowed way, else that of the least recently used line of the set in an
allowed way (R885). -/
def MemSys.victim (m : MemSys) (slot line : Nat) : Option (Nat × Option DcLine) :=
  let pa := line * 128
  let mask := m.ways slot
  let inSet := m.dc.filter fun e => sliceOf (e.info.line * 128) == sliceOf pa && dcSetOf (e.info.line * 128) == dcSetOf pa
  let allowed := (List.range 32).filter fun w => bitAt mask w
  match allowed.find? fun w => inSet.all (·.way != w) with
  | some w => some (w, none)
  | none =>
    match (inSet.filter fun e => bitAt mask e.way).getLast? with
    | some e => some (e.way, some e)
    | none => none

/-- Bring a line to the front of the device cache under a key slot, if a way allows it; `counts`: the access is a request of its own, and is
counted as a hit or a miss. -/
def MemSys.access (m : MemSys) (slot line : Nat) (counts : Bool := true) : MemSys :=
  let count (m : MemSys) (hit : Bool) : MemSys := if counts then m.countDc slot hit else m
  match m.dc.find? fun e => e.info.line == line && e.key == slot with
  | some e => count ({ m with dc := e.checked :: m.dc.filter (· != e) }.countEcc e) true
  | none =>
    let m := count m false
    let m := (m.dc.filter (·.info.line == line)).foldl MemSys.evict m
    match m.victim slot line with
    | none => m
    | some (w, old) =>
      let m := match old with
        | some e => m.evict e
        | none => m
      let (i, cells) := m.lineUnder line (m.keyId slot)
      { m with dc := { info := i, key := slot, way := w, dirty := false } :: m.dc, dcData := Mem.overlay none m.dcData cells }

/-- Read n bytes inside one line at the device cache under a key slot: the bytes, and whether the line is poisoned. -/
def MemSys.read (m : MemSys) (slot pa n : Nat) (counts : Bool := true) : MemSys × List Byte × Bool :=
  let line := pa / 128
  let m := m.access slot line counts
  match m.dc.find? fun e => e.info.line == line && e.key == slot with
  | some e => (m, readCells e.info m.dcData pa n, e.info.poison)
  | none =>
    let (i, cells) := m.lineUnder line (m.keyId slot)
    (m, readCells i cells pa n, i.poison)

/-- DETAIL of a read of n bytes that met a poisoned line: the HBM stack of the first one, or 0xFF where the device cache itself lost it
(R78, R637). -/
def MemSys.poisonUnit (m : MemSys) (slot pa n : Nat) : Nat :=
  let unit (line : Nat) : Option Nat :=
    match m.dc.find? fun e => e.info.line == line && e.key == slot with
    | some e => if e.info.poison then some (if e.ecc == .lost then 0xFF else stackOf (line * 128)) else none
    | none => if (m.metaOf line).poison then some (stackOf (line * 128)) else none
  ((List.range ((pa % 128 + n - 1) / 128 + 1)).findSome? fun i => unit (pa / 128 + i)).getD (stackOf pa)

/-- Read n bytes inside one line at HBM itself (UNCACHED, R155). -/
def MemSys.readHbm (m : MemSys) (slot pa n : Nat) : List Byte × Bool :=
  let (i, cells) := m.lineUnder (pa / 128) (m.keyId slot)
  (readCells i cells pa n, i.poison)

/-- Write cells of one line at HBM under a key slot: a poisoned line takes only a whole line (R639). -/
def MemSys.writeHbm (m : MemSys) (slot line : Nat) (cells : Mem) : MemSys :=
  let i := m.metaOf line
  let full := cells.length == 128
  if i.poison && !full then m
  else
    let (i, old) := m.lineUnder line (m.keyId slot)
    m.setHbm { i with poison := false } (Mem.overlay none old cells)

/-- Write cells of one line at the device cache under a key slot (R167, R172, R639). -/
def MemSys.write (m : MemSys) (slot line : Nat) (cells : Mem) (counts : Bool := true) : MemSys :=
  let m := m.access slot line counts
  match m.dc.find? fun e => e.info.line == line && e.key == slot with
  | some e =>
    let full := cells.length == 128
    if e.info.poison && !full then m
    else
      { m with
        dc := m.dc.map fun x => if x == e then { e with dirty := true, ecc := .sound, info := { e.info with poison := false } } else x
        dcData := Mem.overlay none m.dcData cells }
  | none => m.writeHbm slot line cells

/-- Read n bytes at the device cache, line by line (n at most 8 KiB here: `fuel` lines). -/
def MemSys.readMany (m : MemSys) (slot : Nat) : Nat → Nat → Nat → MemSys × List Byte × Bool
  | 0, _, _ => (m, [], false)
  | fuel + 1, pa, n =>
    if n == 0 then (m, [], false) else
    let k := min n (128 - pa % 128)
    let (m, b, p) := m.read slot pa k
    let (m, b2, p2) := m.readMany slot fuel (pa + k) (n - k)
    (m, b ++ b2, p || p2)

/-- Write bytes at the device cache, line by line. -/
def MemSys.writeMany (m : MemSys) (slot : Nat) : Nat → Nat → List Byte → MemSys
  | 0, _, _ => m
  | fuel + 1, pa, l =>
    if l.isEmpty then m else
    let k := min l.length (128 - pa % 128)
    (m.write slot (pa / 128) (cellsAt pa (l.take k))).writeMany slot fuel (pa + k) (l.drop k)

/-! ## Translation (R151–R157) -/

/-- How a translation fails (R154). -/
inductive XErr where
  | pageFault
  | permission
  | poison (stack : Nat)
deriving DecidableEq, Repr

/-- The fault code of a failed translation (R15). -/
def XErr.code : XErr → Nat
  | .pageFault => 0x04
  | .permission => 0x05
  | .poison _ => 0x06

/-- A valid leaf entry whose page starts at va: its reserved type and its extent are checked (R152–R154). -/
def mkLeaf (e va size : Nat) : Except XErr Leaf :=
  let typ := bits e 5 3
  let pa := bits e 12 40 * 4096
  if typ ≥ 5 || pa % size != 0 || ((typ == 0 || typ == 2) && pa + size > hbmEnd) then .error .pageFault
  else .ok { va := va, size := size, pa := pa, r := bitAt e 2, w := bitAt e 3, x := bitAt e 4, typ := typ }

/-- The checks every entry of a walk meets: valid, must-be-0 bits, LEAF as its level asks (R152). -/
def entryBad (e level : Nat) : Bool :=
  !bitAt e 0 || bits e 52 12 != 0 || (bitAt e 8 && level != 4)
    || (level == 4 && !bitAt e 1) || (level < 3 && bitAt e 1)

/-- Read a table entry at the device cache under key slot 32 (R191, R878). -/
def MemSys.pte (m : MemSys) (a : Nat) : MemSys × Except XErr Nat :=
  if a + 8 > hbmEnd then (m, .error .pageFault)
  else
    let (m, b, p) := m.read 32 a 8
    (m, if p then .error (.poison (m.poisonUnit 32 a 8)) else .ok (leNat b))

/-- The walk from a level down: (shift, index bits, level) for each level left (R151, R153). -/
def MemSys.walk (m : MemSys) (va : Nat) : List (Nat × Nat × Nat) → Nat → MemSys × Except XErr Leaf
  | [], _ => (m, .error .pageFault)
  | (sh, nb, level) :: rest, table =>
    let idx := bits va sh nb
    match m.pte (table + 8 * idx) with
    | (m, .error e) => (m, .error e)
    | (m, .ok e) =>
      if entryBad e level then (m, .error .pageFault)
      else if level == 4 && bitAt e 8 then
        match m.pte (table + 8 * (idx / 16 * 16)) with
        | (m, .error x) => (m, .error x)
        | (m, .ok e0) =>
          if entryBad e0 4 || !bitAt e0 8 then (m, .error .pageFault)
          else (m, mkLeaf e0 (va / 65536 * 65536) 65536)
      else if bitAt e 1 then (m, mkLeaf e (va / 2 ^ sh * 2 ^ sh) (2 ^ sh))
      else m.walk va rest (bits e 12 40 * 4096)

/-- The five levels of R151. -/
def walkLevels : List (Nat × Nat × Nat) := [(48, 4, 0), (39, 9, 1), (30, 9, 2), (21, 9, 3), (12, 9, 4)]

/-- Translate a VA of a context for an agent. A translation the agent holds may be used in place of a page table
entry changed since; which of the two is a free choice until an invalidation (R157). -/
def State.translate (s : State) (ag : Agent) (c va : Nat) : State × Except XErr Leaf :=
  if va ≥ 2 ^ 52 then (s, .error .pageFault) else
  let (m, r) := s.mem.walk va walkLevels (s.ctx c).root
  let s := { s with mem := m }
  let hold (s : State) (l : Leaf) : State :=
    let e : TlbEnt := ⟨c, ag, l⟩
    s.updMem fun m => { m with tlb := e :: m.tlb.filter (· != e) }
  match s.mem.tlb.find? fun e => e.ctx == c && e.agent == ag && e.leaf.va ≤ va && va < e.leaf.va + e.leaf.size with
  | none =>
    match r with
    | .ok l => (hold s l, r)
    | _ => (s, r)
  | some e =>
    if (match r with | .ok l => l == e.leaf | _ => false) then (s, r)
    else if Config.choice s.freeCount then (s.draw, .ok e.leaf)
    else
      let s := s.draw.updMem fun m => { m with tlb := m.tlb.filter (· != e) }
      match r with
      | .ok l => (hold s l, r)
      | _ => (s, r)

/-- The physical address a leaf gives a VA. -/
def Leaf.addr (l : Leaf) (va : Nat) : Nat := l.pa + (va - l.va)

/-- The kinds of access of R155. -/
inductive Access where
  | load | store | atomic (op : Nat) | gather | scatter | exec
deriving DecidableEq, Repr

/-- Whether an access writes its location (R78). -/
def Access.writes : Access → Bool
  | .store => true
  | .atomic _ => true
  | .scatter => true
  | _ => false

/-- What R152, R155, R156 and R236 allow of an access of n bytes through a leaf at a physical address. -/
def allowed (l : Leaf) (a : Access) (n pa : Nat) : Bool :=
  let bit := match a with
    | .exec => l.x
    | .load => l.r
    | .gather => l.r
    | _ => l.w
  let kind := match l.typ with
    | 0 => true
    | 1 =>
      match a with
      | .exec => false
      | .atomic op => op == 0 || op == 8 || op == 9
      | _ => true
    | 2 => (a == .load || a == .store) && (n == 4 || n == 8)
    | 3 => a == .store && (n == 4 || n == 8)
    | 4 => a == .store || a == .scatter
    | _ => false
  bit && kind && !((l.typ == 1 || l.typ == 3 || l.typ == 4) && Config.inOwnBar pa)

/-- Translate and check an access: the leaf and the physical address, or the fault (R154, R155). -/
def State.resolve (s : State) (ag : Agent) (c va n : Nat) (a : Access) : State × Except XErr (Leaf × Nat) :=
  match s.translate ag c va with
  | (s, .error e) => (s, .error e)
  | (s, .ok l) => (s, if allowed l a n (l.addr va) then .ok (l, l.addr va) else .error .permission)

/-- The key slot of a context: that of its partition (R191). -/
def State.keySlot (s : State) (c : Nat) : Nat := (s.ctx c).part

/-- The bytes that PCIe completions returned for a run of host addresses; none where one did not come. -/
def hostBytes (host : Mem) (a n : Nat) : Option (List Byte) :=
  (List.range n).mapM fun i => Mem.get none host (a + i)

/-- A read of a line by a key slot goes to HBM: an UNCACHED one, or one that the device cache does not hold (R155, R162). -/
def State.hbmMiss (s : State) (typ key line : Nat) : Bool :=
  typ == 2 || (typ == 0 && !s.mem.dc.any fun e => e.info.line == line && e.key == key)

/-- Reads of lines enter the queues of their pseudo-channels (R631). -/
def State.pcPut (s : State) (id : Option Nat) (eff : Option Nat) (c : Nat) (lines : List Nat) : State :=
  s.updMem fun m => { m with pcs := lines.foldl (fun l n => l.modify (pcIndex n) fun p =>
    { p with reads := p.reads ++ [⟨id, n, eff, c, s.now⟩] }) m.pcs }

/-- The pseudo-channels serve what they queue in the order of R631 and R632 until no read of a request waits. -/
def State.pcTake (s : State) (id : Option Nat) : State :=
  s.updMem fun m => { m with pcs := m.pcs.mapIdx fun i p => PChan.serve id i s.now (p.reads.length + p.writes.length) p }

/-- Queued reads of a request lie in a row that is being copied to a spare row: they wait (R643). -/
def State.pcHeld (s : State) (id : Option Nat) : Bool :=
  s.mem.pcs.any fun p => p.reads.any fun r => r.id == id && (s.hbm.stackList.getD (stackOf (r.line * 128)) {}).copies.any fun k =>
    k.pc == pcOf (r.line * 128) && k.row == lineRow r.line

/-- A read that is made within a step: where it goes to HBM it is queued there, and what ranks before it is served before it (R631; log 157). -/
def State.pcNow (s : State) (typ key line : Nat) (eff : Option Nat) (c : Nat) : State :=
  if s.hbmMiss typ key line then (s.pcPut none eff c [line]).pcTake none else s

/-- Outbound requests that ended in completion failures (R623, R624). -/
def State.cplFailed (s : State) (n : Nat) : State := s.updHst fun h => { h with cplFail := h.cplFail + n }

/-- Read k bytes inside one line through a leaf, for work of an effective deadline: at the device cache (DEVICE), at HBM (UNCACHED), or
over PCIe, whose completions brought `host` (HOST, R621; a request that failed, or that the link was down for, is PERMISSION, R623,
R624). -/
def State.readLeaf (s : State) (c : Nat) (host : Mem) (l : Leaf) (pa k : Nat) (eff : Option Nat := none) : State × Except XErr (List Byte) :=
  let s := s.pcNow l.typ (s.keySlot c) (pa / 128) eff c
  match l.typ with
  | 0 =>
    let (m, b, p) := s.mem.read (s.keySlot c) pa k
    ({ s with mem := m }, if p then .error (.poison (m.poisonUnit (s.keySlot c) pa k)) else .ok b)
  | 2 =>
    let (b, p) := s.mem.readHbm (s.keySlot c) pa k
    (s, if p then .error (.poison (stackOf pa)) else .ok b)
  | 1 =>
    let (id, s1) := s.fresh
    let s := if s.hst.up then s1.post (.read (s.keySlot c + 1) pa k id) else s
    match if s.hst.up then hostBytes host pa k else none with
    | some b => (s, .ok b)
    | none => (s.cplFailed 1, .error .permission)
  | _ => (s, .error .permission)

/-- Read n bytes of a context at a VA for an engine of the chip (tables, headers, descriptors, nodes, lines): line by
line, at most `fuel` lines; the error names the faulting VA. -/
def State.readVa (s : State) (ag : Agent) (c : Nat) (host : Mem) (a : Access) (eff : Option Nat := none) :
    Nat → Nat → Nat → State × Except (XErr × Nat) (List Byte)
  | 0, _, _ => (s, .ok [])
  | fuel + 1, va, n =>
    if n == 0 then (s, .ok []) else
    let k := min n (128 - va % 128)
    match s.resolve ag c va k a with
    | (s, .error e) => (s, .error (e, va))
    | (s, .ok (l, pa)) =>
      match s.readLeaf c host l pa k eff with
      | (s, .error e) => (s, .error (e, va))
      | (s, .ok b) =>
        match s.readVa ag c host a eff fuel (va + k) (n - k) with
        | (s, .error e) => (s, .error e)
        | (s, .ok r) => (s, .ok (b ++ r))

/-- Store bytes for an engine of the chip at a VA, at the point of the SYSTEM scope: at the device cache, at HBM, or as
posted writes over PCIe. Fails with the faulting VA; nothing beyond it is stored. -/
def State.writeVa (s : State) (ag : Agent) (c : Nat) (a : Access) :
    Nat → Nat → List Byte → State × Option (XErr × Nat)
  | 0, _, _ => (s, none)
  | fuel + 1, va, d =>
    if d.isEmpty then (s, none) else
    let k := min d.length (128 - va % 128)
    match s.resolve ag c va k a with
    | (s, .error e) => (s, some (e, va))
    | (s, .ok (l, pa)) =>
      let cells := cellsAt pa (d.take k)
      let key := s.keySlot c
      let s := match l.typ with
        | 0 => s.updMem fun m => m.write key (pa / 128) cells
        | 2 => s.updMem fun m => m.writeHbm key (pa / 128) cells
        | _ => s.post (.write (key + 1) pa cells)
      s.writeVa ag c a fuel (va + k) (d.drop k)

end Sys2Proof.Machine
end

