-- ==== Sys2Proof/Machine/Operands.lean ====
section
/-! DEFINITION. The thread engine's instruction words: encodings of the five formats (R206, R207), the opcodes that
are defined (R215) and the decode checks (R208–R211, R216, R217). -/
namespace Sys2Proof.Machine

/-- OP, PNEG and PSEL of a word (R206). -/
def encHead (op : Nat) (pneg : Bool) (psel : Nat) : Nat := place op 56 8 + place (b2n pneg) 55 1 + place psel 52 3

/-- The word of a REG instruction (R207). -/
def encReg (op : Nat) (f : RegF) : Nat :=
  encHead op f.pneg f.psel + place f.dst 44 8 + place f.srca 36 8 + place f.srcb 28 8 + place f.srcc 20 8 + place f.mod 0 20

/-- The word of an IMM instruction (R207). -/
def encImm (op : Nat) (f : ImmF) : Nat :=
  encHead op f.pneg f.psel + place f.dst 44 8 + place f.srca 36 8 + place f.mod4 32 4 + f.imm.toNat

/-- The word of a MEM instruction (R207, R233). -/
def encMem (op : Nat) (f : MemF) : Nat :=
  encHead op f.pneg f.psel + place f.dst 44 8 + place f.srca 36 8 + place f.srcb 28 8 + place f.size 25 3
    + place f.subop 21 4 + place (b2n f.signed) 20 1 + place f.off 0 20

/-- The fields of a MEM word (R207, R233). -/
def wordMem (w : Nat) : MemF :=
  { pneg := bitAt w 55, psel := bits w 52 3, dst := bits w 44 8, srca := bits w 36 8, srcb := bits w 28 8, size := bits w 25 3
    subop := bits w 21 4, signed := bitAt w 20, off := bits w 0 20 }

/-- The word of a BRN instruction (R207). -/
def encBrn (op : Nat) (f : BrnF) : Nat :=
  encHead op f.pneg f.psel + place f.dst 44 8 + place f.srca 36 8 + place f.rsv 32 4 + f.disp.toNat

/-- The word of an SPC instruction (R207). -/
def encSpc (op : Nat) (f : SpcF) : Nat :=
  encHead op f.pneg f.psel + place f.dst 44 8 + place f.srca 36 8 + place f.srcb 28 8 + place f.spec 0 28

/-- Whether the major opcode map assigns a code (R215). -/
def opDefined (op : Nat) : Bool :=
  (0x01 ≤ op && op ≤ 0x05) || (0x10 ≤ op && op ≤ 0x23) || (0x25 ≤ op && op ≤ 0x2C) || (0x30 ≤ op && op ≤ 0x34)
    || (0x40 ≤ op && op ≤ 0x4F) || (0x60 ≤ op && op ≤ 0x62) || (0x70 ≤ op && op ≤ 0x78) || (0x80 ≤ op && op ≤ 0x85)
    || (0x90 ≤ op && op ≤ 0x92) || (0xA0 ≤ op && op ≤ 0xA2) || op == 0xB0 || op == 0xB1 || op == 0xB8 || op == 0xB9

/-- Registers of an element of 2^size bytes (R205, R233). -/
def sizeRegs (size : Nat) : Nat := if size == 3 then 2 else if size == 4 then 4 else 1

/-- A run of registers that an instruction names: first register, count. -/
abbrev RegRun := Nat × Nat

/-- A register run that breaks R209: misaligned, or reaching the kernel's declared register count. -/
def runBad (declared : Nat) (r : RegRun) : Bool := r.1 % r.2 != 0 || r.1 + r.2 > declared

/-- The fields of a word. -/
def wDst (w : Nat) : Nat := bits w 44 8
def wA (w : Nat) : Nat := bits w 36 8
def wB (w : Nat) : Nat := bits w 28 8
def wC (w : Nat) : Nat := bits w 20 8
def wMod (w : Nat) : Nat := bits w 0 20
def wSpec (w : Nat) : Nat := bits w 0 28

/-- The registers a word names as sources and destinations, at a group width. -/
def regRuns (w width : Nat) : List RegRun :=
  let op := bits w 56 8
  let d := wDst w
  let a := wA w
  let b := wB w
  let c := wC w
  let size := bits w 25 3
  let n := sizeRegs size
  if op == 0x03 || (0x1D ≤ op && op ≤ 0x1F) || (0x45 ≤ op && op ≤ 0x4B) || op == 0x4F || op == 0x61 || op == 0x62 then
    [(d, 1), (a, 1)]
  else if op == 0x14 || op == 0x42 || op == 0x4E then [(d, 1), (a, 1), (b, 1), (c, 1)]
  else if op == 0x04 || (0x10 ≤ op && op ≤ 0x1C) || (0x40 ≤ op && op ≤ 0x4D) || op == 0x60 then [(d, 1), (a, 1), (b, 1)]
  else if op == 0x02 then [(d, 1)]
  else if 0x20 ≤ op && op ≤ 0x2C then [(d, 1), (a, 1)]
  else if op == 0x30 || op == 0x32 then [(a, 1), (b, 1)]
  else if op == 0x31 then [(a, 1)]
  else if op == 0x34 then (if bits w 0 2 == 2 then [(d, if width == 64 then 2 else 1)] else [])
  else if op == 0x05 then [(d, if 0x0C ≤ bits w 0 8 && bits w 0 8 ≤ 0x0E then 2 else 1)]
  else if op == 0x70 || op == 0x71 then [(d, n), (a, 1)]
  else if op == 0x72 then [(d, n), (a, 1), (b, n)]
  else if op == 0x73 || op == 0x74 then [(d, n), (a, 2)]
  else if op == 0x75 then [(d, n), (a, 2), (b, n)]
  else if op == 0x76 || op == 0x77 then [(d, n), (a, 2), (b, 1)]
  else if op == 0x81 || op == 0x83 then [(a, 2)]
  else if op == 0x82 then [(d, 2)]
  else if op == 0x91 then [(d, 1), (a, 1)]
  else if op == 0x92 || op == 0xA1 || op == 0xB0 then [(d, 1)]
  else if op == 0xA0 then [(a, 8), (b, 1)]
  else []

/-- Reserved fields and reserved values of a word of a defined opcode, register numbers apart (R209, R216, R217 and
the field rules of each instruction). SRCC of HFMA2 is reserved as
R216 lists it: the addend is the register that its only value, 0, names (log 12). -/
def fieldsBad (w : Nat) : Bool :=
  let op := bits w 56 8
  let d := wDst w
  let a := wA w
  let b := wB w
  let c := wC w
  let m := wMod w
  let sp := wSpec w
  let disp := bits w 0 32
  let mod4 := bits w 32 4
  let size := bits w 25 3
  let subop := bits w 21 4
  let sgn := bitAt w 20
  let off := bits w 0 20
  match op with
  | 0x01 => d + a + b + sp != 0
  | 0x02 => a + mod4 != 0
  | 0x03 => b + c + m != 0
  | 0x04 => c != 0 || m ≥ 8
  | 0x05 => a + b != 0 || sp > 0x10
  | 0x13 => c != 0 || m ≥ 2
  | 0x14 => m != 0
  | 0x15 => c != 0 || m ≥ 2
  | 0x16 => c != 0 || m ≥ 2
  | 0x1D => b + c + m != 0
  | 0x1E => b + c + m != 0
  | 0x1F => b + c + m != 0
  | 0x23 => mod4 ≥ 2
  | 0x25 => mod4 ≥ 2
  | 0x26 => mod4 ≥ 2
  | 0x30 => d ≥ 7 || c != 0 || m ≥ 10
  | 0x31 => d ≥ 7 || mod4 ≥ 10
  | 0x32 => d ≥ 7 || c != 0 || m ≥ 8
  | 0x33 => d ≥ 7 || a ≥ 8 || b ≥ 8 || c != 0 || m ≥ 4
  | 0x34 => (m != 2 && d ≥ 7) || a ≥ 8 || b + c != 0 || m ≥ 3
  | 0x40 => c != 0 || m ≥ 8
  | 0x41 => c != 0 || m ≥ 8
  | 0x42 => m ≥ 8
  | 0x43 => c != 0 || (m != 0 && m != 4)
  | 0x44 => c != 0 || (m != 0 && m != 4)
  | 0x4C => c != 0 || m ≥ 8
  | 0x4D => c != 0 || m ≥ 8
  | 0x4E => c != 0 || m ≥ 8
  | 0x4F => b + c != 0 || bits m 0 4 ≥ 8 || bits m 4 4 ≥ 8 || m ≥ 2048
  | 0x60 => c + m != 0
  | 0x61 => b + c != 0 || m ≥ 6
  | 0x62 => b + c + m != 0
  | 0x70 => b != 0 || size ≥ 5 || subop != 0 || (sgn && size ≥ 2)
  | 0x71 => b != 0 || size ≥ 5 || subop != 0 || sgn
  | 0x72 => (size != 2 && size != 3) || subop ≥ 11 || (subop == 10 && size != 2) || sgn
  | 0x73 => b != 0 || size ≥ 5 || subop ≥ 2 || (sgn && size ≥ 2)
  | 0x74 => b != 0 || size ≥ 5 || subop != 0 || sgn
  | 0x75 => (size != 2 && size != 3) || subop ≥ 11 || (subop == 10 && size != 2) || sgn
  | 0x76 => size ≥ 5 || subop ≥ 2 || (sgn && size ≥ 2) || bits off 17 3 ≥ 5 || bits off 0 16 != 0
  | 0x77 => size ≥ 5 || subop != 0 || sgn || bits off 17 3 ≥ 5 || bits off 0 16 != 0
  | 0x78 => d + a + b != 0 || sp ≥ 8 || (bitAt sp 2 && bits sp 0 2 != 1)
  | 0x80 => d + a + mod4 != 0
  | 0x81 => d + mod4 + disp != 0
  | 0x82 => a + mod4 != 0
  | 0x83 => d + mod4 + disp != 0
  | 0x84 => d + a + mod4 + disp != 0
  | 0x85 => d + a + b != 0 || sp ≥ 32 || bits sp 0 2 == 3
  | 0x90 => d + a + b != 0 || sp ≥ 2048 || bits sp 0 8 ≥ 32 || (!bitAt sp 8 && bits sp 9 2 != 0)
  | 0x91 => b != 0 || bits sp 16 12 ≥ 56
  | 0x92 => a + b != 0 || bits sp 16 12 ≥ 56 || bits sp 0 16 != 0
  | 0xA0 => d != 0 || bits sp 0 15 != 0
  | 0xA1 => a + b + sp != 0
  | 0xA2 => d + a + b != 0 || bitAt sp 27
  | 0xB0 => a + b != 0 || bits sp 12 16 != 0
  | 0xB1 => d + a + b != 0 || bits sp 12 16 != 0
  | 0xB8 => d + a + b != 0 || bits sp 0 15 != 0
  | 0xB9 => d + a + b + sp != 0
  | _ =>
    if 0x45 ≤ op && op ≤ 0x4B then b + c != 0 || (m != 0 && m != 4)
    else if 0x10 ≤ op && op ≤ 0x1C then c + m != 0
    else mod4 != 0

/-- The RESERVED_FIELD check of a defined opcode (R209): guard, fields and registers. -/
def reservedBad (w declared width : Nat) : Bool :=
  (bitAt w 55 && bits w 52 3 == 7) || fieldsBad w || (regRuns w width).any (runBad declared)

/-! ## Registers of a lane (R202, R203, R205) -/

def Lane.gr (l : Lane) (n : Nat) : Word := l.regs.getD n 0
def Lane.setGr (l : Lane) (n : Nat) (v : Word) : Lane := { l with regs := l.regs.set n v }

/-- The natural number in a run of registers, low register first (R205). -/
def Lane.getN (l : Lane) (n : Nat) : Nat → Nat
  | 0 => 0
  | k + 1 => (l.gr n).toNat + 2 ^ 32 * l.getN (n + 1) k

/-- Write a run of registers, low register first. -/
def Lane.setN (l : Lane) (n : Nat) : Nat → Nat → Lane
  | 0, _ => l
  | k + 1, v => (l.setGr n (BitVec.ofNat 32 v)).setN (n + 1) k (v / 2 ^ 32)

/-- A predicate; pr7 reads 1 (R203). -/
def Lane.pr (l : Lane) (n : Nat) : Bool := if n == 7 then true else l.preds.getD n false
def Lane.setPr (l : Lane) (n : Nat) (v : Bool) : Lane := { l with preds := l.preds.set n v }

/-- The guard of a word in a lane (R206, R213). -/
def Lane.guard (l : Lane) (w : Nat) : Bool := l.pr (bits w 52 3) != bitAt w 55

end Sys2Proof.Machine
end

