-- ==== Sys2Proof/Machine/Thread.lean ====
section
/-! DEFINITION. What every thread instruction shares: taking the issued instruction of the tile, its decode checks
(R209–R212), its active lanes (R213), advancing program counters, and the faults it raises. -/
namespace Sys2Proof.Machine

/-- The issue group that an instruction acts for: tile, the issued instruction, its group and block as they stand at
issue, and the active lanes in ascending order. -/
structure TC where
  tile : Nat
  i : Issued
  g : Group
  b : Block
  act : List Nat

/-- The deadline tag of a launch's work (R76, TAG). -/
def State.launchTag (s : State) (id : Nat) : Nat := ((s.launch? id).map (·.tag)).getD bgTag

/-- The deadline of a launch's work (R33, R113). -/
def State.launchDl (s : State) (id : Nat) : Option Nat := (s.launch? id).bind (·.deadline)

/-- The lanes stop at a fault: none of them issues again (R71, R188). -/
def State.stopLanes (s : State) (tile slot : Nat) (ls : List Nat) : State :=
  s.updGroup tile slot fun g => g.updLanes ls fun _ l => { l with wait := .faulted }

/-- A fault of the whole issue group: LANE 0xFF, INSN and PC valid (R212). -/
def TC.fault (tc : TC) (code detail : Nat) (s : State) : State :=
  (s.raise { code := code, ctx := tc.b.ctx, tile := tc.tile, unit := 0, group := tc.i.slot, pc := tc.i.pc,
             insn := tc.i.word, detail := detail, valid := 0x0A, tag := s.launchTag tc.b.launch }).stopLanes
    tc.tile tc.i.slot tc.i.mask

/-- The record of a fault of one lane at an address (R245). -/
def TC.laneInfo (tc : TC) (s : State) (lane code addr detail : Nat) : FaultInfo :=
  { code := code, ctx := tc.b.ctx, tile := tc.tile, unit := 0, lane := lane, group := tc.i.slot, pc := tc.i.pc,
    addr := addr, insn := tc.i.word, detail := detail, valid := 0x0F, tag := s.launchTag tc.b.launch }

/-- A fault of one lane stops the whole issue group. -/
def TC.laneFault (tc : TC) (lane code addr detail : Nat) (s : State) : State :=
  (s.raise (tc.laneInfo s lane code addr detail)).stopLanes tc.tile tc.i.slot tc.i.mask

/-- Every lane of the issue group moves on by one instruction (R213); the active ones take an effect. -/
def TC.step (tc : TC) (f : Nat → Lane → Lane) (s : State) : State :=
  s.updGroup tc.tile tc.i.slot fun g =>
    (g.updLanes tc.act f).updLanes tc.i.mask fun _ l => { l with pc := l.pc + 8 }

/-- The lanes as they stood at issue. -/
def TC.lane (tc : TC) (k : Nat) : Lane := (tc.g.lane? k).getD { pc := 0, regs := [] }

/-- The context of an issued instruction lets it take effect: it is live; or it is being killed, and the instruction is a store that had
issued before, of threads that have not faulted (R188). -/
def TC.runs (tc : TC) (s : State) : Bool :=
  match (s.ctx tc.b.ctx).state with
  | .killing => (bits tc.i.word 56 8 == 0x74 || bits tc.i.word 56 8 == 0x77) && tc.i.mask.all fun k => (tc.g.lane? k).all (·.wait != .faulted)
  | st => st.live

/-- Run the tile's issued instruction if it is this word: decode checks first (R209–R211), then its effect on the
active lanes. A command for a word that has not issued changes nothing. -/
def runThread (tile w : Nat) (eff : TC → State → State) (s : State) : State :=
  if !s.clocked then s else
  match (s.tile tile).issued with
  | none => s
  | some i =>
    if i.word != w then s else
    let s := s.updTile tile fun t => { t with issued := none }
    match (s.tile tile).group? i.slot with
    | none => s
    | some g =>
      match (s.tile tile).block? g.bslot with
      | none => s
      | some b =>
        let act := i.mask.filter fun k => match g.lane? k with
          | some l => l.guard w
          | none => false
        let tc : TC := { tile := tile, i := i, g := g, b := b, act := act }
        if !tc.runs s then s
        else if reservedBad w b.hdr.regs g.width then tc.fault 0x02 0 s
        else eff tc s

/-- An instruction whose effect is lane by lane on registers and predicates. -/
def runLanes (tile w : Nat) (f : TC → Nat → Lane → Lane) (s : State) : Out :=
  .next (runThread tile w (fun tc s => tc.step (f tc) s) s)

end Sys2Proof.Machine
end

