-- ==== Sys2Proof/Machine/ThreadMem.lean ====
section
/-! DEFINITION. Meanings of the memory instructions of threads, the store buffers, outstanding loads and fences
(R148–R150, R163–R187, R233–R246). -/
namespace Sys2Proof.Machine

/-- A signed n-bit field. -/
def signed (v n : Nat) : Int := if v < 2 ^ (n - 1) then (v : Int) else (v : Int) - 2 ^ n

/-- A value reduced to n bits, as a natural number. -/
def wrap (v : Int) (n : Nat) : Nat := (v % 2 ^ n).toNat

/-- Bytes of an element size code (R233). -/
def sizeBytes (size : Nat) : Nat := 2 ^ size

/-- The value a load of bytes gives its destination: 1- and 2-byte loads extend to 32 bits (R233). -/
def loadValue (sgn : Bool) (l : List Byte) : Nat :=
  let v := leNat l
  if sgn && l.length ≤ 2 then wrap (signed v (8 * l.length)) 32 else v

/-- The atomic operations on an element of n bytes (R235). FADD rounds to nearest even and keeps subnormals: R221 gives its modes to the
thread opcodes alone (log 138). -/
def atomApply (op n old operand cmp : Nat) : Nat :=
  let w := 8 * n
  let a := signed old w
  let b := signed operand w
  match op with
  | 0 => (old + operand) % 2 ^ w
  | 1 => if a ≤ b then old else operand
  | 2 => if a ≤ b then operand else old
  | 3 => min old operand
  | 4 => max old operand
  | 5 => old &&& operand
  | 6 => old ||| operand
  | 7 => old ^^^ operand
  | 8 => operand
  | 9 => if old == cmp then operand else old
  | _ => fAdd fp32 0 old operand

/-- The outcome of the checks of one instruction's lanes in ascending order: lanes with their targets up to the first
that faults, and that lane's fault (R241–R243). -/
structure Checked (α : Type) where
  good : List (Nat × α)
  bad : Option FaultInfo

/-- Check lanes in ascending order and stop at the first that faults. -/
def checkLanes {α : Type} (chk : State → Nat → State × Except FaultInfo α) : List Nat → State → State × Checked α
  | [], s => (s, ⟨[], none⟩)
  | k :: r, s =>
    match chk s k with
    | (s, .error f) => (s, ⟨[], some f⟩)
    | (s, .ok a) =>
      let (s, c) := checkLanes chk r s
      (s, ⟨(k, a) :: c.good, c.bad⟩)

/-- Lanes below the faulting lane commit; with a fault the issue group stops, else every lane moves on (R243). -/
def TC.commit (tc : TC) (good : List Nat) (bad : Option FaultInfo) (f : Nat → Lane → Lane) (s : State) : State :=
  match bad with
  | none => tc.step f s
  | some x =>
    ((s.updGroup tc.tile tc.i.slot fun g => g.updLanes good f).raise x).stopLanes tc.tile tc.i.slot tc.i.mask

/-! ## Local memory (R148–R150, R184–R187) -/

/-- The tile of a rank in the quad of a tile (R123). -/
def rankTile (t rank : Nat) : Nat :=
  let x := t % 12
  let y := t / 12
  (y - y % 2 + rank / 2) * 12 + (x - x % 2) + rank % 2

/-- The block of a rank in a block's cluster whose local memory is allocated, which a retired one's is until every member has retired
(R127, R128). -/
def State.member (s : State) (tile : Nat) (b : Block) (rank : Nat) : Option (Nat × Block) :=
  match b.cluster with
  | none => none
  | some c =>
    let t := rankTile tile rank
    ((s.tile t).blocks.find? fun x => x.cluster == some c && x.rank == rank).map fun x => (t, x)

/-- The block of a rank in a block's cluster that has not retired. -/
def State.liveMember (s : State) (tile : Nat) (b : Block) (rank : Nat) : Option (Nat × Block) :=
  (s.member tile b rank).filter fun x => !x.2.retired

/-- The tile and the tile address of n bytes at a local address; none: LOCAL_BOUNDS (R127, R148, R149). -/
def State.localTarget (s : State) (tile : Nat) (b : Block) (addr : Int) (n : Nat) : Option (Nat × Nat) :=
  if addr < 0 || addr ≥ 2 ^ 32 then none else
  let a := addr.toNat
  let off := bits a 0 19
  if bitAt a 19 || bits a 23 9 != 0 || (!bitAt a 20 && bits a 21 2 != 0) then none
  else if !bitAt a 20 then
    if off + n ≤ b.size then some (tile, b.base + off) else none
  else
    match s.member tile b (bits a 21 2) with
    | none => none
    | some (t, x) => if off + n ≤ x.size then some (t, x.base + off) else none

/-- The local address of a lane (R234). -/
def localAddr (f : MemF) (l : Lane) : Int := ((l.gr f.srca).toNat : Int) + signed f.off 20

/-- The checks of a local access of one lane: MISALIGNED, then LOCAL_BOUNDS (R180, R242). -/
def localCheck (tc : TC) (f : MemF) (s : State) (k : Nat) : State × Except FaultInfo (Nat × Nat) :=
  let a := localAddr f (tc.lane k)
  let n := sizeBytes f.size
  if a % n != 0 then (s, .error (tc.laneInfo s k 0x03 (wrap a 64) 0))
  else
    match s.localTarget tc.tile tc.b a n with
    | none => (s, .error (tc.laneInfo s k 0x0A (wrap a 64) 0))
    | some t => (s, .ok t)

/-- Bytes of a tile's local memory; what nothing has written reads 0 (R150). -/
def State.localRead (s : State) (t a n : Nat) : List Byte := Mem.bytes (s.tile t).localMem 0 a n
def State.localWrite (s : State) (t a : Nat) (l : List Byte) : State :=
  s.updTile t fun x => { x with localMem := Mem.putAll (some 0) x.localMem a l }

/-- The 4-byte words of n bytes at a tile address (R184). -/
def wordsOf (n a : Nat) : List Nat := (List.range ((n + 3) / 4)).map (a / 4 + ·)

/-- The most words that one of the 32 banks must deliver (R184, R185). -/
def bankPasses (words : List Nat) : Nat :=
  (List.range 32).foldl (fun m b => max m (words.filter (· % 32 == b)).length) 0

/-- The replay cycles of the accesses of n bytes that lanes make to a tile's banks, 32 lanes at a time; an atomic takes a pass for each
lane at a word (R184–R187; log 159). -/
def replayCycles (atomic : Bool) (n : Nat) (acc : List (Nat × Nat)) : Nat :=
  let half (h : Nat) : Nat :=
    let words := (acc.filter (·.1 / 32 == h)).flatMap fun x => wordsOf n x.2
    bankPasses (if atomic then words else words.eraseDups) - 1
  half 0 + half 1

/-- The lanes of an access with their tile addresses that go to one tile. -/
def lanesTo (good : List (Nat × Nat × Nat)) (t : Nat) : List (Nat × Nat) := (good.filter (·.2.1 == t)).map fun x => (x.1, x.2.2)

/-- The group waits for the replays of its own local access, and the lanes that reached a neighbour for 6 cycles and the replays there
(R126, R185, R187). A group of width 64 begins to wait after its second issue cycle. -/
def localWait (tc : TC) (atomic : Bool) (n : Nat) (good : List (Nat × Nat × Nat)) (s : State) : State :=
  let more := b2n (s.tile tc.tile).second
  let own := replayCycles atomic n (lanesTo good tc.tile)
  let s := s.each good fun x s => s.act x.2.1 tc.b.ctx 5 ((n + 3) / 4)
  s.updGroup tc.tile tc.i.slot fun g =>
    let g := { g with replay := if own == 0 then g.replay else own + more }
    g.updLanes (good.map (·.1)) fun k l =>
      match good.find? (·.1 == k) with
      | some (_, t, _) =>
        if t == tc.tile || l.wait != .run then l else { l with wait := .neighbour (6 + replayCycles atomic n (lanesTo good t) + more) }
      | none => l

/-- LDL: local load (R215, R233, R243). -/
def execLdl (tile : Nat) (f : MemF) (s : State) : Out :=
  .next (runThread tile (encMem 0x70 f) (fun tc s =>
    let (s, c) := checkLanes (localCheck tc f) tc.act s
    let v k := loadValue f.signed (match c.good.find? (·.1 == k) with
      | some (_, t, a) => s.localRead t a (sizeBytes f.size)
      | none => [])
    localWait tc false (sizeBytes f.size) c.good
      (tc.commit (c.good.map (·.1)) c.bad (fun k l => l.setN f.dst (sizeRegs f.size) (v k)) s)) s)

/-- STL: local store, in ascending lane order (R239, R243). -/
def execStl (tile : Nat) (f : MemF) (s : State) : Out :=
  .next (runThread tile (encMem 0x71 f) (fun tc s =>
    let (s, c) := checkLanes (localCheck tc f) tc.act s
    let s := s.each c.good fun (k, t, a) s =>
      s.localWrite t a (toLe (sizeBytes f.size) ((tc.lane k).getN f.dst (sizeRegs f.size)))
    localWait tc false (sizeBytes f.size) c.good (tc.commit (c.good.map (·.1)) c.bad (fun _ l => l) s)) s)

/-- ATOML: local atomic, performed at the bank in ascending lane order (R177, R186, R235). -/
def execAtoml (tile : Nat) (f : MemF) (s : State) : Out :=
  .next (runThread tile (encMem 0x72 f) (fun tc s =>
    let (s, c) := checkLanes (localCheck tc f) tc.act s
    let n := sizeBytes f.size
    let r := sizeRegs f.size
    let (s, olds) := c.good.foldl (fun (s, olds) (k, t, a) =>
      let l := tc.lane k
      let old := leNat (s.localRead t a n)
      let new := if f.subop == 9 then atomApply 9 n old (l.getN f.dst r) (l.getN f.srcb r)
        else atomApply f.subop n old (l.getN f.srcb r) 0
      (s.localWrite t a (toLe n new), (k, old) :: olds)) (s, ([] : List (Nat × Nat)))
    let v k := ((olds.find? (·.1 == k)).map (·.2)).getD 0
    localWait tc true n c.good (tc.commit (c.good.map (·.1)) c.bad (fun k l => l.setN f.dst r (v k)) s)) s)

/-! ## Store buffers (R163, R164, R182, R183) -/

/-- A line of a store buffer that one store fills. -/
def newLine (typ key ctx launch line : Nat) (cells : Mem) (o : Owner) : SbLine :=
  { typ := typ, key := key, ctxs := [ctx], launches := [launch], line := line, cells := cells, owners := [o] }

/-- Whether a store of a type combines with a buffered line (R182, R183). -/
def SbLine.takes (b : SbLine) (typ key line : Nat) : Bool :=
  b.typ == typ && b.key == key && b.line == line && (typ == 0 || typ == 1 || typ == 4)

/-- The first list followed by the members of the second that it lacks. -/
def joined {α : Type} [BEq α] (a b : List α) : List α := a ++ b.filter (!a.contains ·)

/-- Put cells of one line into a store buffer (R182, R183); a combined line stays a store of every launch and thread that wrote to
it (R54, R174). -/
def sbPut (sb : List SbLine) (n : SbLine) : List SbLine :=
  if sb.any (·.takes n.typ n.key n.line) then
    sb.map fun b => if b.takes n.typ n.key n.line then
      { b with cells := Mem.overlay none b.cells n.cells, owners := joined n.owners b.owners
               ctxs := joined n.ctxs b.ctxs, launches := joined n.launches b.launches }
      else b
  else sb ++ [n]

/-- Whether a data near cache line is that of a line of a partition. -/
def NcLine.holds (x : NcLine) (host : Bool) (part line : Nat) : Bool := x.host == host && x.part == part && x.line == line

/-- The list of near cache lines with the line of a partition first: it has been used (R885). -/
def ncUse (nc : List NcLine) (host : Bool) (part line : Nat) : List NcLine :=
  nc.filter (·.holds host part line) ++ nc.filter fun x => !x.holds host part line

/-- Write bytes into the data near cache line of a partition that holds the location (R163). -/
def ncStore (nc : List NcLine) (host : Bool) (part pa : Nat) (d : List Byte) : List NcLine :=
  (ncUse nc host part (pa / 128)).map fun x =>
    if x.holds host part (pa / 128) then
      { x with data := x.data.mapIdx fun i b => if pa % 128 ≤ i then d.getD (i - pa % 128) b else b }
    else x

/-- A store of bytes inside one line enters its tile's store buffer (R163, R182). -/
def State.bufferStore (s : State) (tile ctx launch : Nat) (typ pa : Nat) (o : Owner) (d : List Byte) : State :=
  let key := s.keySlot ctx
  s.updTile tile fun t =>
    { t with
      sb := sbPut t.sb (newLine typ key ctx launch (pa / 128) (cellsAt pa d) o)
      pcieDests := if typ == 1 || typ == 3 || typ == 4 then joined [(ctx, pa / 128 * 128)] t.pcieDests else t.pcieDests
      nc := if typ == 0 || typ == 1 then ncStore t.nc (typ == 1) key pa d else t.nc }

/-- How many new lines a run of stores needs in a store buffer. -/
def linesNeeded (sb : List SbLine) (key : Nat) (l : List (Nat × Nat)) : Nat :=
  (l.filter fun (typ, line) => !sb.any (·.takes typ key line)).eraseDups.length

/-- The lines of a store buffer (R182). -/
def sbLines : Nat := 64

/-- Lines of the host write buffer (R182). -/
def hwbLines : Nat := 256

/-- The VA of a lane (R234); outside 0 … 2^52 − 1 its translation fails. -/
def vaAddr (f : MemF) (gather : Bool) (l : Lane) : Int :=
  let base : Int := (l.getN f.srca 2 : Nat)
  if gather then
    let v := (l.gr f.srcb).toNat
    let idx : Int := if bitAt f.off 16 then signed v 32 else v
    base + idx * 2 ^ (bits f.off 17 3)
  else base + signed f.off 20

/-- DETAIL of a lane's fault (R78): writes, gather or scatter; for an uncorrectable error, the stack. -/
def accessDetail (a : Access) (e : XErr) : Nat :=
  match e with
  | .poison st => st
  | _ => b2n a.writes + 2 * b2n (a == .gather || a == .scatter)

/-- The checks of one lane's access at a VA: MISALIGNED, PAGE_FAULT, PERMISSION (R242); `tr` translates. -/
def vaCheck (tc : TC) (f : MemF) (acc : Access) (tr : State → Nat → Nat → State × Except XErr Leaf) (s : State) (k : Nat) :
    State × Except FaultInfo (Nat × Leaf × Nat) :=
  let n := sizeBytes f.size
  let a := vaAddr f (acc == .gather || acc == .scatter) (tc.lane k)
  let addr := wrap a 64
  if a % n != 0 then (s, .error (tc.laneInfo s k 0x03 addr 0))
  else if a < 0 || a ≥ 2 ^ 52 then (s, .error (tc.laneInfo s k 0x04 addr (accessDetail acc .pageFault)))
  else
    match tr s k addr with
    | (s, .error e) => (s, .error (tc.laneInfo s k e.code addr (accessDetail acc e)))
    | (s, .ok l) =>
      if allowed l acc n (l.addr addr) then (s, .ok (addr, l, l.addr addr))
      else (s, .error (tc.laneInfo s k (XErr.code .permission) addr (accessDetail acc .permission)))

/-- The translations of the lanes of a gather or scatter, one for each lane, as every later check uses them (R157, R238). -/
def translateLanes (tc : TC) (f : MemF) : List Nat → State → State × List (Nat × Except XErr Leaf)
  | [], s => (s, [])
  | k :: r, s =>
    let a := vaAddr f true (tc.lane k)
    if a < 0 || a ≥ 2 ^ 52 then translateLanes tc f r s
    else
      let (s, x) := s.translate (.tile tc.tile) tc.b.ctx a.toNat
      let (s, l) := translateLanes tc f r s
      (s, (k, x) :: l)

/-- A lane's translation names UNCACHED or REGISTER space, which bars the gather or scatter (R238). -/
def barring : Except XErr Leaf → Bool
  | .ok l => l.typ == 2 || l.typ == 3
  | .error _ => false

/-- The lanes of an access at VAs up to the first that faults, or none where R238 bars the whole instruction. -/
def vaLanes (acc : Access) (f : MemF) (tc : TC) (s : State) : State × Option (Checked (Nat × Leaf × Nat)) :=
  if acc == .gather || acc == .scatter then
    let (s, l) := translateLanes tc f tc.act s
    if l.any fun x => barring x.2 then (s, none)
    else
      let tr (s : State) (k _ : Nat) : State × Except XErr Leaf := (s, ((l.find? (·.1 == k)).map (·.2)).getD (.error .pageFault))
      let (s, c) := checkLanes (vaCheck tc f acc tr) tc.act s
      (s, some c)
  else
    let (s, c) := checkLanes (vaCheck tc f acc fun s _ a => s.translate (.tile tc.tile) tc.b.ctx a) tc.act s
    (s, some c)

/-- The fault of R238: PERMISSION naming the lowest active lane. -/
def gatherFault (tc : TC) (f : MemF) (acc : Access) (s : State) : State :=
  let k := tc.act.headD 0
  tc.laneFault k 0x05 (wrap (vaAddr f true (tc.lane k)) 64) (2 + b2n acc.writes) s

/-- The store buffer of the tile has room for the stores of checked lanes (R182). -/
def storeRoom (tc : TC) (s : State) (c : Checked (Nat × Leaf × Nat)) : Bool :=
  let sb := (s.tile tc.tile).sb
  sb.length + linesNeeded sb (s.keySlot tc.b.ctx) (c.good.map fun (_, _, l, pa) => (l.typ, pa / 128)) ≤ sbLines

/-- A store instruction finds the store buffer full (R182). -/
def storeFull (acc : Access) (f : MemF) (tc : TC) (s : State) : Bool :=
  match vaLanes acc f tc s with
  | (s, some c) => !storeRoom tc s c
  | (_, none) => false

/-- A store instruction: its lanes below the first faulting one enter the store buffer in ascending lane order (R239,
R243). While the buffer has no room the instruction waits (R182). A lane keeps the PCIe destinations it wrote, each the line stored to (R176; log 139). -/
def storeLanes (acc : Access) (f : MemF) (tc : TC) (s : State) : State :=
  match vaLanes acc f tc s with
  | (s, none) => gatherFault tc f acc s
  | (s1, some c) =>
    if !storeRoom tc s c then s.updTile tc.tile fun t => { t with issued := some tc.i }
    else
      let s := s1.each c.good fun (k, _, l, pa) s =>
        s.bufferStore tc.tile tc.b.ctx tc.b.launch l.typ pa ⟨tc.tile, tc.i.slot, k⟩
          (toLe (sizeBytes f.size) ((tc.lane k).getN f.dst (sizeRegs f.size)))
      let dest k : List Nat := match c.good.find? (·.1 == k) with
        | some (_, _, l, pa) => if l.typ == 1 || l.typ == 3 || l.typ == 4 then [pa / 128 * 128] else []
        | none => []
      tc.commit (c.good.map (·.1)) c.bad (fun k l => { l with pcieDests := (dest k ++ l.pcieDests).eraseDups }) s

/-- ST: store at a VA (R233–R237). -/
def execSt (tile : Nat) (f : MemF) (s : State) : Out :=
  .next (runThread tile (encMem 0x74 f) (storeLanes .store f) s)

/-- SCATTER: indexed store at a VA (R238, R239). -/
def execScatter (tile : Nat) (f : MemF) (s : State) : Out :=
  .next (runThread tile (encMem 0x77 f) (storeLanes .scatter f) s)

/-! ## Loads and atomics -/

/-- The buffered bytes of a tile's stores that a load of n bytes takes (R164). -/
def sbForward (sb : List SbLine) (typ key pa n : Nat) : Mem :=
  sb.foldl (fun m b => if b.typ == typ && b.key == key && b.line == pa / 128 then
    Mem.overlay none m (Mem.within b.cells pa (pa + n)) else m) []

/-- The stores of a tile to a line of host memory, and those to it in the host write buffer, leave ahead of a request for the line (R171). -/
def State.flushHost (s : State) (tile key line : Nat) : State :=
  let out (b : SbLine) : Bool := b.takes 1 key line
  let bs := s.mem.hwb.filter out ++ (s.tile tile).sb.filter out
  let s := s.updTile tile fun t => { t with sb := t.sb.filter fun b => !out b }
  let s := s.updMem fun m => { m with hwb := m.hwb.filter fun b => !out b }
  s.each bs fun b s => s.post (.write (b.key + 1) ((b.cells.head?.map (·.1)).getD 0) b.cells)

/-- A HOST line of a load that a line of the tile's near cache serves. -/
def State.ncServes (s : State) (r : LoadRec) (x : LaneLoad) : Bool :=
  (s.tile r.owner.tile).nc.any (·.holds (x.typ == 1) r.key (x.pa / 128))

/-- HOST lines of a load that are to be requested: one request for each distinct line that neither the near cache serves nor has been asked
for (R163, R181). -/
def State.hostWants (s : State) (r : LoadRec) : List Nat :=
  ((r.lanes.filter fun x => x.typ == 1 && x.atom.isNone && !s.ncServes r x && !r.asked.contains (x.pa / 128)).map (·.pa / 128)).eraseDups

/-- The AtomicOp that an atomic is to send next: that of its lowest lane not performed, if it is a HOST one (R236, R243). -/
def LoadRec.hostAtom (r : LoadRec) : Option (LaneLoad × AtomOp) :=
  match r.lanes with
  | [] => none
  | x :: _ =>
    match x.atom with
    | some a => if x.typ == 1 && !r.asked.contains x.lane then some (x, a) else none
    | none => none

/-- The AtomicOp of an atomic's first lane left is outstanding. -/
def LoadRec.atomOut (r : LoadRec) : Bool := match r.lanes with
  | x :: _ => x.typ == 1 && x.atom.isSome && r.asked.contains x.lane
  | [] => false

/-- A stream line that is read from HOST memory. -/
def PortLine.host (l : PortLine) : Bool := l.leaf.any (·.1.typ == 1)

/-- The confirming reads that lanes and TCU slots of a tile have sent (R176). -/
def Tile.fenceReads (t : Tile) : Nat :=
  ((t.groups.flatMap fun g => g.lanes.filterMap id).foldl (fun n l => match l.wait with
    | .fence _ _ _ (some _) => n + l.pcieDests.length
    | _ => n) 0)
    + t.tcus.foldl (fun n c => match c.state with
      | .waitFence _ _ (some _) => n + (t.pcieDests.filter (·.1 == c.ctx)).length
      | _ => n) 0

/-- The tags of outbound non-posted requests that are free, of 1,024: outstanding are the HOST reads and AtomicOps of loads, the HOST lines
of streams, and the confirming reads of fences (R610; log 158). -/
def State.tagsFree (s : State) : Nat :=
  1024 - s.tiles.foldl (fun n t => n
    + (t.loads.foldl (fun n r => n + if r.lanes.any (·.atom.isSome) then b2n r.atomOut else r.asked.length) 0)
    + (t.port.lines.filter fun l => l.host && l.sent).length + t.fenceReads) 0

/-- The reads of a load or atomic that go to HBM enter their queues, with the deadline of their work (R631). -/
def State.loadPut (s : State) (r : LoadRec) (launch : Nat) : State :=
  s.pcPut (some r.id) (s.launchDl launch) r.ctx
    (((r.lanes.filter fun x => s.hbmMiss x.typ r.key (x.pa / 128) && !(x.atom.isNone && s.ncServes r x)).map (·.pa / 128)).eraseDups)

/-- The requests of a load or atomic that can leave now leave over PCIe, as far as tags are free, after the tile's earlier stores to their
lines (R171, R181, R236, R610). -/
def State.hostAsk (s : State) (r : LoadRec) : State :=
  let t := r.owner.tile
  let upd (s : State) (l : List Nat) : State := s.updTile t fun u =>
    { u with loads := u.loads.map fun x => if x.id == r.id then { x with asked := x.asked ++ l, since := s.now } else x }
  match r.hostAtom with
  | some (x, a) =>
    if s.tagsFree == 0 then s else
    upd ((s.flushHost t r.key (x.pa / 128)).post (.atomic (r.key + 1) x.pa a.op a.operand a.compare r.id)) [x.lane]
  | none =>
    match (s.hostWants r).take s.tagsFree with
    | [] => s
    | ls => upd (s.each ls fun l s => (s.flushHost t r.key l).post (.read (r.key + 1) (l * 128) 128 r.id)) ls

/-- A load instruction at a VA, or an atomic: its lanes below the first faulting one become an outstanding load, which
LOAD_RETURN completes (R174, R243). With a faulting lane the issue group waits for that return, which raises it. -/
def loadLanes (acc : Access) (f : MemF) (tc : TC) (s : State) : State :=
  match vaLanes acc f tc s with
  | (s, none) => gatherFault tc f acc s
  | (s, some c) =>
    if c.good.isEmpty then tc.commit [] c.bad (fun _ l => l) s
    else
      let (id, s) := s.fresh
      let r := sizeRegs f.size
      let lanes := c.good.map fun (k, va, l, pa) =>
        let x := tc.lane k
        { lane := k, va := va, typ := l.typ, pa := pa
          atom := match acc with
            | .atomic op => some (if op == 9 then ⟨op, x.getN f.dst r, x.getN f.srcb r⟩ else ⟨op, x.getN f.srcb r, 0⟩)
            | _ => none : LaneLoad }
      let rec_ : LoadRec :=
        { id := id, owner := ⟨tc.tile, tc.i.slot, 0⟩, ctx := tc.b.ctx, key := s.keySlot tc.b.ctx, bytes := sizeBytes f.size, signed := f.signed
          dst := f.dst, alloc := f.subop == 0, lanes := lanes, fault := c.bad, insn := tc.i.word, pc := tc.i.pc
          gather := acc == .gather, since := s.now }
      let s := ((s.updTile tc.tile fun t => { t with loads := t.loads ++ [rec_] }).loadPut rec_ tc.b.launch).hostAsk rec_
      if c.bad.isSome then
        s.updGroup tc.tile tc.i.slot fun g => g.updLanes tc.i.mask fun _ l => { l with wait := .load id }
      else tc.step (fun _ l => l) s

/-- LD: load at a VA (R233–R237). -/
def execLd (tile : Nat) (f : MemF) (s : State) : Out :=
  .next (runThread tile (encMem 0x73 f) (loadLanes .load f) s)

/-- GATHER: indexed load at a VA (R238). -/
def execGather (tile : Nat) (f : MemF) (s : State) : Out :=
  .next (runThread tile (encMem 0x76 f) (loadLanes .gather f) s)

/-- ATOM: atomic at a VA, returning the old value (R177, R235, R236). -/
def execAtom (tile : Nat) (f : MemF) (s : State) : Out :=
  .next (runThread tile (encMem 0x75 f) (fun tc s => loadLanes (.atomic f.subop) { f with subop := 1 } tc s) s)

/-! ### Ways of the near caches (R166) -/

/-- The partitions that have blocks resident on a tile, ascending. -/
def State.residentParts (s : State) (t : Nat) : List Nat :=
  (List.range 32).filter fun p => (s.tile t).blocks.any fun b => (s.ctx b.ctx).part == p

/-- The ways of a near cache that a partition may allocate in: floor(16 / n) each, and the rest one each in ascending
partition order (R166). -/
def waysOf (parts : List Nat) (p : Nat) : List Nat :=
  let n := parts.length
  let i := parts.findIdx (· == p)
  if i ≥ n then [] else
  let base := 16 / n
  let extra := 16 % n
  let lo := i * base + min i extra
  (List.range (base + b2n (i < extra))).map (lo + ·)

/-- Allocate a line in a list of lines kept most recently used first: a free way of the partition, else that of its
least recently used line of the set (R166, R885). -/
def allocWay (used : List (Nat × Nat)) (ways : List Nat) : Option Nat :=
  match ways.find? fun w => used.all (·.1 != w) with
  | some w => some w
  | none => ((used.filter fun u => ways.contains u.1).getLast?).map (·.1)

/-- Fill a line of the data near cache (R163, R166, R885). -/
def State.ncFill (s : State) (tile : Nat) (host : Bool) (part line : Nat) (data : List Byte) : State :=
  let ways := waysOf (s.residentParts tile) part
  s.updTile tile fun t =>
    let nc := t.nc.filter fun x => !(x.host == host && x.line == line && x.part == part)
    let inSet := nc.filter fun x => x.line % 64 == line % 64
    match allocWay (inSet.map fun x => (x.way, 0)) ways with
    | none => { t with nc := nc }
    | some w =>
      { t with nc := ⟨host, line, part, w, data⟩ :: nc.filter fun x => !(x.line % 64 == line % 64 && x.way == w) }

/-- When the division of ways changes, lines in ways that their partition no longer has are invalidated (R166); the line
buffers of the TCU slots are numbered above the ways. -/
def State.rewayTile (s : State) (tile : Nat) : State :=
  let ps := s.residentParts tile
  s.updTile tile fun t =>
    { t with
      nc := t.nc.filter fun x => (waysOf ps x.part).contains x.way
      ic := t.ic.filter fun x => x.way ≥ 16 || (waysOf ps x.part).contains x.way }

/-- The whole line a load brings into the near cache: memory with the tile's own buffered stores over it (R164). -/
def lineData (sb : List SbLine) (typ key line : Nat) (base : List Byte) : List Byte :=
  let fwd := sbForward sb typ key (line * 128) 128
  base.mapIdx fun i b => (Mem.get none fwd (line * 128 + i)).getD b

/-- Where the old value of a HOST atomic is listed among the bytes that completions returned: it is a request of each lane (R236), at
(lane + 1) · 2^64 + address. -/
def atomKey (x : LaneLoad) : Nat := (x.lane + 1) * 2 ^ 64 + x.pa

/-- The lines that the lanes of one instruction have read so far: HOST or DEVICE, line number, bytes. -/
abbrev GotLines := List ((Bool × Nat) × List Byte)

/-- The line of a DEVICE or HOST lane: read once for the instruction, in the near cache, which then has it first, or beyond it (R163, R181,
R885); an error is the lane's fault: UNCORRECTABLE_MEMORY (R242), or PERMISSION where its request failed (R623). -/
def State.loadLine (s : State) (r : LoadRec) (x : LaneLoad) (host : Mem) (got : GotLines) : State × Except (Nat × Nat) (List Byte) :=
  let t := r.owner.tile
  let line := x.pa / 128
  let isHost := x.typ == 1
  match got.find? (·.1 == (isHost, line)) with
  | some g => (s, .ok g.2)
  | none =>
    match (s.tile t).nc.find? (·.holds isHost r.key line) with
    | some z => ((s.updTile t fun u => { u with nc := ncUse u.nc isHost r.key line }).act t r.ctx 7 1, .ok z.data)
    | none =>
      let fill (s : State) (d : List Byte) : State :=
        if r.alloc then (s.ncFill t isHost r.key line (lineData (s.tile t).sb x.typ r.key line d)).act t r.ctx 7 1 else s
      if isHost then
        match hostBytes host (line * 128) 128 with
        | none => (s, .error (0x05, 2 * b2n r.gather))
        | some d => (fill s d, .ok d)
      else
        let (m, d, p) := s.mem.read r.key (line * 128) 128
        let s := { s with mem := m }
        if p then (s, .error (0x06, m.poisonUnit r.key (line * 128) 128)) else (fill s d, .ok d)

/-- The bytes that a lane of a load reads, the youngest buffered bytes of its tile first (R164). -/
def State.laneReturn (s : State) (r : LoadRec) (x : LaneLoad) (host : Mem) (got : GotLines) :
    State × Except (Nat × Nat) (List Byte × GotLines) :=
  let n := r.bytes
  let line := x.pa / 128
  if x.typ == 2 then
    let (l, p) := s.mem.readHbm r.key x.pa n
    let fwd := sbForward (s.tile r.owner.tile).sb 2 r.key x.pa n
    (s, if p then .error (0x06, stackOf x.pa) else .ok (l.mapIdx fun i b => (Mem.get none fwd (x.pa + i)).getD b, got))
  else
    match s.loadLine r x host got with
    | (s, .error e) => (s, .error e)
    | (s, .ok d) =>
      (s, .ok (((lineData (s.tile r.owner.tile).sb x.typ r.key line d).drop (x.pa % 128)).take n, ((x.typ == 1, line), d) :: got))

/-- Return the lanes of a load in ascending order up to the first that faults (R243). -/
def State.lanesReturn (s : State) (r : LoadRec) (host : Mem) (got : GotLines) :
    List LaneLoad → State × List (Nat × Nat) × Option (LaneLoad × Nat × Nat)
  | [] => (s, [], none)
  | x :: rest =>
    match s.laneReturn r x host got with
    | (s, .error (code, det)) => (s, [], some (x, code, det))
    | (s, .ok (l, got)) =>
      let (s, vs, bad) := s.lanesReturn r host got rest
      (s, (x.lane, loadValue r.signed l) :: vs, bad)

/-- A DEVICE lane of an atomic is performed at the device cache slice, after the tile's earlier buffered stores to the line (R177); `counts`: it
is the instruction's first at the line (R181). -/
def State.atomLane (s : State) (r : LoadRec) (x : LaneLoad) (a : AtomOp) (counts : Bool) : State × Except (Nat × Nat) (List Byte) :=
  let t := r.owner.tile
  let line := x.pa / 128
  let mine := (s.tile t).sb.filter (·.takes 0 r.key line)
  let s := s.updMem fun m => mine.foldl (fun m b => m.write r.key line b.cells) m
  let s := s.updTile t fun u =>
    { u with sb := u.sb.filter (!·.takes 0 r.key line), nc := u.nc.filter fun z => !z.holds false r.key line }
  let (m, l, p) := s.mem.read r.key x.pa r.bytes counts
  if p then ({ s with mem := m }, .error (0x06, m.poisonUnit r.key x.pa r.bytes))
  else
    let new := atomApply a.op r.bytes (leNat l) a.operand a.compare
    ({ s with mem := m.write r.key line (cellsAt x.pa (toLe r.bytes new)) false }, .ok l)

/-- How far an atomic has come: the lanes left, what the others returned, and the fault of the first of those left. -/
structure AtomRun where
  s : State
  rest : List LaneLoad
  vals : List (Nat × Nat)
  bad : Option (LaneLoad × Nat × Nat)

/-- Perform the lanes of an atomic in ascending order, up to a HOST one whose AtomicOp has not completed, or to the first that faults; with
the link down, or where the request `fails`, the HOST one faults (R236, R243, R623, R624). A later load of a HOST line is of the new value
(R171). -/
def State.atomRun (s : State) (r : LoadRec) (host : Mem) (fails : Bool) (lines : List Nat) : List LaneLoad → AtomRun
  | [] => ⟨s, [], [], none⟩
  | x :: rest =>
    if x.typ == 1 then
      match if r.asked.contains x.lane then hostBytes host (atomKey x) r.bytes else none with
      | some l =>
        let s := s.updTile r.owner.tile fun u => { u with nc := u.nc.filter fun z => !z.holds true r.key (x.pa / 128) }
        let a := s.atomRun r host fails lines rest
        { a with vals := (x.lane, leNat l) :: a.vals }
      | none => ⟨s, x :: rest, [], if fails || !s.hst.up then some (x, 0x05, 1) else none⟩
    else
      match s.atomLane r x (x.atom.getD default) (!lines.contains (x.pa / 128)) with
      | (s, .error (code, det)) => ⟨s, x :: rest, [], some (x, code, det)⟩
      | (s, .ok l) =>
        let a := s.atomRun r host fails (x.pa / 128 :: lines) rest
        { a with vals := (x.lane, leNat l) :: a.vals }

/-- The fault of a lane whose load could not complete (R245): a thread's or a TCU slot's. -/
def State.loadFault (s : State) (r : LoadRec) (x : LaneLoad) (code det : Nat) : FaultInfo :=
  let tcu := r.owner.slot ≥ 64
  { code := code, ctx := r.ctx, tile := r.owner.tile, unit := b2n tcu
    lane := if tcu then 0xFF else x.lane, group := if tcu then 0xFF else r.owner.slot
    pc := r.pc, addr := x.va, insn := r.insn, detail := det, valid := if tcu then 0x0B else 0x0F
    tag := match (s.tile r.owner.tile).group? r.owner.slot with
      | some g => match (s.tile r.owner.tile).block? g.bslot with
        | some b => s.launchTag b.launch
        | none => bgTag
      | none => s.launchTag ((s.tile r.owner.tile).tcu (r.owner.slot - 64)).launch }

/-- Write a TCU register by its field value (R294). -/
def Tcu.setReg (t : Tcu) (r : Nat) (v : Word) : Tcu :=
  if r < 16 then
    if t.trap then { t with tr := t.tr.set r v }
    else { t with wins := t.wins.modify t.cwp (·.set r v) }
  else { t with gl := t.gl.set (r - 16) v }

/-- A register of a TCU slot by its field value (R294). -/
def Tcu.reg (t : Tcu) (r : Nat) : Word :=
  if r < 16 then (if t.trap then t.tr.getD r 0 else (t.wins.getD t.cwp []).getD r 0)
  else t.gl.getD (r - 16) 0

/-- Stop what issued a faulting load. -/
def State.stopOwner (s : State) (r : LoadRec) : State :=
  if r.owner.slot ≥ 64 then s.updTcu r.owner.tile (r.owner.slot - 64) fun t => { t with state := .halted }
  else s.updGroup r.owner.tile r.owner.slot fun g =>
    g.updLanes (r.lanes.map (·.lane) ++ (List.range g.width).filter fun k =>
      (g.lane? k).any fun l => l.wait == .load r.id) fun _ l => { l with wait := .faulted }

/-- Two outstanding loads of one owner touch a common line (R171). -/
def LoadRec.meets (a b : LoadRec) : Bool :=
  a.owner == b.owner && a.lanes.any fun x => b.lanes.any fun y => x.pa / 128 == y.pa / 128

/-- An outstanding load is over: destinations of the lanes that returned are written, and the fault of the first that did not, or of the
instruction, is raised (R241–R245). -/
def State.loadEnd (s : State) (r : LoadRec) (vs : List (Nat × Nat)) (bad : Option (LaneLoad × Nat × Nat)) : State :=
  let t := r.owner.tile
  let s := s.updTile t fun u => { u with loads := u.loads.filter (·.id != r.id) }
  let s :=
    if r.owner.slot ≥ 64 then
      s.updTcu t (r.owner.slot - 64) fun c =>
        let c := vs.foldl (fun c v => c.setReg r.dst (BitVec.ofNat 32 v.2)) c
        if c.state == .waitLoad r.id then { c with state := .run } else c
    else s.updGroup t r.owner.slot fun g => g.updLanes (vs.map (·.1)) fun k l =>
      l.setN r.dst (if r.bytes ≤ 4 then 1 else r.bytes / 4) (((vs.find? (·.1 == k)).map (·.2)).getD 0)
  match bad with
  | some (x, code, det) => (s.raise (s.loadFault r x code det)).stopOwner r
  | none =>
    match r.fault with
    | some f => (s.raise f).stopOwner r
    | none => s

/-- An outstanding load or gather completes: its lanes read in ascending order (R241–R245). -/
def State.loadDone (s : State) (r : LoadRec) (host : Mem) : State :=
  let (s, vs, bad) := s.lanesReturn r host [] r.lanes
  s.loadEnd r vs bad

/-- An outstanding atomic goes on: its lanes are performed in ascending order up to one whose AtomicOp is still to complete, and which then
leaves; it completes after its last lane, or with a fault (R236, R241–R245). -/
def State.atomGo (s : State) (r : LoadRec) (host : Mem) (fails : Bool) : State :=
  let a := s.atomRun r host fails [] r.lanes
  if a.rest.isEmpty || a.bad.isSome then a.s.loadEnd r (r.vals ++ a.vals) a.bad
  else
    let r' := { r with lanes := a.rest, vals := r.vals ++ a.vals }
    (a.s.updTile r.owner.tile fun u => { u with loads := u.loads.map fun x => if x.id == r.id then r' else x }).hostAsk r'

/-- The outstanding load of a number. -/
def State.load? (s : State) (id : Nat) : Option LoadRec := (s.tiles.flatMap (·.loads)).find? (·.id == id)

/-- An outstanding load is an atomic. -/
def LoadRec.isAtomic (r : LoadRec) : Bool := r.lanes.any (·.atom.isSome)

/-- HOST lanes of a load that wait for a completion. -/
def State.hostLanes (s : State) (r : LoadRec) : List LaneLoad := r.lanes.filter fun x => x.typ == 1 && !(x.atom.isNone && s.ncServes r x)

/-- HOST requests of a load that have no completion with data among the bytes that came. -/
def State.hostMissing (s : State) (r : LoadRec) (host : Mem) : Bool :=
  (s.hostLanes r).any fun x =>
    if x.atom.isSome then (hostBytes host (atomKey x) r.bytes).isNone else (hostBytes host (x.pa / 128 * 128) 128).isNone

/-- The link is down: each HOST request of a load is a completion failure (R624). -/
def State.loadLost (s : State) (r : LoadRec) : State :=
  if r.isAtomic then (s.cplFailed 1).atomGo r [] true
  else (s.cplFailed ((s.hostLanes r).map (·.pa / 128)).eraseDups.length).loadDone r []

/-- LOAD_RETURN: an outstanding load, gather or atomic completes (R174, R241–R245). An earlier load of the same thread to the same
line returns first (R171); its reads wait for a row that is being copied (R643), and are served by their pseudo-channels in order (R631); HOST bytes that have not come are awaited, a HOST line that has left the near cache since is asked for, and with
the link down requests fail (R624). -/
def execLoadReturn (id : Nat) (host : List (Nat × Byte)) (s : State) : Out :=
  .next (if !s.clocked then s else
    match s.load? id with
    | none => s
    | some r =>
      let before := (s.tile r.owner.tile).loads.takeWhile (·.id != id)
      if before.any (·.meets r) || s.pcHeld (some id) then s else
      let s := s.pcTake (some id)
      if !s.hst.up && !(s.hostLanes r).isEmpty then s.loadLost r
      else if r.isAtomic then s.atomGo r host false
      else if !(s.hostWants r).isEmpty then s.hostAsk r
      else if s.hostMissing r host then s
      else s.loadDone r host)

/-! ## Draining (R182, R622) -/

/-- The context's function for its outbound requests (R621). -/
def SbLine.fn (b : SbLine) : Nat := b.key + 1

/-- A store buffer line of a tile drains to its point, if the host write buffer has room where it is bound for it. -/
def State.drainLine (s : State) (t : Nat) (b : SbLine) (i : Nat) : State :=
  let drop (s : State) : State := s.updTile t fun u => { u with sb := u.sb.eraseIdx i }
  match b.typ with
  | 0 => (drop s).updMem fun m => m.write b.key b.line b.cells
  | 2 => (drop s).updMem fun m => m.writeHbm b.key b.line b.cells
  | 3 => (drop s).post (.write b.fn ((b.cells.head?.map (·.1)).getD 0) b.cells)
  | _ =>
    if s.mem.hwb.any (·.takes b.typ b.key b.line) || s.mem.hwb.length < hwbLines then
      (drop s).updMem fun m => { m with hwb := sbPut m.hwb b }
    else s

/-- STORE_BUFFER_DRAIN: a line of a tile's store buffer drains to the device cache, HBM or the host write buffer, or a line
of the host write buffer leaves as one write over PCIe (R172, R182, R183, R622). UNCACHED and REGISTER stores keep their
order. -/
def execStoreBufferDrain (tile : Option Nat) (index : Nat) (s : State) : Out :=
  .next (if !s.clocked then s else
    match tile with
    | none =>
      match s.mem.hwb[index]? with
      | none => s
      | some b =>
        (s.updMem fun m => { m with hwb := m.hwb.eraseIdx index }).post
          (.write b.fn ((b.cells.head?.map (·.1)).getD 0) b.cells)
    | some t =>
      match (s.tile t).sb[index]? with
      | none => s
      | some b =>
        let earlier := ((s.tile t).sb.take index).any fun x => x.typ == b.typ && (b.typ == 2 || b.typ == 3)
        if earlier then s else s.drainLine t b index)

/-! ## Fences (R174–R176, R240) -/

/-- FENCE: the active lanes wait until FENCE_RETIRE; it acts when at least one lane is active (R214, R240). -/
def execFence (tile : Nat) (f : SpcF) (s : State) : Out :=
  .next (runThread tile (encSpc 0x78 f) (fun tc s =>
    tc.step (fun _ l => { l with wait := .fence (bits f.spec 0 2) (bitAt f.spec 2) (encSpc 0x78 f) none }) s) s)

/-- A fence that waits, of lanes of one issue group or of a TCU slot: its scope and word, when it sent its confirming reads, the PCIe
destinations to confirm, and what a fault of it names. -/
structure FenceW where
  tile : Nat
  slot : Nat
  tcu : Bool
  lanes : List Nat
  scope : Nat
  insn : Nat
  asked : Option Nat
  ctx : Nat
  launch : Nat
  pc : Nat
  dests : List Nat

/-- What a lane waits for in a fence: scope, word, when it asked. -/
def Lane.fence? (l : Lane) : Option (Nat × Nat × Option Nat) :=
  match l.wait with
  | .fence sc _ i a => some (sc, i, a)
  | _ => none

/-- The lanes of a group that wait in a fence. -/
def Group.fenced (g : Group) : List (Nat × Nat × Nat × Option Nat) :=
  (List.range g.width).filterMap fun k => ((g.lane? k).bind Lane.fence?).map fun x => (k, x)

/-- The fence of a group that waits, of its lowest lane and the lanes that wait with it, or of a TCU slot, whose fence is the tile's for its
context (R240, R307; log 140). -/
def State.fence? (s : State) (tile : Nat) (tcu : Bool) (slot : Nat) : Option FenceW :=
  let t := s.tile tile
  if tcu then
    let c := t.tcu slot
    match c.state with
    | .waitFence scope insn asked =>
      some { tile := tile, slot := slot, tcu := true, lanes := [], scope := scope, insn := insn, asked := asked, ctx := c.ctx, launch := c.launch
             pc := c.pc - 4, dests := (t.pcieDests.filter (·.1 == c.ctx)).map (·.2) }
    | _ => none
  else
    match t.group? slot with
    | none => none
    | some g =>
      match g.fenced, t.block? g.bslot with
      | (k, sc, i, a) :: rest, some b =>
        let ls := k :: (rest.filter (·.2 == (sc, i, a))).map (·.1)
        some { tile := tile, slot := slot, tcu := false, lanes := ls, scope := sc, insn := i, asked := a, ctx := b.ctx, launch := b.launch
               pc := ((g.lane? k).map (·.pc)).getD 0 - 8
               dests := (ls.flatMap fun k => ((g.lane? k).map (·.pcieDests)).getD []).eraseDups }
      | _, _ => none

/-- An access by an owner for contexts is one that a fence orders. -/
def FenceW.orders (f : FenceW) (o : Owner) (ctxs : List Nat) : Bool :=
  o.tile == f.tile && if f.tcu then ctxs.contains f.ctx else o.slot == f.slot && f.lanes.contains o.lane

/-- Whether the earlier accesses that a fence orders have reached the point of its scope, PCIe completions apart (R173, R174). -/
def State.fenceReady (s : State) (f : FenceW) : Bool :=
  let held (b : SbLine) : Bool := (b.owners.any fun o => f.orders o b.ctxs) && (b.typ != 0 || f.scope ≥ 2)
  !((s.tile f.tile).loads.any fun r => r.lanes.any fun x => f.orders { r.owner with lane := x.lane } [r.ctx])
    && !(s.tile f.tile).sb.any held && !s.mem.hwb.any held

/-- A DEVICE or SYSTEM fence invalidates the partition's data near cache lines on the tile (R165). -/
def State.ncInvalidate (s : State) (tile part : Nat) : State :=
  s.updTile tile fun t => { t with nc := t.nc.filter (·.part != part) }

/-- Update what waits in a fence: its lanes, or its slot. -/
def State.fenceUpd (s : State) (f : FenceW) (lane : Lane → Lane) (slot : Tcu → Tcu) : State :=
  if f.tcu then s.updTcu f.tile f.slot slot else s.updGroup f.tile f.slot fun g => g.updLanes f.lanes fun _ l => lane l

/-- The confirming reads of a fence leave: a zero-length read to each PCIe destination (R173, R176). -/
def State.fenceAsk (s : State) (f : FenceW) : State :=
  (s.each f.dests fun d s => s.post (.zeroRead ((s.ctx f.ctx).part + 1) d)).fenceUpd f
    (fun l => { l with wait := .fence f.scope (f.scope == 1 && bitAt f.insn 2) f.insn (some s.now) })
    fun c => { c with state := .waitFence f.scope f.insn (some s.now) }

/-- A fence retires: a DEVICE or SYSTEM one has invalidated (R165), and a SYSTEM one has confirmed every destination written since the SYSTEM
fence before it (R174, R176). -/
def State.fenceEnd (s : State) (f : FenceW) : State :=
  let s := if f.scope ≥ 2 then s.ncInvalidate f.tile (s.ctx f.ctx).part else s
  let s := if f.scope == 3 && f.tcu then s.updTile f.tile fun t => { t with pcieDests := t.pcieDests.filter (·.1 != f.ctx) } else s
  s.fenceUpd f (fun l => { l with wait := .run, pcieDests := if f.scope == 3 then [] else l.pcieDests }) fun c => { c with state := .run }

/-- A confirming read of a fence fails: the fence faults with PERMISSION at the destination (R623, R624). -/
def State.fenceFault (s : State) (f : FenceW) (dest : Nat) : State :=
  let i : FaultInfo :=
    { code := 0x05, ctx := f.ctx, tile := f.tile, unit := b2n f.tcu, pc := f.pc, addr := dest, insn := f.insn
      tag := s.launchTag f.launch, valid := 0x0B }
  if f.tcu then (s.raise i).updTcu f.tile f.slot fun c => { c with state := .halted }
  else (s.raise { i with lane := f.lanes.headD 0, group := f.slot, valid := 0x0F }).stopLanes f.tile f.slot f.lanes

/-- The link is down: every confirming read of a fence is a completion failure (R624). -/
def State.fenceLost (s : State) (f : FenceW) : State := (s.cplFailed f.dests.length).fenceFault f (f.dests.headD 0)

/-- FENCE_RETIRE: a group's or a TCU slot's fence goes on once its earlier accesses are at their point: with PCIe destinations to confirm it
sends its reads when tags are free for them (R610), and once these have completed, or with nothing to confirm, it retires (R173–R176, R307). -/
def execFenceRetire (tile : Nat) (tcu : Bool) (slot : Nat) (s : State) : Out :=
  .next (if !s.clocked then s else
    match s.fence? tile tcu slot with
    | none => s
    | some f =>
      if !s.live f.ctx || !s.fenceReady f then s
      else if f.dests.isEmpty then s.fenceEnd f
      else if !s.hst.up then s.fenceLost f
      else if f.asked.isNone then (if f.dests.length > s.tagsFree && s.tagsFree < 1024 then s else s.fenceAsk f)
      else s.fenceEnd f)

end Sys2Proof.Machine
end

