-- ==== Sys2Proof/Machine/ThreadCtl.lean ====
section
/-! DEFINITION. Meanings of the branches and the barriers of threads (R247, R248, R250–R253). -/
namespace Sys2Proof.Machine

/-- The branch target PC + 8 × DISP (R247). -/
def branchTarget (pc : Nat) (disp : Word) : Nat := wrap ((pc : Int) + 8 * disp.toInt) 64

/-- Active lanes go to their targets, the others move on. -/
def TC.branch (tc : TC) (target : Nat → Nat) (f : Lane → Lane) (s : State) : State :=
  s.updGroup tc.tile tc.i.slot fun g =>
    (g.updLanes (tc.i.mask.filter fun k => !tc.act.contains k) fun _ l => { l with pc := l.pc + 8 }).updLanes tc.act
      fun k l => { f l with pc := target k }

/-- BRA: branch of the active lanes to PC + 8 × DISP (R247). -/
def execBra (tile : Nat) (f : BrnF) (s : State) : Out :=
  .next (runThread tile (encBrn 0x80 f) (fun tc s => tc.branch (fun _ => branchTarget tc.i.pc f.disp) id s) s)

/-- A branch to the SRCA pair of each active lane; a target that is no multiple of 8 is MISALIGNED (R248). -/
def branchPair (f : BrnF) (tc : TC) (s : State) : State :=
  let tgt k := (tc.lane k).getN f.srca 2
  match tc.act.find? fun k => tgt k % 8 != 0 with
  | some k => tc.laneFault k 0x03 (tgt k) 0 s
  | none => tc.branch tgt id s

/-- BRX: branch to the target in the SRCA pair (R248). -/
def execBrx (tile : Nat) (f : BrnF) (s : State) : Out := .next (runThread tile (encBrn 0x81 f) (branchPair f) s)

/-- RET: return to the address in the SRCA pair (R248). -/
def execRet (tile : Nat) (f : BrnF) (s : State) : Out := .next (runThread tile (encBrn 0x83 f) (branchPair f) s)

/-- CALL: the return address into a pair, then the branch (R247). -/
def execCall (tile : Nat) (f : BrnF) (s : State) : Out :=
  .next (runThread tile (encBrn 0x82 f) (fun tc s =>
    tc.branch (fun _ => branchTarget tc.i.pc f.disp) (fun l => l.setN f.dst 2 (tc.i.pc + 8)) s) s)

/-- A thread that has ended (R249). -/
def Lane.ended (l : Lane) : Bool := l.wait == .exited

/-- Every thread of a group has ended. -/
def Group.done (g : Group) : Bool := g.lanes.all fun o => match o with
  | some l => l.ended
  | none => true

/-! ## Barriers (R250–R253) -/

/-- BAR: the active lanes arrive; a CLUSTER barrier outside a cluster is a BLOCK barrier (R250, R252). -/
def execBar (tile : Nat) (f : SpcF) (s : State) : Out :=
  .next (runThread tile (encSpc 0x85 f) (fun tc s =>
    let scope := bits f.spec 0 2
    let scope := if scope == 2 && tc.b.cluster.isNone then 1 else scope
    tc.step (fun _ l => { l with wait := .barrier scope (bits f.spec 2 3) }) s) s)

/-- The groups in the scope of a barrier of a block: (tile, group). Scope 0 names a group by its slot in place of the
block slot. -/
def State.barrierScope (s : State) (tile bslot scope : Nat) : List (Nat × Group) :=
  match scope with
  | 0 => ((s.tile tile).groups.filter (·.slot == bslot)).map fun g => (tile, g)
  | 1 => ((s.tile tile).groups.filter (·.bslot == bslot)).map fun g => (tile, g)
  | _ =>
    match (s.tile tile).block? bslot with
    | none => []
    | some b =>
      (List.range 4).flatMap fun r => match s.liveMember tile b r with
        | some (t, x) => ((s.tile t).groups.filter (·.bslot == x.bslot)).map fun g => (t, g)
        | none => []

/-- BARRIER_COMPLETE: when every live, non-exited thread of the scope has arrived at the barrier ID, all go on (R251).
`bslot` is the block slot, or for scope GROUP the group slot. -/
def execBarrierComplete (tile bslot scope id : Nat) (s : State) : Out :=
  .next (if !s.clocked then s else
    let gs := s.barrierScope tile bslot scope
    let at_ (l : Lane) : Bool := l.wait == .barrier scope id
    let ok := gs.all fun (_, g) => g.lanes.all fun o => match o with
      | some l => at_ l || l.ended
      | none => true
    if gs.isEmpty || !ok then s
    else s.each gs fun (t, g) s => s.updGroup t g.slot fun g =>
      { g with lanes := g.lanes.map (Option.map fun l => if at_ l then { l with wait := .run } else l) })

end Sys2Proof.Machine
end

