-- ==== Sys2Proof/Machine/Place.lean ====
section
/-! DEFINITION. The placer of a tile (R104, R116–R121, R124) and the retirement of blocks (R121, R128, R314). -/
namespace Sys2Proof.Machine

/-- A number rounded up to a multiple. -/
def roundUp (n m : Nat) : Nat := (n + m - 1) / m * m

/-- Groups of a block (R107). -/
def KHdr.groups (h : KHdr) (width : Nat) : Nat := (h.threads + width - 1) / width

/-- 256-register units of a block (R116). -/
def KHdr.regUnits (h : KHdr) (width : Nat) : Nat := roundUp (h.groups width * width * h.regs) 256 / 256

/-- Local memory of a block (R116). -/
def KHdr.local_ (h : KHdr) : Nat := roundUp h.loc 256

/-- Group slots of a block (R104). -/
def KHdr.gslots (h : KHdr) (width : Nat) : Nat := h.groups width * (if width == 64 then 2 else 1)

/-- Occupancy of an otherwise empty tile (R122). -/
def KHdr.occupancy (h : KHdr) (width : Nat) : Nat :=
  let r := 65536 / (256 * h.regUnits width)
  let g := 64 / h.gslots width
  let m := min (min r g) 16
  if h.local_ == 0 then m else min m (389120 / h.local_)

/-- Bytes of local memory for blocks (R104). -/
def localBytes : Nat := 0x5F000

def Tile.usedUnits (t : Tile) : Nat := (t.blocks.map (·.regUnits)).foldl (· + ·) 0
def Group.slots (g : Group) : List Nat := g.slot :: g.slot2.toList
def Tile.usedSlots (t : Tile) : List Nat := t.groups.flatMap Group.slots
def Tile.freeSlots (t : Tile) : List Nat := (List.range 64).filter fun i => !t.usedSlots.contains i
def Tile.freeBslots (t : Tile) : List Nat := (List.range 16).filter fun i => t.blocks.all (·.bslot != i)

/-- The lowest base of a free contiguous range of local memory (R117). -/
def Tile.localFit (t : Tile) (size : Nat) : Option Nat :=
  let used := (t.blocks.filter (·.size != 0)).map fun b => (b.base, b.base + b.size)
  let free (b : Nat) : Bool := b + size ≤ localBytes && used.all fun (lo, hi) => b + size ≤ lo || hi ≤ b
  if size == 0 then some 0 else
  ((0 :: used.map (·.2)).filter free).foldl (fun m b => match m with
    | none => some b
    | some x => some (min x b)) none

/-- The largest free contiguous range, in 256-byte units (R145). -/
def Tile.localLargest (t : Tile) : Nat :=
  let used := (t.blocks.filter (·.size != 0)).map fun b => (b.base, b.base + b.size)
  let starts := 0 :: used.map (·.2)
  let room (b : Nat) : Nat := (used.filter (·.1 ≥ b)).foldl (fun m u => min m u.1) localBytes - b
  (starts.map room).foldl max 0 / 256

/-- Largest free local range once a block of `size` bytes has its place (R525). -/
def Tile.localAfter (t : Tile) (size : Nat) : Nat :=
  match t.localFit size with
  | none => 0
  | some base =>
    let b : Block := { (default : Block) with base := base, size := size }
    { t with blocks := b :: t.blocks }.localLargest

/-- The tile dispatch reserves that a placement must leave on a tile: group slots, registers and local memory in units of 256, over
the partitions but `own` that have a context whose tile mask names the tile (R525). -/
def State.reserve (s : State) (tile : Nat) (own : Option Nat) : Nat × Nat × Nat :=
  let ps := (List.range 32).filter fun p =>
    own != some p && (s.cm.ctxs.any fun c => c.state != .free && c.part == p && bitAt c.tiles tile)
  ps.foldl (fun r p =>
    let x := s.srt.parts.getD p {}
    (r.1 + x.dispSlots, r.2.1 + x.dispRegs, r.2.2 + x.dispLocal)) (0, 0, 0)

/-- Which of the four needs a block lacks on a tile: registers, local memory, group slots, block slots; for a block of a TCU the
dispatch reserves must stay free, for a dispatched one those of the other partitions (R116, R120, R525). -/
def State.lacks (s : State) (tile : Nat) (h : KHdr) (width : Nat) (own : Option Nat) : Option Nat :=
  let t := s.tile tile
  let r := s.reserve tile own
  if t.usedUnits + h.regUnits width + r.2.1 > 256 then some 0
  else if (t.localFit h.local_).isNone || t.localAfter h.local_ < r.2.2 then some 1
  else if t.freeSlots.length < h.gslots width + r.1 then some 2
  else if t.freeBslots.isEmpty then some 3
  else none

/-- The 32 bits of a record at a word. -/
def recWord (l : List Byte) (i : Nat) : Word := BitVec.ofNat 32 (leNat ((l.drop (4 * i)).take 4))

/-- The lanes of a dispatched block: lane i holds the i-th hit record in gr0–gr7 (R520). -/
def hitLanes (h : KHdr) (width : Nat) (hits : List (List Byte)) : List (Option Lane) :=
  (List.range width).map fun k => (hits[k]?).map fun r =>
    { pc := h.entry, regs := (List.range 8).map (recWord r) ++ List.replicate (h.regs - 8) 0 }

/-- The lanes of a group at placement: registers and predicates 0, the program counter at ENTRY (R107, R150, R202). -/
def newLanes (h : KHdr) (width idx : Nat) : List (Option Lane) :=
  (List.range width).map fun k =>
    if idx * width + k < h.threads then some { pc := h.entry, regs := List.replicate h.regs 0 } else none

/-- The groups of a block on free slots: each takes the lowest free slot, a group of width 64 the lowest two (log 14). -/
def newGroups (h : KHdr) (width bslot now : Nat) : Nat → List Nat → List Group
  | 0, _ => []
  | n + 1, free =>
    let idx := h.groups width - (n + 1)
    match width == 64, free with
    | true, a :: b :: r =>
      { slot := a, slot2 := some b, bslot := bslot, idx := idx, width := width, lanes := newLanes h width idx, since := now }
        :: newGroups h width bslot now n r
    | false, a :: r =>
      { slot := a, slot2 := none, bslot := bslot, idx := idx, width := width, lanes := newLanes h width idx, since := now }
        :: newGroups h width bslot now n r
    | _, _ => []

/-- Place a block on a tile where it fits: its allocation is zeroed, its groups are resident, its launch has arrived
(R113, R117, R150, R255). -/
def State.placeBlock (s : State) (tile : Nat) (w : WaitBlock) (width : Nat) (tcu : Option Nat) (cluster : Option Nat) : State :=
  let t := s.tile tile
  let bslot := t.freeBslots.headD 0
  let base := (t.localFit w.hdr.local_).getD 0
  let size := w.hdr.local_
  let rank := (tile / 12 % 2) * 2 + tile % 12 % 2
  let b : Block :=
    { bslot := bslot, ctx := w.ctx, launch := w.launch, tcu := tcu, hdr := w.hdr, base := base, size := size
      regUnits := w.hdr.regUnits width, blockId := w.blockId, cluster := cluster, rank := rank, started := w.start }
  let lanes (g : Group) : Group := match w.disp with
    | some d => { g with lanes := hitLanes w.hdr width (d.hits.map (·.2)) }
    | none => g
  let s := s.updTile tile fun t =>
    { t with
      blocks := t.blocks ++ [b]
      groups := t.groups ++ (newGroups w.hdr width bslot t.nextOrder (w.hdr.groups width) t.freeSlots).map lanes
      localMem := Mem.drop t.localMem base (base + size)
      arrived := if t.arrived.any (·.launch == w.launch) then t.arrived else t.arrived ++ [⟨w.launch, t.nextOrder, 63⟩]
      nextOrder := t.nextOrder + 1
      cnt := { t.cnt with blocksPlaced := t.cnt.blocksPlaced + 1 } }
  s.rewayTile tile

/-- The width of a launch's groups (R107). -/
def State.launchWidth (s : State) (id : Nat) : Nat := ((s.launch? id).map (·.width)).getD 8

/-- The deadline of a waiting block: that of its launch, or of the packet it was dispatched for (R118, R522). -/
def State.waitDl (s : State) (w : WaitBlock) : Option Nat :=
  match w.disp with
  | some d => d.deadline
  | none => s.launchDl w.launch

/-- The partition whose dispatch reserve a waiting block may use (R525). -/
def State.waitOwn (s : State) (w : WaitBlock) : Option Nat := if w.disp.isSome then some (s.ctx w.ctx).part else none

/-- Slots are free again: their rays' hits have been delivered (R273, R495). -/
def State.freeSlots (s : State) (unit : Nat) (rays : List Nat) : State :=
  let u := s.srt.units.getD unit {}
  let used := u.slots.filter fun x => rays.contains x.ray
  let s := { s with srt := { s.srt with units := s.srt.units.modify unit fun u =>
    { u with slots := u.slots.filter fun x => !rays.contains x.ray } } }
  s.each used fun x s => s.updGroup x.tile x.gslot fun g =>
    if g.since != x.gid then g
    else
      match x.event with
      | none => { g with dispRays := g.dispRays - 1 }
      | some e => { g with rays := g.rays.map fun r => if r.1 == e then (r.1, r.2 - 1) else r }

/-- Whether new work of a context is held, by the drain in progress (R93) or by a power-down (R735). -/
def State.held (s : State) (c : Nat) : Bool :=
  s.boot.powerDown != 0 || match s.cm.drain with
  | none => false
  | some d => d.all || ((s.ctx c).state != .free && d.parts.contains (s.ctx c).part)

/-- The waiting blocks of a tile in queue order: deadline, then arrival (R118). -/
def State.queueOrder (s : State) (t : Nat) : List WaitBlock :=
  let ws := (s.tile t).waiting
  ws.foldl (fun out w =>
    (out.takeWhile fun x => !dlLt (s.waitDl w) (s.waitDl x)) ++ [w]
      ++ out.dropWhile fun x => !dlLt (s.waitDl w) (s.waitDl x)) []

/-- The tiles of the quad of a tile, by rank (R123). -/
def quadOf (t : Nat) : List Nat := (List.range 4).map (rankTile t)

/-- A list of members with another in its place by order of presentation. -/
def insertMember (out : List (Nat × WaitBlock)) (c : Nat × WaitBlock) : List (Nat × WaitBlock) :=
  (out.takeWhile (·.2.arrival ≤ c.2.arrival)) ++ [c] ++ out.dropWhile (·.2.arrival ≤ c.2.arrival)

/-- The clusters that PLACEs of one size, in order of presentation, join into: each PLACE joins the first cluster that lacks a member and has
none of its tile (R124, R311). -/
def joinClusters (size : Nat) (l : List (Nat × WaitBlock)) : List (List (Nat × WaitBlock)) :=
  l.foldl (fun cs m =>
    match cs.findIdx? fun c => c.length < size && c.all (·.1 != m.1) with
    | some i => cs.modify i (· ++ [m])
    | none => cs ++ [[m]]) []

/-- The members of the cluster that a waiting block joins: PLACEs of its launch on the quad's tiles, in order of presentation (R311); none
while too few have come. -/
def State.clusterOf (s : State) (tile : Nat) (w : WaitBlock) : Option (List (Nat × WaitBlock)) :=
  let cands := (quadOf tile).flatMap fun t =>
    ((s.tile t).waiting.filter fun x => x.launch == w.launch && x.hdr.cluster == w.hdr.cluster).map fun x => (t, x)
  (joinClusters w.hdr.cluster (cands.foldl insertMember [])).find? fun c => c.length == w.hdr.cluster && c.any (·.2 == w)

/-- A tile has the free registers, local memory and slots that a waiting block needs (R81, R116, R120). -/
def State.roomFor (s : State) (tile : Nat) (w : WaitBlock) : Bool :=
  (s.lacks tile w.hdr (s.launchWidth w.launch) (s.waitOwn w)).isNone

/-- The quiet windows of the contexts restart that have a block waiting on a tile for which there is room now (R81, R82). -/
def State.stirWaiting (s : State) (tile : Nat) : State :=
  s.each (((s.tile tile).waiting.filter (s.roomFor tile)).map (·.ctx)) fun c s => s.stir c

/-- Whether a tile's reservation lets a waiting block be placed there (R119). -/
def Tile.admits (t : Tile) (w : WaitBlock) : Bool :=
  match t.reserved with
  | none => true
  | some a => a == w.arrival

/-- The tiles and blocks that placing a waiting block places, if all of them fit (R117, R119, R124). A drain holds the blocks that TCUs
place; a ray's dispatched block has no TCU and is let run (R93, R523). -/
def State.placeable (s : State) (tile : Nat) (w : WaitBlock) : Option (List (Nat × WaitBlock)) :=
  let fits (t : Nat) (x : WaitBlock) : Bool :=
    s.roomFor t x && (s.tile t).admits x
  if !s.live w.ctx || (w.tcu.isSome && s.held w.ctx) then none
  else if w.hdr.cluster == 0 then (if fits tile w then some [(tile, w)] else none)
  else
    match s.clusterOf tile w with
    | some m => if m.all fun (t, x) => fits t x then some m else none
    | none => none

/-- The order of waiting blocks and clusters over all tiles: deadline, then the first presentation of a member (R118, R124). -/
def State.beforeWait (s : State) (tile : Nat) (a b : WaitBlock) : Bool :=
  let first (w : WaitBlock) : Nat :=
    if w.hdr.cluster == 0 then w.arrival else (((s.clusterOf tile w).bind (·.head?)).map (·.2.arrival)).getD w.arrival
  dlLt (s.waitDl a) (s.waitDl b) || (!dlLt (s.waitDl b) (s.waitDl a) && first a < first b)

/-- What a tile's placer places: the first block or cluster in queue order that fits; a cluster only where no other of its tiles has an
earlier block, in that tile's own queue order, that fits there (R118, R124; log 145). -/
def State.toPlace (s : State) (tile : Nat) : Option (List (Nat × WaitBlock)) :=
  (s.queueOrder tile).findSome? fun w =>
    (s.placeable tile w).filter fun m => m.all fun (t, x) =>
      ((s.queueOrder t).takeWhile (· != x)).all fun y => !((s.placeable t y).isSome && s.beforeWait t y x)

/-- The slots of a dispatched block's hits are free, and its unit counts it (R495, R533). -/
def State.dispatchDone (s : State) (d : Dispatched) : State :=
  let s := s.freeSlots d.unit (d.hits.map (·.1))
  { s with srt := { s.srt with units := s.srt.units.modify d.unit fun u =>
    { u with cnt := (u.cnt.modify 7 (· + d.hits.length)).modify 8 (· + 1) } } }

/-- A block leaves its launch queue and is placed; its TCU slot learns where, or its hits are handed over. -/
def State.placeOne (s : State) (t : Nat) (w : WaitBlock) (cluster : Option Nat) : State :=
  let b := (s.tile t).freeBslots.headD 0
  let s := s.placeBlock t w (s.launchWidth w.launch) w.tcu cluster
  let s := s.updTile t fun x =>
    { x with
      waiting := x.waiting.filter (·.arrival != w.arrival)
      reserved := if x.reserved == some w.arrival then none else x.reserved }
  let s := match w.tcu with
    | some c => s.updTcu t c fun c => { c with placed := c.placed + 1, placedSlot := some b }
    | none => s
  let s := s.stir w.ctx
  match w.disp with
  | some d => s.dispatchDone d
  | none => s

/-- BLOCK_PLACE: the placer places the first block or cluster of its launch queue that fits, and counts the cycle when the
head block does not fit (R118–R120, R124). -/
def execBlockPlace (tile : Nat) (s : State) : Out :=
  .next (if !s.clocked then s else
    let ws := s.queueOrder tile
    let s := match ws.head? with
      | none => s
      | some w =>
        match s.lacks tile w.hdr (s.launchWidth w.launch) (s.waitOwn w) with
        | none => s
        | some r => s.updTile tile fun t => { t with cnt := { t.cnt with placeWait := t.cnt.placeWait.modify r (· + 1) } }
    match s.toPlace tile with
    | none => s
    | some [(t, w)] => if w.hdr.cluster == 0 then s.placeOne t w none
      else let (id, s) := s.fresh; s.placeOne t w (some id)
    | some m => let (id, s) := s.fresh; s.each m fun (t, w) s => s.placeOne t w (some id))

/-- A waiting block reserves a tile, in place of one that comes after it (R119). -/
def State.reserveFor (s : State) (t : Nat) (x : WaitBlock) : State :=
  let held := (s.tile t).reserved.bind fun a => (s.tile t).waiting.find? (·.arrival == a)
  if held.any fun y => !s.beforeWait t x y then s else s.updTile t fun u => { u with reserved := some x.arrival }

/-- LAUNCH_QUEUE_RESERVE: the first block in queue order that has waited 100 µs reserves its tiles (R119). -/
def execLaunchQueueReserve (now tile : Nat) (s : State) : Out :=
  let s := s.at now
  .next (if !s.clocked then s else
    match (s.queueOrder tile).find? fun w => w.since + 100000 ≤ s.now with
    | none => s
    | some w =>
      let ts := if w.hdr.cluster == 0 then [(tile, w)] else (s.clusterOf tile w).getD [(tile, w)]
      s.each ts fun (t, x) s => s.reserveFor t x)

/-! ## Retirement -/

/-- A block that has left its slot but whose local memory its cluster still holds has this block slot (R128). -/
def heldSlot : Nat := 16

/-- Retire a block: its block slot and local memory are free, a cluster member's local memory once every member has
retired (R121, R128); its registers and local memory read 0 to whoever gets them next (R49, R150). -/
def State.retireBlock (s : State) (tile bslot : Nat) : State :=
  match (s.tile tile).block? bslot with
  | none => s
  | some b =>
    let s := s.updCm fun m => { m with launches := m.launches.map fun l =>
      if l.id == b.launch && b.tcu.isSome then { l with retired := l.retired + 1 } else l }
    let s := s.updTile tile fun t =>
      { t with groups := t.groups.filter (·.bslot != bslot) }
    let s :=
      match b.cluster with
      | none => s.updTile tile fun t =>
        { t with blocks := t.blocks.filter (·.bslot != bslot), localMem := Mem.drop t.localMem b.base (b.base + b.size) }
      | some c =>
        let s := s.updBlock tile bslot fun b => { b with bslot := heldSlot, retired := true, regUnits := 0 }
        let mem (t : Nat) : List Block := (s.tile t).blocks.filter (·.cluster == some c)
        if (quadOf tile).all fun t => (mem t).all (·.retired) then
          s.each (quadOf tile) fun t s => s.each (mem t) fun x s => s.updTile t fun u =>
            { u with blocks := u.blocks.filter (·.cluster != some c), localMem := Mem.drop u.localMem x.base (x.base + x.size) }
        else s
    s.each (quadOf tile) fun t s => (s.rewayTile t).stirWaiting t

end Sys2Proof.Machine
end

