-- ==== Sys2Proof/Machine/TcuCore.lean ====
section
/-! DEFINITION. What every TCU instruction shares (R287, R293, R327–R331): the encodings, fetching the slot's word,
decode and mode checks, traps, faults and handler dispatch; and slot assignment (R285, R286). -/
namespace Sys2Proof.Machine

def encTa (op : Nat) (f : TaF) : Nat := place op 26 6 + place f.dst 21 5 + place f.sa 16 5 + place f.sb 11 5 + place f.rsv 0 11
def encTi (op : Nat) (f : TiF) : Nat := place op 26 6 + place f.dst 21 5 + place f.sa 16 5 + place f.imm 0 16
def encTb (op : Nat) (f : TbF) : Nat := place op 26 6 + place f.sa 21 5 + place f.sb 16 5 + place f.disp 0 16
def encTj (op : Nat) (f : TjF) : Nat := place op 26 6 + place f.disp 0 26
def encTs (op : Nat) (f : TsF) : Nat := place op 26 6 + place f.dst 21 5 + place f.sa 16 5 + place f.sub 0 16

/-- Whether the opcode map assigns a code (R331). -/
def tcuDefined (op : Nat) : Bool :=
  (0x01 ≤ op && op ≤ 0x0B) || (0x10 ≤ op && op ≤ 0x1B) || (0x20 ≤ op && op ≤ 0x2B) || (0x30 ≤ op && op ≤ 0x3D) || op == 0x3F

/-- Whether an opcode is defined in the slot's mode (R301). -/
def tcuModeOk (trap : Bool) (op : Nat) : Bool :=
  if trap then
    !(op == 0x29 || op == 0x2B || op == 0x1A || op == 0x1B || (0x30 ≤ op && op ≤ 0x38) || op == 0x3B || op == 0x3F)
  else !(op == 0x2A || op == 0x3C || op == 0x3D)

/-- A special register selector that RDSR may read (R332). -/
def rdsrOk (n : Nat) : Bool := n ≤ 0x14

/-- A special register selector that WRSR may write (R332). -/
def wrsrOk (n : Nat) : Bool := n == 0x07 || n == 0x0D

/-- Reserved fields, reserved values and register fields of 24–31 of a word of a defined opcode (R328, R331, R332). An
LDV or STV names an even register below 16 or one of 16–22, so that the pair's second register exists (R306; log 15). -/
def tcuBad (w : Nat) : Bool :=
  let op := bits w 26 6
  let d := bits w 21 5
  let a := bits w 16 5
  let b := bits w 11 5
  let rsv := bits w 0 11
  let imm := bits w 0 16
  let r (x : Nat) : Bool := x ≥ 24
  if 0x01 ≤ op && op ≤ 0x0B then r d || r a || r b || rsv != 0
  else match op with
  | 0x14 => r d || a != 0
  | 0x15 => r d || r a || imm ≥ 32
  | 0x16 => r d || r a || imm ≥ 32
  | 0x17 => r d || r a || imm ≥ 32
  | 0x1A => r d || !((a < 16 && a % 2 == 0) || (16 ≤ a && a ≤ 22))
  | 0x1B => r d || !((a < 16 && a % 2 == 0) || (16 ≤ a && a ≤ 22))
  | 0x26 => false
  | 0x27 => d != 0 || r a || b != 0 || rsv != 0
  | 0x28 => d + a + imm != 0
  | 0x29 => d + a + imm != 0
  | 0x2A => d + a + imm != 0
  | 0x2B => d + a + imm != 0
  | 0x30 => r d || r a || imm ≥ 16
  | 0x31 => r d || a + imm != 0
  | 0x32 => r d || a + imm != 0
  | 0x33 => r d || a != 0 || imm ≥ 8
  | 0x34 => r d || r a || imm != 0
  | 0x35 => r d || a + imm != 0
  | 0x36 => r d || r a || imm != 0
  | 0x37 => r d || r a || imm != 0
  | 0x38 => r d || r a || imm ≥ 32
  | 0x39 => r d || a != 0 || !rdsrOk imm
  | 0x3A => d != 0 || r a || !wrsrOk imm
  | 0x3B => d + a != 0 || imm ≥ 4 || imm == 0
  | 0x3C => r d || a != 0 || imm ≥ 16
  | 0x3D => d != 0 || r a || imm ≥ 16
  | 0x3F => d + a + imm != 0
  | _ => if 0x20 ≤ op && op ≤ 0x25 then r d || r a else r d || r a

/-- The base of a slot's area in local memory (R289). -/
def slotArea (slot : Nat) : Nat := 0x5F000 + slot * 0x400

/-- The program image of a slot. -/
def Tcu.image (c : Tcu) : Image := (c.entry.map (·.image)).getD default

/-- The instruction near cache line that holds a VA for a context on a tile, if it is present (R135, R293). -/
def State.icLine (s : State) (tile ctx va : Nat) : Option IcLine :=
  match (s.resolve (.tile tile) ctx va 4 .exec).2 with
  | .error _ => none
  | .ok (_, pa) => (s.tile tile).ic.find? fun l => l.line == pa / 128 && l.part == (s.ctx ctx).part

/-- The line that holds a VA has been used: it comes first in the instruction near cache (R885). -/
def State.icUsed (s : State) (tile ctx va : Nat) : State :=
  match s.icLine tile ctx va with
  | none => s
  | some l => s.updTile tile fun t => { t with ic := l :: t.ic.filter (· != l) }

/-- The n bytes at a VA from the instruction near cache. -/
def State.icRead (s : State) (tile ctx va n : Nat) : Option Nat :=
  (s.icLine tile ctx va).map fun l => leNat ((l.data.drop (va % 128)).take n)

/-- The fetched word of a slot (R293). -/
def State.tcuWord (s : State) (tile slot : Nat) : Option Nat :=
  let c := (s.tile tile).tcu slot
  s.icRead tile c.ctx (c.image.base + c.pc) 4

/-- A slot's queued messages in the order they are taken: effective deadline, arrival, lower source tile (R321). -/
def Tcu.msgOrder (c : Tcu) : List Msg :=
  c.queue.foldl (fun out m =>
    (out.takeWhile fun x => !dlLt m.deadline x.deadline) ++ [m] ++ out.dropWhile fun x => !dlLt m.deadline x.deadline) []

/-- The handler offset of a message type; 0: none (R290, R324). -/
def Tcu.handler (c : Tcu) (typ : Nat) : Nat := if c.image.handlerBase == 0 then 0 else c.image.handlers.getD typ 0

/-- The message a slot dispatches at its next instruction boundary (R303, R324). -/
def Tcu.dispatch? (c : Tcu) : Option Msg :=
  if c.hen && !c.trap then c.msgOrder.find? fun m => c.handler m.typ != 0 else none

/-- A slot that has an instruction to issue: running, its word fetched, no dispatch due (R287, R324). -/
def State.tcuReady (s : State) (tile slot : Nat) : Bool :=
  let c := (s.tile tile).tcu slot
  c.state == .run && s.live c.ctx && c.dispatch?.isNone && (s.tcuWord tile slot).isSome

/-- No other ready slot of the tile comes before this one: earliest launch deadline, then lower launch number (arrival),
then lower context (R36, R287). -/
def State.tcuFirst (s : State) (tile slot : Nat) : Bool :=
  let c := (s.tile tile).tcu slot
  (List.range 4).all fun o =>
    let x := (s.tile tile).tcu o
    o == slot || !s.tcuReady tile o || dlLt (s.launchDl c.launch) (s.launchDl x.launch)
      || (!dlLt (s.launchDl x.launch) (s.launchDl c.launch) && (c.launch < x.launch || (c.launch == x.launch && c.ctx ≤ x.ctx)))

/-- A fault of a slot at its current instruction; the slot halts (R304, R329). -/
def State.tcuFault (s : State) (tile slot w code detail : Nat) (addr : Option Nat) : State :=
  let c := (s.tile tile).tcu slot
  (s.raise { code := code, ctx := c.ctx, tile := tile, unit := 1, pc := c.pc, addr := addr.getD 0, insn := w
             detail := detail, valid := if addr.isSome then 0x0B else 0x0A, tag := s.launchTag c.launch }).updTcu tile slot
    fun c => { c with state := .halted }

/-- Run a slot's next instruction if it is this word: its decode checks (R301, R328), then its effect, which also sets
the program counter. A fetched word of an undefined opcode raises ILLEGAL_OPCODE whatever instruction was named. -/
def runTcu (tile slot w : Nat) (eff : Tcu → State → State) (s : State) : Out :=
  .next (if !s.clocked || !s.tcuReady tile slot || !s.tcuFirst tile slot then s else
    match s.tcuWord tile slot with
    | none => s
    | some x =>
      let c := (s.tile tile).tcu slot
      let op := bits x 26 6
      let count (s : State) : State :=
        (s.icUsed tile c.ctx (c.image.base + c.pc)).updTile tile fun t => { t with tcuCnt := { t.tcuCnt with insns := t.tcuCnt.insns + 1 } }
      if !tcuDefined op then (count s).tcuFault tile slot x 0x01 0 none
      else if x != w then s
      else if !tcuModeOk c.trap op then (count s).tcuFault tile slot w 0x01 0 none
      else if tcuBad w then (count s).tcuFault tile slot w 0x02 0 none
      else eff c (count s))

/-- The slot's program counter moves to the next instruction, with another update. -/
def State.tcuNext (s : State) (tile slot : Nat) (f : Tcu → Tcu) : State :=
  s.updTcu tile slot fun c => f { c with pc := c.pc + 4 }

/-- Trap entry (R298). -/
def State.tcuTrap (s : State) (tile slot cause wtgt : Nat) : State :=
  (s.updTile tile fun t => { t with tcuCnt := { t.tcuCnt with traps := t.tcuCnt.traps + 1 } }).updTcu tile slot fun c =>
    { c with trapPc := c.pc, trapCause := cause, wtgt := wtgt, trap := true, pc := c.image.trapEntry, state := .run }

/-- A jump of a slot to an offset: MISALIGNED, or PERMISSION with DETAIL bit 2 outside the code (R330). -/
def State.tcuJump (s : State) (tile slot w : Nat) (target : Int) (f : Tcu → Tcu) : State :=
  let c := (s.tile tile).tcu slot
  if target % 4 != 0 then s.tcuFault tile slot w 0x03 0 none
  else if target < 64 || target ≥ (c.image.codeBytes : Int) then s.tcuFault tile slot w 0x05 4 none
  else s.updTcu tile slot fun c => { f c with pc := target.toNat }

/-- SAVE, or the SAVE of a dispatch: a new window, the overflow trap, or LOCAL_BOUNDS (R295, R296). -/
def State.tcuSave (s : State) (tile slot w cause : Nat) (f : Tcu → Tcu) : State :=
  let c := (s.tile tile).tcu slot
  if c.wocc < 8 then s.updTcu tile slot fun c => f { c with cwp := (c.cwp + 1) % 8, wocc := c.wocc + 1 }
  else if c.wsp < 8 then s.tcuTrap tile slot cause ((c.cwp + 1) % 8)
  else s.tcuFault tile slot w 0x0A 0 none

/-- RESTORE, or the RESTORE of HRET: the window before, the underflow trap, or LOCAL_BOUNDS (R297). -/
def State.tcuRestore (s : State) (tile slot w cause : Nat) (f : Tcu → Tcu) : State :=
  let c := (s.tile tile).tcu slot
  if c.wocc > 1 then s.updTcu tile slot fun c => f { c with cwp := (c.cwp + 7) % 8, wocc := c.wocc - 1 }
  else if c.wsp > 0 then s.tcuTrap tile slot cause ((c.cwp + 7) % 8)
  else s.tcuFault tile slot w 0x0A 0 none

/-- The header word of a message (R323). -/
def Msg.header (m : Msg) : Word := BitVec.ofNat 32 (place m.src 0 8 + place m.typ 8 4)

/-- A slot takes a message: out of its queue, its payload into the receive buffer, its tag kept (R322, R325). -/
def State.tcuTake (s : State) (tile slot : Nat) (m : Msg) : State :=
  ((s.localWrite tile (slotArea slot + 0x300) m.payload).updTile tile fun t =>
    { t with tcuCnt := { t.tcuCnt with recv := t.tcuCnt.recv + 1 } }).updTcu tile slot fun c =>
      { c with queue := c.queue.erase m, msgTag := m.tag }

/-- HANDLER_DISPATCH: a queued message with a handler is dispatched at an instruction boundary, or in RECVW, after an
implicit SAVE (R324, R325). -/
def execHandlerDispatch (tile slot : Nat) (s : State) : Out :=
  .next (
    let c := (s.tile tile).tcu slot
    let boundary := match c.state with
      | .run => true
      | .waitRecv _ => true
      | _ => false
    if !s.clocked || !boundary || !s.live c.ctx then s else
    match c.dispatch? with
    | none => s
    | some m =>
      if c.wocc ≥ 8 then s.tcuSave tile slot 0 3 id
      else
        let s := s.tcuTake tile slot m
        let s := s.updTile tile fun t => { t with tcuCnt := { t.tcuCnt with handlers := t.tcuCnt.handlers + 1 } }
        s.tcuSave tile slot 0 3 fun c =>
          { ((c.setReg 0 m.header).setReg 1 (BitVec.ofNat 32 m.tag)) with
            hpc := c.pc, hen := false, inHandler := true, pc := c.handler m.typ, state := .run })

/-- TCU_SLOT_ASSIGN: the waiting placement entry of earliest deadline, then first arrival, gets the free slot of lowest
number; registers and slot area are zeroed (R285, R286). The launch starts on the tile: the partition's lines of both near
caches are invalidated (R135, R165; log 131). -/
def execTcuSlotAssign (tile : Nat) (s : State) : Out :=
  .next (if !s.clocked then s else
    let t := s.tile tile
    match (List.range 4).find? fun i => (t.tcu i).state == .free with
    | none => s
    | some slot =>
      let ws := t.waitEntries.filter fun w => s.live w.ctx
      match earliest (fun (w : WaitEntry) => ⟨s.launchDl w.launch, w.arrival, w.ctx⟩) ws with
      | none => s
      | some w =>
        let p := (s.ctx w.ctx).part
        (s.stir w.ctx).updTile tile fun t =>
          { t with
            waitEntries := t.waitEntries.filter (·.arrival != w.arrival)
            ic := t.ic.filter (·.part != p)
            nc := t.nc.filter (·.part != p)
            localMem := Mem.drop t.localMem (slotArea slot) (slotArea slot + 0x400) }.updTcu slot fun _ =>
              { state := .run, ctx := w.ctx, launch := w.launch, entry := some w.entry, pc := 64, cwp := 0, wocc := 1
                wsp := 0, hen := false, sendTag := s.launchTag w.launch })

end Sys2Proof.Machine
end

