-- ==== Sys2Proof/WellFormed.lean ====
section
/-! DEFINITION. Well-formed commands: every operand lies in the range that the specification gives it, and a record has its length. A
command that is not well-formed names nothing of the hardware; the meanings are total all the same, and statements say where they need
it. -/
namespace Sys2Proof

/-- Register fields have 8 bits, PSEL 3, and the other fields the bits that R207 gives them. -/
def RegF.wf (f : RegF) : Bool :=
  f.psel < 8 && f.dst < 256 && f.srca < 256 && f.srcb < 256 && f.srcc < 256 && f.mod < 2 ^ 20
def ImmF.wf (f : ImmF) : Bool := f.psel < 8 && f.dst < 256 && f.srca < 256 && f.mod4 < 16
def MemF.wf (f : MemF) : Bool :=
  f.psel < 8 && f.dst < 256 && f.srca < 256 && f.srcb < 256 && f.size < 8 && f.subop < 16 && f.off < 2 ^ 20
def BrnF.wf (f : BrnF) : Bool := f.psel < 8 && f.dst < 256 && f.srca < 256 && f.rsv < 16
def SpcF.wf (f : SpcF) : Bool := f.psel < 8 && f.dst < 256 && f.srca < 256 && f.srcb < 256 && f.spec < 2 ^ 28
/-- The fields of the TCU formats (R327). -/
def TaF.wf (f : TaF) : Bool := f.dst < 32 && f.sa < 32 && f.sb < 32 && f.rsv < 2 ^ 11
def TiF.wf (f : TiF) : Bool := f.dst < 32 && f.sa < 32 && f.imm < 2 ^ 16
def TbF.wf (f : TbF) : Bool := f.sa < 32 && f.sb < 32 && f.disp < 2 ^ 16
def TjF.wf (f : TjF) : Bool := f.disp < 2 ^ 26
def TsF.wf (f : TsF) : Bool := f.dst < 32 && f.sa < 32 && f.sub < 2 ^ 16
/-- Held groups are named by their slots. -/
def holdsWf (l : List Nat) : Bool := l.all (· < 64)

/-- A command's operands lie in their ranges: tiles 0–143 (R8), functions 0–32 (R45), queues 0–127, contexts 0–63, partitions 0–31,
Armatures 0–47 (R9), sorters 0–3 (R10), ports 0–17 and 18 for the chip to itself where packets are received, stacks 0–7, and so on. -/
def Instr.wf : Instr → Bool
  | .issueCycle tile holds => tile < 144 && holdsWf holds
  | .nop tile f => tile < 144 && f.wf
  | .movi tile f => tile < 144 && f.wf
  | .mov tile f => tile < 144 && f.wf
  | .sel tile f => tile < 144 && f.wf
  | .rdspec tile f => tile < 144 && f.wf
  | .iadd tile f => tile < 144 && f.wf
  | .isub tile f => tile < 144 && f.wf
  | .imul tile f => tile < 144 && f.wf
  | .imulhi tile f => tile < 144 && f.wf
  | .imad tile f => tile < 144 && f.wf
  | .imin tile f => tile < 144 && f.wf
  | .imax tile f => tile < 144 && f.wf
  | .and tile f => tile < 144 && f.wf
  | .or tile f => tile < 144 && f.wf
  | .xor tile f => tile < 144 && f.wf
  | .shl tile f => tile < 144 && f.wf
  | .shr tile f => tile < 144 && f.wf
  | .sar tile f => tile < 144 && f.wf
  | .popc tile f => tile < 144 && f.wf
  | .clz tile f => tile < 144 && f.wf
  | .brev tile f => tile < 144 && f.wf
  | .iaddi tile f => tile < 144 && f.wf
  | .isubi tile f => tile < 144 && f.wf
  | .imuli tile f => tile < 144 && f.wf
  | .imulhii tile f => tile < 144 && f.wf
  | .imini tile f => tile < 144 && f.wf
  | .imaxi tile f => tile < 144 && f.wf
  | .andi tile f => tile < 144 && f.wf
  | .ori tile f => tile < 144 && f.wf
  | .xori tile f => tile < 144 && f.wf
  | .shli tile f => tile < 144 && f.wf
  | .shri tile f => tile < 144 && f.wf
  | .sari tile f => tile < 144 && f.wf
  | .isetp tile f => tile < 144 && f.wf
  | .isetpi tile f => tile < 144 && f.wf
  | .fsetp tile f => tile < 144 && f.wf
  | .plop tile f => tile < 144 && f.wf
  | .vote tile f => tile < 144 && f.wf
  | .fadd tile f => tile < 144 && f.wf
  | .fmul tile f => tile < 144 && f.wf
  | .ffma tile f => tile < 144 && f.wf
  | .fmin tile f => tile < 144 && f.wf
  | .fmax tile f => tile < 144 && f.wf
  | .frcp tile f => tile < 144 && f.wf
  | .frsq tile f => tile < 144 && f.wf
  | .fsqrt tile f => tile < 144 && f.wf
  | .fexp2 tile f => tile < 144 && f.wf
  | .flog2 tile f => tile < 144 && f.wf
  | .fsin tile f => tile < 144 && f.wf
  | .fcos tile f => tile < 144 && f.wf
  | .hadd2 tile f => tile < 144 && f.wf
  | .hmul2 tile f => tile < 144 && f.wf
  | .hfma2 tile f => tile < 144 && f.wf
  | .cvt tile f => tile < 144 && f.wf
  | .shfl tile f => tile < 144 && f.wf
  | .redux tile f => tile < 144 && f.wf
  | .scanx tile f => tile < 144 && f.wf
  | .ldl tile f => tile < 144 && f.wf
  | .stl tile f => tile < 144 && f.wf
  | .atoml tile f => tile < 144 && f.wf
  | .ld tile f => tile < 144 && f.wf
  | .st tile f => tile < 144 && f.wf
  | .atom tile f => tile < 144 && f.wf
  | .gather tile f => tile < 144 && f.wf
  | .scatter tile f => tile < 144 && f.wf
  | .fence tile f => tile < 144 && f.wf
  | .fenceRetire tile _ slot => tile < 144 && slot < 64
  | .bra tile f => tile < 144 && f.wf
  | .brx tile f => tile < 144 && f.wf
  | .call tile f => tile < 144 && f.wf
  | .ret tile f => tile < 144 && f.wf
  | .exit tile f => tile < 144 && f.wf
  | .exitRelease tile slot lane => tile < 144 && slot < 64 && lane < 64
  | .bar tile f => tile < 144 && f.wf
  | .barrierComplete tile bslot scope _ => tile < 144 && bslot < 16 && scope < 3
  | .evsig tile f => tile < 144 && f.wf
  | .evwait tile f => tile < 144 && f.wf
  | .evwaitResume tile slot lane => tile < 144 && slot < 64 && lane < 64
  | .evwaitTimeout _ tile slot lane => tile < 144 && slot < 64 && lane < 64
  | .evpoll tile f => tile < 144 && f.wf
  | .trace tile f => tile < 144 && f.wf
  | .traceq tile f => tile < 144 && f.wf
  | .phase tile f => tile < 144 && f.wf
  | .sacq tile f => tile < 144 && f.wf
  | .sacqWake tile slot => tile < 144 && slot < 64
  | .srel tile f => tile < 144 && f.wf
  | .chop tile f => tile < 144 && f.wf
  | .chwait tile f => tile < 144 && f.wf
  | .chwaitReturn tile slot => tile < 144 && slot < 64
  | .demandFetch tile _ slot => tile < 144 && slot < 64
  | .speculativeFetch tile _ slot _ => tile < 144 && slot < 64
  | .storeBufferDrain tile _ => tile.all (· < 144)
  | .blockPlace tile => tile < 144
  | .launchQueueReserve _ tile => tile < 144
  | .tileCntSnapTake fn tile _ => fn < 33 && tile < 144
  | .counterLowRead fn _ size => fn < 33 && 0 < size
  | .counterHighRead fn _ => fn < 33
  | .lowerHalfWrite fn _ _ => fn < 33
  | .upperHalfWrite fn _ _ => fn < 33
  | .registerWrite fn _ size _ => fn < 33 && (size == 4 || size == 8)
  | .doorbell fn q offset size _ => fn < 33 && q < 256 && offset + size ≤ 65536 && 0 < size && size ≤ 8
  | .nopCommand q raw => q < 128 && (raw.isEmpty || raw.length == 64)
  | .launch q raw _ => q < 128 && (raw.isEmpty || raw.length == 64)
  | .launchComplete _ => true
  | .epochCommand q raw => q < 128 && (raw.isEmpty || raw.length == 64)
  | .epochApplyTimeout _ => true
  | .waitCommand q raw => q < 128 && (raw.isEmpty || raw.length == 64)
  | .waitSatisfied _ _ => true
  | .signalCommand q raw => q < 128 && (raw.isEmpty || raw.length == 64)
  | .copyCommand q raw => q < 128 && (raw.isEmpty || raw.length == 64)
  | .copyComplete _ _ => true
  | .killCommand q raw => q < 128 && (raw.isEmpty || raw.length == 64)
  | .hstQResume fn q _ => fn < 33 && q < 128
  | .hstQSkip fn q _ => fn < 33 && q < 128
  | .watchdog _ _ => true
  | .ctxCtrlCreate fn c _ => fn < 33 && c < 64
  | .ctxCtrlKill fn c _ => fn < 33 && c < 64
  | .ctxCtrlRelease fn c _ => fn < 33 && c < 64
  | .ctxKill c _ => c < 64
  | .hostEventPost fn c _ => fn < 33 && c < 64
  | .tlbInvalidate fn c _ => fn < 33 && c < 64
  | .tlbInvalidateComplete c => c < 64
  | .faultArrival _ => true
  | .killComplete c => c < 64
  | .eventDeadlock _ c => c < 64
  | .drainApply _ => true
  | .drainTimeout _ => true
  | .tcuSlotAssign tile => tile < 144
  | .tcuAdd tile slot f => tile < 144 && slot < 4 && f.wf
  | .tcuSub tile slot f => tile < 144 && slot < 4 && f.wf
  | .tcuAnd tile slot f => tile < 144 && slot < 4 && f.wf
  | .tcuOr tile slot f => tile < 144 && slot < 4 && f.wf
  | .tcuXor tile slot f => tile < 144 && slot < 4 && f.wf
  | .tcuShl tile slot f => tile < 144 && slot < 4 && f.wf
  | .tcuShr tile slot f => tile < 144 && slot < 4 && f.wf
  | .tcuSar tile slot f => tile < 144 && slot < 4 && f.wf
  | .tcuMul tile slot f => tile < 144 && slot < 4 && f.wf
  | .tcuSlt tile slot f => tile < 144 && slot < 4 && f.wf
  | .tcuSltu tile slot f => tile < 144 && slot < 4 && f.wf
  | .tcuAddi tile slot f => tile < 144 && slot < 4 && f.wf
  | .tcuAndi tile slot f => tile < 144 && slot < 4 && f.wf
  | .tcuOri tile slot f => tile < 144 && slot < 4 && f.wf
  | .tcuXori tile slot f => tile < 144 && slot < 4 && f.wf
  | .tcuLui tile slot f => tile < 144 && slot < 4 && f.wf
  | .tcuShli tile slot f => tile < 144 && slot < 4 && f.wf
  | .tcuShri tile slot f => tile < 144 && slot < 4 && f.wf
  | .tcuSari tile slot f => tile < 144 && slot < 4 && f.wf
  | .tcuLdw tile slot f => tile < 144 && slot < 4 && f.wf
  | .tcuStw tile slot f => tile < 144 && slot < 4 && f.wf
  | .tcuLdv tile slot f => tile < 144 && slot < 4 && f.wf
  | .tcuStv tile slot f => tile < 144 && slot < 4 && f.wf
  | .tcuBeq tile slot f => tile < 144 && slot < 4 && f.wf
  | .tcuBne tile slot f => tile < 144 && slot < 4 && f.wf
  | .tcuBlt tile slot f => tile < 144 && slot < 4 && f.wf
  | .tcuBge tile slot f => tile < 144 && slot < 4 && f.wf
  | .tcuBltu tile slot f => tile < 144 && slot < 4 && f.wf
  | .tcuBgeu tile slot f => tile < 144 && slot < 4 && f.wf
  | .tcuJal tile slot f => tile < 144 && slot < 4 && f.wf
  | .tcuJr tile slot f => tile < 144 && slot < 4 && f.wf
  | .tcuSave tile slot f => tile < 144 && slot < 4 && f.wf
  | .tcuRestore tile slot f => tile < 144 && slot < 4 && f.wf
  | .tcuTret tile slot f => tile < 144 && slot < 4 && f.wf
  | .tcuHret tile slot f => tile < 144 && slot < 4 && f.wf
  | .tcuSend tile slot f => tile < 144 && slot < 4 && f.wf
  | .messageArrival _ tile slot => tile < 144 && slot < 4
  | .messageRetry _ tile slot => tile < 144 && slot < 4
  | .sendStatus _ tile slot => tile < 144 && slot < 4
  | .tcuRecv tile slot f => tile < 144 && slot < 4 && f.wf
  | .tcuRecvw tile slot f => tile < 144 && slot < 4 && f.wf
  | .recvwWake tile slot => tile < 144 && slot < 4
  | .handlerDispatch tile slot => tile < 144 && slot < 4
  | .tcuPlace tile slot f => tile < 144 && slot < 4 && f.wf
  | .placeWake tile slot => tile < 144 && slot < 4
  | .tcuStartb tile slot f => tile < 144 && slot < 4 && f.wf
  | .tcuWaitb tile slot f => tile < 144 && slot < 4 && f.wf
  | .waitbWake tile slot => tile < 144 && slot < 4
  | .tcuRetire tile slot f => tile < 144 && slot < 4 && f.wf
  | .tcuTevsig tile slot f => tile < 144 && slot < 4 && f.wf
  | .tcuRdsr tile slot f => tile < 144 && slot < 4 && f.wf
  | .tcuWrsr tile slot f => tile < 144 && slot < 4 && f.wf
  | .tcuFence tile slot f => tile < 144 && slot < 4 && f.wf
  | .tcuWrd tile slot f => tile < 144 && slot < 4 && f.wf
  | .tcuWwr tile slot f => tile < 144 && slot < 4 && f.wf
  | .tcuEnd tile slot f => tile < 144 && slot < 4 && f.wf
  | .endComplete tile slot => tile < 144 && slot < 4
  | .chiselOpStart tile => tile < 144
  | .chiselOpComplete tile _ => tile < 144
  | .relaySliceArrival tile _ => tile < 144
  | .relayTimeout _ tile _ => tile < 144
  | .neuralBatchArrival _ => true
  | .neuralBatchStart tile => tile < 144
  | .neuralWeightCacheFill tile => tile < 144
  | .neuralBatchComplete tile => tile < 144
  | .streamOpen tile slot f => tile < 144 && slot < 4 && f.wf
  | .streamClose tile slot f => tile < 144 && slot < 4 && f.wf
  | .streamCloseComplete _ => true
  | .strCtxRangeWrite fn c _ => fn < 33 && c < 64
  | .lineRequestIssue tile => tile < 144
  | .lineArrival tile _ _ => tile < 144
  | .storeLineDone tile _ => tile < 144
  | .linkTransfer _ => true
  | .linkSlotDelivered _ => true
  | .waitCycleScan _ => true
  | .rayPacketArrival _ => true
  | .visitArrival _ => true
  | .visitReturn _ => true
  | .nodeFetch arm _ => arm < 48
  | .speculativeNodeFetch arm _ _ => arm < 48
  | .neuralBatchSend arm => arm < 48
  | .neuralReply _ => true
  | .placementPeriod _ => true
  | .maquetteBuild fn p _ => fn < 33 && p < 32
  | .maquetteBuildComplete p => p < 32
  | .maquetteRelease fn p _ => fn < 33 && p < 32
  | .reload fn p _ => fn < 33 && p < 32
  | .traceAdmission _ unit => unit < 4
  | .binTimeout _ unit _ => unit < 4
  | .packetSend _ unit => unit < 4
  | .binTimeoutAdjust _ unit => unit < 4
  | .hitArrival _ => true
  | .hitBinTimeout _ unit _ => unit < 4
  | .hitRingWrite unit => unit < 4
  | .hitRingRetry unit => unit < 4
  | .dispatchBlock unit _ => unit < 4
  | .overloadSample _ p => p < 32
  | .droopDetect tile det _ => tile < 144 && det < 4
  | .droopStretchEnd tile => tile < 144
  | .powerPeriod _ _ => true
  | .reconciliationWindow _ _ => true
  | .voltageSettled die => die < 2
  | .pmbusReport _ _ rail => rail.length == 3
  | .thermalSample _ _ _ => true
  | .thermalStep _ => true
  | .shedEnter _ _ => true
  | .shedExit _ _ => true
  | .coolantStop _ _ => true
  | .coolantGlitch => true
  | .phaseMarkApply _ p => p < 32
  | .partLearnReset p _ => p < 32
  | .ageingEpoch => true
  | .bar4Read fn _ _ _ => fn < 33
  | .bar4Write fn _ _ => fn < 33
  | .vfFlr vf => 1 ≤ vf && vf < 33
  | .linkDown => true
  | .linkRetrain speed _ _ _ => speed < 8
  | .completionFailure _ _ => true
  | .completionTimeout _ _ _ => true
  | .msixUnmask vector => vector < 2048
  | .hbmReadError _ pa err => pa < 206158430208 && err.first.length == 4 && err.retry.length == 4
  | .rowRetireComplete _ stack _ _ => stack < 8
  | .patrolRead _ stack err => stack < 8 && err.first.length == 4 && err.retry.length == 4
  | .hbmRefresh _ stack => stack < 8
  | .hbmTempRead _ stack _ => stack < 8
  | .retireRow _ _ => true
  | .loopbackPciePipe _ cmd => cmd.length == 8
  | .loopbackPcieNearEnd _ cmd => cmd.length == 8
  | .loopbackHbmController _ cmd => cmd.length == 8
  | .loopbackHbmPhy _ cmd => cmd.length == 8
  | .loopbackNguaNearEndPcs _ cmd => cmd.length == 8
  | .loopbackNguaFarEndPma _ cmd => cmd.length == 8
  | .loopbackNguaLinkLayer _ cmd => cmd.length == 8
  | .loopbackNguaTransaction _ cmd => cmd.length == 8
  | .loopbackStop _ _ => true
  | .loopbackEnd _ _ => true
  | .frameReceive _ port lanes => port < 18 && (lanes.length == 8 || lanes.length == 4) && lanes.all fun l => l.length == 10880 / lanes.length && l.all (· < 4)
  | .trainFlitReceive _ port => port < 18
  | .trainingTimeout _ port => port < 18
  | .portTrainRetry _ port => port < 18
  | .dataFlitReceive _ port => port < 18
  | .idleFlitReceive _ port => port < 18
  | .nakReceive _ port => port < 18
  | .replayTimeout _ port => port < 18
  | .packetStart _ port => port < 18
  | .putReceive _ => true
  | .getReceive _ => true
  | .eventReceive _ => true
  | .dataReceive _ => true
  | .ackReceive _ => true
  | .requestRetry _ _ _ => true
  | .detourForward _ => true
  | .fabricQueuePoll _ c q => c < 64 && q < 4
  | .fabricPut _ c q _ => c < 64 && q < 4
  | .fabricGet _ c q => c < 64 && q < 4
  | .fabricEvent _ c q => c < 64 && q < 4
  | .timeFlitSend _ port => port < 18
  | .timeFlitReceive _ port => port < 18
  | .loopbackFlitReceive _ port => port < 18
  | .adminDown port => port < 18
  | .adminDownComplete _ port => port < 18
  | .adminUp _ port => port < 18
  | .smpCsAssert _ => true
  | .smpCsDeassert _ => true
  | .smpFrame _ frame => frame.length == 84
  | .smpNop _ => true
  | .smpRead _ => true
  | .smpWrite _ => true
  | .commitOpen _ => true
  | .commitExecute _ => true
  | .commitDiscard _ => true
  | .commitBuildTimeout tray _ => tray.all (· < 3)
  | .powerDownOrderly _ => true
  | .powerDownForced _ => true
  | .powerDownDone _ => true
  | .plinthRequest who _ _ _ _ _ => who < 3
  | .bridgeTimeout _ pos => pos < 4
  | .smpReenable _ _ _ pos _ => pos < 4
  | .requestResend who _ _ _ _ _ => who < 3
  | .stateFrameSend who _ _ => who < 3
  | .stateFrameReceive who _ node _ block => who < 3 && node < 64 && block.length == 60
  | .emergencyFrameSend who _ _ => who < 3
  | .busLost _ => true
  | .ceilingRaise _ => true
  | .capCheck _ _ => true
  | .flowSample who _ _ _ _ _ _ => who < 3
  | .leakPowerRemove _ => true
  | .moduleThermtrip _ pos => pos < 4
  | .trayStartStep _ _ => true
  | .hostStandbyTimeout _ => true
  | .chipReadyTimeout _ => true
  | .switchWaitTimeout _ => true
  | .switchTrayPowerOff _ => true
  | .serviceDrain _ _ _ _ => true
  | .serviceDrainForced _ _ _ _ => true
  | .servicePull _ _ _ => true
  | .serviceResume _ _ _ => true
  | .trayDrainStep _ _ => true
  | .hostShutdownTimeout _ => true
  | .trayDrainObjectWrite _ _ _ _ _ _ => true
  | .moduleCycle _ _ _ _ _ => true
  | .berInstall _ _ _ _ => true
  | .berInstallEnd _ _ => true
  | .berPeriodic _ _ _ => true
  | .berPortTestEnd _ _ _ => true
  | .canLoopback who _ _ _ _ => who < 3
  | .eventLogPoll _ pos _ _ => pos < 4
  | .imageBlock who _ _ _ _ => who < 3
  | .imageSave who _ _ _ => who < 3
  | .imageSaveComplete who _ => who < 3
  | .dictSave who _ => who < 3
  | .trayControllerStart who _ => who < 3
  | .keyGenerate _ fn _ => fn < 33
  | .keyLoad _ fn _ => fn < 33
  | .keyErase _ fn _ => fn < 33
  | .unlockToken _ token => token.length == 112
  | .unlockOpen _ => true
  | .intrusion _ => true
  | .pwrinGoodRise => true
  | .pwrinGoodFall => true
  | .chipRstNAssert => true
  | .resetCommandCold _ _ => true
  | .bootComplete _ _ => true
  | .pfFlr _ => true
  | .hotReset _ => true
  | .perstNAssert _ => true
  | .resetCommandWarm _ _ => true
  | .warmResetComplete _ _ => true
  | .jtagExtest => true
  | .jtagIdcode => true
  | .jtagSamplePreload => true
  | .jtagClamp => true
  | .jtagHighz => true
  | .jtagExtestPulse => true
  | .jtagExtestTrain => true
  | .jtagTestInstruction code => 0x10 ≤ code && code < 0x40
  | .jtagBypass code => ((7 ≤ code && code < 0x10) || (0x40 ≤ code && code < 0x100))
  | .chipRstNDeassert => true
  | .perstNDeassert _ => true
  | .linkUp speed _ _ cfg => speed < 8 && cfg.all fun r => match r with
    | .resizeBar4 n => [16, 32, 64, 128, 256].contains n
    | .power fn _ => fn < 33
    | .doe v p i => v < 65536 && p < 256 && i < 256
  | .intrusionNDeassert _ => true
  | .frameLockLoss _ port => port < 18
  | .stateFrameTimeout who _ node => who < 3 && node < 64
  | .switchTrayStart _ _ => true
  | .managementTrayStart _ _ => true
  | .loadReturn _ _ => true

end Sys2Proof
end

