-- ==== Sys2Proof/Decode.lean ====
section
/-! DEFINITION. Decoding. The block takes commands, and its opcode table gives no row any bits, so no table word spells a command
(decodeTableWord). The thread engine and the TCU do fetch instruction words; here is what command a word of theirs is, by the formats
of R207 and R327 and the opcode maps of R215 and R331, and the word of a command. -/
namespace Sys2Proof
open Machine

/-- The command that a word spells by the table's bits: none, as the table gives none. -/
def decodeTableWord (_nbits _w : Nat) : Option Instr := none

/-! ## The formats (R207, R327) -/

def wordReg (w : Nat) : RegF :=
  { pneg := bitAt w 55, psel := bits w 52 3, dst := bits w 44 8, srca := bits w 36 8, srcb := bits w 28 8, srcc := bits w 20 8
    mod := bits w 0 20 }

def wordImm (w : Nat) : ImmF :=
  { pneg := bitAt w 55, psel := bits w 52 3, dst := bits w 44 8, srca := bits w 36 8, mod4 := bits w 32 4
    imm := BitVec.ofNat 32 w }

def wordBrn (w : Nat) : BrnF :=
  { pneg := bitAt w 55, psel := bits w 52 3, dst := bits w 44 8, srca := bits w 36 8, rsv := bits w 32 4
    disp := BitVec.ofNat 32 w }

def wordSpc (w : Nat) : SpcF :=
  { pneg := bitAt w 55, psel := bits w 52 3, dst := bits w 44 8, srca := bits w 36 8, srcb := bits w 28 8, spec := bits w 0 28 }

def wordTa (w : Nat) : TaF := { dst := bits w 21 5, sa := bits w 16 5, sb := bits w 11 5, rsv := bits w 0 11 }
def wordTi (w : Nat) : TiF := { dst := bits w 21 5, sa := bits w 16 5, imm := bits w 0 16 }
def wordTb (w : Nat) : TbF := { sa := bits w 21 5, sb := bits w 16 5, disp := bits w 0 16 }
def wordTj (w : Nat) : TjF := { disp := bits w 0 26 }
def wordTs (w : Nat) : TsF := { dst := bits w 21 5, sa := bits w 16 5, sub := bits w 0 16 }

/-! ## The opcode maps (R215, R331) -/

/-- The command that a 64-bit word of the thread engine is on a tile; none where R215 assigns its opcode nothing. -/
def decodeThread (tile w : Nat) : Option Instr :=
  match bits w 56 8 with
  | 0x01 => some (.nop tile (wordSpc w))
  | 0x02 => some (.movi tile (wordImm w))
  | 0x03 => some (.mov tile (wordReg w))
  | 0x04 => some (.sel tile (wordReg w))
  | 0x05 => some (.rdspec tile (wordSpc w))
  | 0x10 => some (.iadd tile (wordReg w))
  | 0x11 => some (.isub tile (wordReg w))
  | 0x12 => some (.imul tile (wordReg w))
  | 0x13 => some (.imulhi tile (wordReg w))
  | 0x14 => some (.imad tile (wordReg w))
  | 0x15 => some (.imin tile (wordReg w))
  | 0x16 => some (.imax tile (wordReg w))
  | 0x17 => some (.and tile (wordReg w))
  | 0x18 => some (.or tile (wordReg w))
  | 0x19 => some (.xor tile (wordReg w))
  | 0x1A => some (.shl tile (wordReg w))
  | 0x1B => some (.shr tile (wordReg w))
  | 0x1C => some (.sar tile (wordReg w))
  | 0x1D => some (.popc tile (wordReg w))
  | 0x1E => some (.clz tile (wordReg w))
  | 0x1F => some (.brev tile (wordReg w))
  | 0x20 => some (.iaddi tile (wordImm w))
  | 0x21 => some (.isubi tile (wordImm w))
  | 0x22 => some (.imuli tile (wordImm w))
  | 0x23 => some (.imulhii tile (wordImm w))
  | 0x25 => some (.imini tile (wordImm w))
  | 0x26 => some (.imaxi tile (wordImm w))
  | 0x27 => some (.andi tile (wordImm w))
  | 0x28 => some (.ori tile (wordImm w))
  | 0x29 => some (.xori tile (wordImm w))
  | 0x2A => some (.shli tile (wordImm w))
  | 0x2B => some (.shri tile (wordImm w))
  | 0x2C => some (.sari tile (wordImm w))
  | 0x30 => some (.isetp tile (wordReg w))
  | 0x31 => some (.isetpi tile (wordImm w))
  | 0x32 => some (.fsetp tile (wordReg w))
  | 0x33 => some (.plop tile (wordReg w))
  | 0x34 => some (.vote tile (wordReg w))
  | 0x40 => some (.fadd tile (wordReg w))
  | 0x41 => some (.fmul tile (wordReg w))
  | 0x42 => some (.ffma tile (wordReg w))
  | 0x43 => some (.fmin tile (wordReg w))
  | 0x44 => some (.fmax tile (wordReg w))
  | 0x45 => some (.frcp tile (wordReg w))
  | 0x46 => some (.frsq tile (wordReg w))
  | 0x47 => some (.fsqrt tile (wordReg w))
  | 0x48 => some (.fexp2 tile (wordReg w))
  | 0x49 => some (.flog2 tile (wordReg w))
  | 0x4A => some (.fsin tile (wordReg w))
  | 0x4B => some (.fcos tile (wordReg w))
  | 0x4C => some (.hadd2 tile (wordReg w))
  | 0x4D => some (.hmul2 tile (wordReg w))
  | 0x4E => some (.hfma2 tile (wordReg w))
  | 0x4F => some (.cvt tile (wordReg w))
  | 0x60 => some (.shfl tile (wordReg w))
  | 0x61 => some (.redux tile (wordReg w))
  | 0x62 => some (.scanx tile (wordReg w))
  | 0x70 => some (.ldl tile (wordMem w))
  | 0x71 => some (.stl tile (wordMem w))
  | 0x72 => some (.atoml tile (wordMem w))
  | 0x73 => some (.ld tile (wordMem w))
  | 0x74 => some (.st tile (wordMem w))
  | 0x75 => some (.atom tile (wordMem w))
  | 0x76 => some (.gather tile (wordMem w))
  | 0x77 => some (.scatter tile (wordMem w))
  | 0x78 => some (.fence tile (wordSpc w))
  | 0x80 => some (.bra tile (wordBrn w))
  | 0x81 => some (.brx tile (wordBrn w))
  | 0x82 => some (.call tile (wordBrn w))
  | 0x83 => some (.ret tile (wordBrn w))
  | 0x84 => some (.exit tile (wordBrn w))
  | 0x85 => some (.bar tile (wordSpc w))
  | 0x90 => some (.evsig tile (wordSpc w))
  | 0x91 => some (.evwait tile (wordSpc w))
  | 0x92 => some (.evpoll tile (wordSpc w))
  | 0xA0 => some (.trace tile (wordSpc w))
  | 0xA1 => some (.traceq tile (wordSpc w))
  | 0xA2 => some (.phase tile (wordSpc w))
  | 0xB0 => some (.sacq tile (wordSpc w))
  | 0xB1 => some (.srel tile (wordSpc w))
  | 0xB8 => some (.chop tile (wordSpc w))
  | 0xB9 => some (.chwait tile (wordSpc w))
  | _ => none

/-- The command that a 32-bit word of a TCU slot is; none where R331 assigns its opcode nothing, and for STREAM (0x37), whose two
commands are told apart by the descriptor in local memory. -/
def decodeTcu (tile slot w : Nat) : Option Instr :=
  match bits w 26 6 with
  | 0x01 => some (.tcuAdd tile slot (wordTa w))
  | 0x02 => some (.tcuSub tile slot (wordTa w))
  | 0x03 => some (.tcuAnd tile slot (wordTa w))
  | 0x04 => some (.tcuOr tile slot (wordTa w))
  | 0x05 => some (.tcuXor tile slot (wordTa w))
  | 0x06 => some (.tcuShl tile slot (wordTa w))
  | 0x07 => some (.tcuShr tile slot (wordTa w))
  | 0x08 => some (.tcuSar tile slot (wordTa w))
  | 0x09 => some (.tcuMul tile slot (wordTa w))
  | 0x0A => some (.tcuSlt tile slot (wordTa w))
  | 0x0B => some (.tcuSltu tile slot (wordTa w))
  | 0x10 => some (.tcuAddi tile slot (wordTi w))
  | 0x11 => some (.tcuAndi tile slot (wordTi w))
  | 0x12 => some (.tcuOri tile slot (wordTi w))
  | 0x13 => some (.tcuXori tile slot (wordTi w))
  | 0x14 => some (.tcuLui tile slot (wordTi w))
  | 0x15 => some (.tcuShli tile slot (wordTi w))
  | 0x16 => some (.tcuShri tile slot (wordTi w))
  | 0x17 => some (.tcuSari tile slot (wordTi w))
  | 0x18 => some (.tcuLdw tile slot (wordTi w))
  | 0x19 => some (.tcuStw tile slot (wordTi w))
  | 0x1A => some (.tcuLdv tile slot (wordTi w))
  | 0x1B => some (.tcuStv tile slot (wordTi w))
  | 0x20 => some (.tcuBeq tile slot (wordTb w))
  | 0x21 => some (.tcuBne tile slot (wordTb w))
  | 0x22 => some (.tcuBlt tile slot (wordTb w))
  | 0x23 => some (.tcuBge tile slot (wordTb w))
  | 0x24 => some (.tcuBltu tile slot (wordTb w))
  | 0x25 => some (.tcuBgeu tile slot (wordTb w))
  | 0x26 => some (.tcuJal tile slot (wordTj w))
  | 0x27 => some (.tcuJr tile slot (wordTa w))
  | 0x28 => some (.tcuSave tile slot (wordTs w))
  | 0x29 => some (.tcuRestore tile slot (wordTs w))
  | 0x2A => some (.tcuTret tile slot (wordTs w))
  | 0x2B => some (.tcuHret tile slot (wordTs w))
  | 0x30 => some (.tcuSend tile slot (wordTs w))
  | 0x31 => some (.tcuRecv tile slot (wordTs w))
  | 0x32 => some (.tcuRecvw tile slot (wordTs w))
  | 0x33 => some (.tcuPlace tile slot (wordTs w))
  | 0x34 => some (.tcuStartb tile slot (wordTs w))
  | 0x35 => some (.tcuWaitb tile slot (wordTs w))
  | 0x36 => some (.tcuRetire tile slot (wordTs w))
  | 0x38 => some (.tcuTevsig tile slot (wordTs w))
  | 0x39 => some (.tcuRdsr tile slot (wordTs w))
  | 0x3A => some (.tcuWrsr tile slot (wordTs w))
  | 0x3B => some (.tcuFence tile slot (wordTs w))
  | 0x3C => some (.tcuWrd tile slot (wordTs w))
  | 0x3D => some (.tcuWwr tile slot (wordTs w))
  | 0x3F => some (.tcuEnd tile slot (wordTs w))
  | _ => none

/-! ## The words of the commands -/

/-- The tile and the word of a thread engine command; none for every other command. -/
def Instr.threadWord? : Instr → Option (Nat × Nat)
  | .nop tile f => some (tile, encSpc 0x01 f)
  | .movi tile f => some (tile, encImm 0x02 f)
  | .mov tile f => some (tile, encReg 0x03 f)
  | .sel tile f => some (tile, encReg 0x04 f)
  | .rdspec tile f => some (tile, encSpc 0x05 f)
  | .iadd tile f => some (tile, encReg 0x10 f)
  | .isub tile f => some (tile, encReg 0x11 f)
  | .imul tile f => some (tile, encReg 0x12 f)
  | .imulhi tile f => some (tile, encReg 0x13 f)
  | .imad tile f => some (tile, encReg 0x14 f)
  | .imin tile f => some (tile, encReg 0x15 f)
  | .imax tile f => some (tile, encReg 0x16 f)
  | .and tile f => some (tile, encReg 0x17 f)
  | .or tile f => some (tile, encReg 0x18 f)
  | .xor tile f => some (tile, encReg 0x19 f)
  | .shl tile f => some (tile, encReg 0x1A f)
  | .shr tile f => some (tile, encReg 0x1B f)
  | .sar tile f => some (tile, encReg 0x1C f)
  | .popc tile f => some (tile, encReg 0x1D f)
  | .clz tile f => some (tile, encReg 0x1E f)
  | .brev tile f => some (tile, encReg 0x1F f)
  | .iaddi tile f => some (tile, encImm 0x20 f)
  | .isubi tile f => some (tile, encImm 0x21 f)
  | .imuli tile f => some (tile, encImm 0x22 f)
  | .imulhii tile f => some (tile, encImm 0x23 f)
  | .imini tile f => some (tile, encImm 0x25 f)
  | .imaxi tile f => some (tile, encImm 0x26 f)
  | .andi tile f => some (tile, encImm 0x27 f)
  | .ori tile f => some (tile, encImm 0x28 f)
  | .xori tile f => some (tile, encImm 0x29 f)
  | .shli tile f => some (tile, encImm 0x2A f)
  | .shri tile f => some (tile, encImm 0x2B f)
  | .sari tile f => some (tile, encImm 0x2C f)
  | .isetp tile f => some (tile, encReg 0x30 f)
  | .isetpi tile f => some (tile, encImm 0x31 f)
  | .fsetp tile f => some (tile, encReg 0x32 f)
  | .plop tile f => some (tile, encReg 0x33 f)
  | .vote tile f => some (tile, encReg 0x34 f)
  | .fadd tile f => some (tile, encReg 0x40 f)
  | .fmul tile f => some (tile, encReg 0x41 f)
  | .ffma tile f => some (tile, encReg 0x42 f)
  | .fmin tile f => some (tile, encReg 0x43 f)
  | .fmax tile f => some (tile, encReg 0x44 f)
  | .frcp tile f => some (tile, encReg 0x45 f)
  | .frsq tile f => some (tile, encReg 0x46 f)
  | .fsqrt tile f => some (tile, encReg 0x47 f)
  | .fexp2 tile f => some (tile, encReg 0x48 f)
  | .flog2 tile f => some (tile, encReg 0x49 f)
  | .fsin tile f => some (tile, encReg 0x4A f)
  | .fcos tile f => some (tile, encReg 0x4B f)
  | .hadd2 tile f => some (tile, encReg 0x4C f)
  | .hmul2 tile f => some (tile, encReg 0x4D f)
  | .hfma2 tile f => some (tile, encReg 0x4E f)
  | .cvt tile f => some (tile, encReg 0x4F f)
  | .shfl tile f => some (tile, encReg 0x60 f)
  | .redux tile f => some (tile, encReg 0x61 f)
  | .scanx tile f => some (tile, encReg 0x62 f)
  | .ldl tile f => some (tile, encMem 0x70 f)
  | .stl tile f => some (tile, encMem 0x71 f)
  | .atoml tile f => some (tile, encMem 0x72 f)
  | .ld tile f => some (tile, encMem 0x73 f)
  | .st tile f => some (tile, encMem 0x74 f)
  | .atom tile f => some (tile, encMem 0x75 f)
  | .gather tile f => some (tile, encMem 0x76 f)
  | .scatter tile f => some (tile, encMem 0x77 f)
  | .fence tile f => some (tile, encSpc 0x78 f)
  | .bra tile f => some (tile, encBrn 0x80 f)
  | .brx tile f => some (tile, encBrn 0x81 f)
  | .call tile f => some (tile, encBrn 0x82 f)
  | .ret tile f => some (tile, encBrn 0x83 f)
  | .exit tile f => some (tile, encBrn 0x84 f)
  | .bar tile f => some (tile, encSpc 0x85 f)
  | .evsig tile f => some (tile, encSpc 0x90 f)
  | .evwait tile f => some (tile, encSpc 0x91 f)
  | .evpoll tile f => some (tile, encSpc 0x92 f)
  | .trace tile f => some (tile, encSpc 0xA0 f)
  | .traceq tile f => some (tile, encSpc 0xA1 f)
  | .phase tile f => some (tile, encSpc 0xA2 f)
  | .sacq tile f => some (tile, encSpc 0xB0 f)
  | .srel tile f => some (tile, encSpc 0xB1 f)
  | .chop tile f => some (tile, encSpc 0xB8 f)
  | .chwait tile f => some (tile, encSpc 0xB9 f)
  | _ => none

/-- The tile, the slot and the word of a TCU command other than STREAM; none for every other command. -/
def Instr.tcuWord? : Instr → Option (Nat × Nat × Nat)
  | .tcuAdd tile slot f => some (tile, slot, encTa 0x01 f)
  | .tcuSub tile slot f => some (tile, slot, encTa 0x02 f)
  | .tcuAnd tile slot f => some (tile, slot, encTa 0x03 f)
  | .tcuOr tile slot f => some (tile, slot, encTa 0x04 f)
  | .tcuXor tile slot f => some (tile, slot, encTa 0x05 f)
  | .tcuShl tile slot f => some (tile, slot, encTa 0x06 f)
  | .tcuShr tile slot f => some (tile, slot, encTa 0x07 f)
  | .tcuSar tile slot f => some (tile, slot, encTa 0x08 f)
  | .tcuMul tile slot f => some (tile, slot, encTa 0x09 f)
  | .tcuSlt tile slot f => some (tile, slot, encTa 0x0A f)
  | .tcuSltu tile slot f => some (tile, slot, encTa 0x0B f)
  | .tcuAddi tile slot f => some (tile, slot, encTi 0x10 f)
  | .tcuAndi tile slot f => some (tile, slot, encTi 0x11 f)
  | .tcuOri tile slot f => some (tile, slot, encTi 0x12 f)
  | .tcuXori tile slot f => some (tile, slot, encTi 0x13 f)
  | .tcuLui tile slot f => some (tile, slot, encTi 0x14 f)
  | .tcuShli tile slot f => some (tile, slot, encTi 0x15 f)
  | .tcuShri tile slot f => some (tile, slot, encTi 0x16 f)
  | .tcuSari tile slot f => some (tile, slot, encTi 0x17 f)
  | .tcuLdw tile slot f => some (tile, slot, encTi 0x18 f)
  | .tcuStw tile slot f => some (tile, slot, encTi 0x19 f)
  | .tcuLdv tile slot f => some (tile, slot, encTi 0x1A f)
  | .tcuStv tile slot f => some (tile, slot, encTi 0x1B f)
  | .tcuBeq tile slot f => some (tile, slot, encTb 0x20 f)
  | .tcuBne tile slot f => some (tile, slot, encTb 0x21 f)
  | .tcuBlt tile slot f => some (tile, slot, encTb 0x22 f)
  | .tcuBge tile slot f => some (tile, slot, encTb 0x23 f)
  | .tcuBltu tile slot f => some (tile, slot, encTb 0x24 f)
  | .tcuBgeu tile slot f => some (tile, slot, encTb 0x25 f)
  | .tcuJal tile slot f => some (tile, slot, encTj 0x26 f)
  | .tcuJr tile slot f => some (tile, slot, encTa 0x27 f)
  | .tcuSave tile slot f => some (tile, slot, encTs 0x28 f)
  | .tcuRestore tile slot f => some (tile, slot, encTs 0x29 f)
  | .tcuTret tile slot f => some (tile, slot, encTs 0x2A f)
  | .tcuHret tile slot f => some (tile, slot, encTs 0x2B f)
  | .tcuSend tile slot f => some (tile, slot, encTs 0x30 f)
  | .tcuRecv tile slot f => some (tile, slot, encTs 0x31 f)
  | .tcuRecvw tile slot f => some (tile, slot, encTs 0x32 f)
  | .tcuPlace tile slot f => some (tile, slot, encTs 0x33 f)
  | .tcuStartb tile slot f => some (tile, slot, encTs 0x34 f)
  | .tcuWaitb tile slot f => some (tile, slot, encTs 0x35 f)
  | .tcuRetire tile slot f => some (tile, slot, encTs 0x36 f)
  | .tcuTevsig tile slot f => some (tile, slot, encTs 0x38 f)
  | .tcuRdsr tile slot f => some (tile, slot, encTs 0x39 f)
  | .tcuWrsr tile slot f => some (tile, slot, encTs 0x3A f)
  | .tcuFence tile slot f => some (tile, slot, encTs 0x3B f)
  | .tcuWrd tile slot f => some (tile, slot, encTs 0x3C f)
  | .tcuWwr tile slot f => some (tile, slot, encTs 0x3D f)
  | .tcuEnd tile slot f => some (tile, slot, encTs 0x3F f)
  | _ => none

end Sys2Proof
end

