-- ==== Sys2Proof/Machine/Kill.lean ====
section
/-! DEFINITION. Abort codes, queue errors, the acceptance of faults and the start of a kill (R15–R19, R57–R59, R69–R78,
R883, R884, R886). -/
namespace Sys2Proof.Machine

/-! ## Abort codes (R725) -/
def acInvalidRequest : Nat := 0x01000001
def acObjectMissing : Nat := 0x01000002
def acSubMissing : Nat := 0x01000003
def acAccessRo : Nat := 0x01000004
def acAccessWo : Nat := 0x01000005
def acTypeLength : Nat := 0x01000006
def acOffsetRange : Nat := 0x01000007
def acSegmentOrder : Nat := 0x01000008
def acLocked : Nat := 0x0300000A
def acStopped : Nat := 0x03000008
def acCommitSequence : Nat := 0x03000006
def acCommitFull : Nat := 0x03000007
def acValueRange : Nat := 0x02000001
def acValueReserved : Nat := 0x02000002
def acFractionSum : Nat := 0x02000003
def acWaymaskOverlap : Nat := 0x02000004
def acResidencyInvalid : Nat := 0x02000005
def acObjectPending : Nat := 0x03000001
def acStateConflict : Nat := 0x03000005
def acDrainBusy : Nat := 0x03000003
def acDrainTimeout : Nat := 0x03000002
def acDrainAbortedStop : Nat := 0x03000004
def acNotReady : Nat := 0x03000009
def acBridgeTimeout : Nat := 0x04000001
def acBridgeFailed : Nat := 0x04000002
def acBridgeBusy : Nat := 0x04000003

/-! ## Queue errors (R57, R58, R63) -/
def qeBadOpcode : Nat := 0x01
def qeReservedField : Nat := 0x02
def qeBadContext : Nat := 0x03
def qeBadPlacement : Nat := 0x04
def qeFetchFault : Nat := 0x05
def qeBadTail : Nat := 0x06

/-- A queue halts with an error and sends MSI-X on its error vector (R58, R63). -/
def State.queueError (s : State) (q code : Nat) : State :=
  let x := s.queue q
  (s.updQueue q fun x => { x with errCode := code, halted := true, errSeen := true }).msix (some x.part) x.errVec

/-- A started command of a queue has failed: the queue halts, and the command stays outstanding until RESUME retries or SKIP drops it
(R58, R59). -/
def State.waitFails (s : State) (id q code : Nat) : State :=
  (s.updCm fun m => { m with waits := m.waits.map fun (w : Wait) => if w.id == id then { w with failed := true } else w }).queueError q code

/-- A started command of a queue ends: with `done` its SEQ is the completed one (R55, R58). -/
def State.queueDone (s : State) (q id seq : Nat) (done : Bool) : State :=
  s.updQueue q fun x =>
    { x with outstanding := x.outstanding.filter (·.id != id), done := if done then seq else x.done }

/-! ## Faults and kills -/

/-- HOST_KILL and COOLANT_STOP are not raised by the context's own work (R18). -/
def FaultInfo.own (f : FaultInfo) : Bool := f.code != 0x0F && f.code != 0x11

/-- a ranks before b among faults of one cycle (R17). -/
def FaultInfo.before (a b : FaultInfo) : Bool :=
  let ka := if a.tile != 0xFFFF then [0, a.tile, a.code] else [1, a.unit, a.unitId, a.code]
  let kb := if b.tile != 0xFFFF then [0, b.tile, b.code] else [1, b.unit, b.unitId, b.code]
  ka < kb

/-- The first of a list of faults (R17). -/
def firstFault : List FaultInfo → Option FaultInfo
  | [] => none
  | a :: r =>
    match firstFault r with
    | none => some a
    | some b => if b.before a then some b else some a

/-- A context's first fault is accepted: its record is formed, the event logged, and the context is KILLING (R71, R72, R74, R76,
R754). -/
def State.record (s : State) (f : FaultInfo) (secondary : Nat) : State :=
  let x := s.ctx f.ctx
  let seq := (s.cm.faultSeq + 1) % 2 ^ 32
  let r : FaultRec :=
    { info := f, secondary := min secondary 255, time := s.now, partition := x.part, gen := s.cm.applyGen, seq := seq }
  let s := s.updCm fun m =>
    { m with faultSeq := seq, ctxKills := m.ctxKills + 1
             eventDeadlocks := if f.code == 0x08 then m.eventDeadlocks + 1 else m.eventDeadlocks }
  let s := s.updCtx f.ctx fun x => { x with state := .killing, ran := x.state == .running, record := some r, quietSince := none }
  s.logEvent 0x0001 f.unit 2 (toLe 1 f.ctx ++ toLe 1 f.code ++ toLe 2 f.tile)

/-- A partition's network blocks leave every weight cache (R372). -/
def State.nwcDrop (s : State) (part : Nat) : State :=
  s.updTiles fun t => { t with chs := { t.chs with nwc := t.chs.nwc.filter (·.part != part) } }

/-- A kill sequence starts with a fault; the context's WAITs end with BAD_CONTEXT, and its partition's blocks leave the neural weight
caches (R59, R71, R72, R372). -/
def State.startKill (s : State) (f : FaultInfo) (secondary : Nat) : State :=
  let ws := s.cm.waits.filter fun w => w.ctx == f.ctx && !w.failed
  ((s.record f secondary).nwcDrop (s.ctx f.ctx).part).each ws fun w s => s.waitFails w.id w.queue qeBadContext

/-- The faults of one context that reach the context manager in one cycle: in READY or RUNNING the first of them kills
(R17, R71) and the others count as secondary; in KILLING they count as secondary; in DEAD or FREE they are discarded and
counted (R18, R19, R73). -/
def State.acceptFor (s : State) (c : Nat) (fs : List FaultInfo) : State :=
  match (s.ctx c).state with
  | .killing =>
    let n := (fs.filter FaultInfo.own).length
    s.updCtx c fun x => { x with record := x.record.map fun r => { r with secondary := min (r.secondary + n) 255 } }
  | .dead => s.updCm fun m => { m with lateArrivals := m.lateArrivals + (fs.filter FaultInfo.own).length }
  | .free => s.updCm fun m => { m with lateArrivals := m.lateArrivals + (fs.filter FaultInfo.own).length }
  | _ =>
    match firstFault fs with
    | none => s
    | some f =>
      s.startKill f ((fs.erase f).filter FaultInfo.own).length

/-- Faults that reach the context manager in one cycle, context by context (R17–R19). -/
def State.acceptFaults (s : State) (fs : List FaultInfo) : State :=
  s.each (fs.map (·.ctx)).eraseDups fun c s => s.acceptFor c (fs.filter (·.ctx == c))

/-- The fault of a kill by the host (R883, UNIT 7) or on intrusion (UNIT 6). -/
def hostKill (c unit : Nat) : FaultInfo := { code := 0x0F, ctx := c, unit := unit }

/-- FAULT_ARRIVAL: the n oldest faults under way reach the context manager in one cycle, a coolant stop or not, which gates no clock of the
context manager (R17–R19, R71, R73, R594). -/
def execFaultArrival (n : Nat) (s : State) : Out :=
  .next (if !s.powered then s else
    (s.updCm fun m => { m with faultQ := m.faultQ.drop n }).acceptFaults (s.cm.faultQ.take n))

/-! ## The record in memory (R76, R77) -/

/-- The IEEE 802.3 CRC-32 of bytes, bit by bit. -/
def crcStep (c : Nat) : Nat := if c % 2 == 1 then (c / 2) ^^^ 0xEDB88320 else c / 2
def crc32 (l : List Byte) : Nat :=
  (l.foldl (fun c b => (List.range 8).foldl (fun c _ => crcStep c) (c ^^^ b.toNat)) 0xFFFFFFFF) ^^^ 0xFFFFFFFF

/-- The 64 bytes of a fault record (R76, R77). -/
def FaultRec.bytes (r : FaultRec) : List Byte :=
  let f := r.info
  let body := toLe 1 f.code ++ toLe 1 r.secondary ++ toLe 2 f.tile ++ toLe 1 f.unit ++ toLe 1 f.lane ++ toLe 1 f.group
    ++ toLe 1 f.ctx ++ toLe 8 f.pc ++ toLe 8 f.addr ++ toLe 8 f.insn ++ toLe 8 r.time ++ toLe 4 f.detail ++ toLe 2 f.unitId
    ++ toLe 1 r.partition ++ toLe 1 f.valid ++ toLe 4 r.gen ++ toLe 3 f.tag ++ toLe 1 0 ++ toLe 4 r.seq
  body ++ toLe 4 (crc32 body)

/-- A context's copy of its record: zeros where it has none (R69). -/
def Ctx.recordBytes (x : Ctx) : List Byte := (x.record.map (·.bytes)).getD (List.replicate 64 0)

end Sys2Proof.Machine
end

