-- ==== Sys2Proof/Machine/Cmd.lean ====
section
/-! DEFINITION. What a request ends with: the mailbox, the abort of a command, the refusal of a drain (R97, R98, R707, R710, R714, R725,
R729, R736, R815, R853, R886). -/
namespace Sys2Proof.Machine

def State.updSmp (s : State) (f : Smp → Smp) : State := { s with smp := f s.smp }
def State.updSec (s : State) (f : Sec → Sec) : State := { s with sec := f s.sec }
def State.updBoot (s : State) (f : Boot → Boot) : State := { s with boot := f s.boot }
def State.updLoop (s : State) (f : LoopTest → LoopTest) : State := { s with loop := f s.loop }
def State.updCommits (s : State) (f : Commits → Commits) : State := s.updSmp fun x => { x with commits := f x.commits }

/-! ## The mailbox (R707, R712, R714) -/

/-- Replaced mailbox states that a snapshot may still show at a time: those whose successor is younger than 100 ns (R707). -/
def pruneMail (now : Nat) : Mailbox → List Mailbox → List Mailbox
  | _, [] => []
  | successor, m :: l => if successor.since + 100 > now then m :: pruneMail now m l else []

/-- The mailbox changes. -/
def State.setMail (s : State) (m : Mailbox) : State :=
  s.updSmp fun x => { x with old := pruneMail s.now m (x.mail :: x.old), mail := { m with since := s.now } }

/-- The mailbox as it stood 100 ns before (R707). -/
def Smp.snapshot (x : Smp) (now : Nat) : Mailbox :=
  ((x.mail :: x.old).find? fun m => m.since + 100 ≤ now).getD ((x.mail :: x.old).getLastD {})

/-- The request that shows PENDING ends with a final status (R712, R714): `code` 0 is OK. -/
def State.mailEnd (s : State) (code typ total : Nat) (data : List Byte) : State :=
  if s.smp.mail.status != 3 then s
  else
    (s.setMail { s.smp.mail with
      status := if code == 0 then 1 else 2
      typ := typ, total := total, gen := s.cm.applyGen
      data := if code == 0 then data else toLe 4 code }).updSmp fun x => { x with job := none, waits := false }

/-! ## Refusals -/

/-- Whether an abort code is kept in LAST_ABORT (R886). -/
def keepsAbort (code : Nat) : Bool :=
  [acStopped, acCommitSequence, acCommitFull, acValueRange, acValueReserved, acFractionSum, acWaymaskOverlap, acResidencyInvalid,
    acObjectPending, acStateConflict, acDrainBusy, acDrainTimeout, acDrainAbortedStop].contains code

/-- A change ends with an abort code, 0 for none (R886). -/
def State.refuse (s : State) (code : Nat) : State := if keepsAbort code then s.abort code else s

/-- A drain in progress is refused: nothing of it is applied, its hold ends, and what started it is told (R95, R97, R714, R727, R754,
R853). -/
def State.drainRefuse (s : State) (code : Nat) : State :=
  match s.cm.drain with
  | none => s
  | some d =>
    let counted := code == acDrainTimeout || code == acDrainAbortedStop
    let s := (s.updCm fun m => { m with drain := none, drainRefusals := m.drainRefusals + (if counted then 1 else 0) }).refuse code
    let s := match d.act with
      | .settings _ true =>
        (s.updCommits fun x => { x with result := code, failMember := 0 }).logEvent 0x0011 6 1 (toLe 4 code ++ toLe 4 0)
      | .settings _ false => s.logEvent 0x0010 6 1 (toLe 4 code)
      | .key _ _ => (s.updSec fun x => { x with busy := false, result := 6 }).logEvent 0x0010 6 1 (toLe 4 code)
    if s.smp.waits then s.mailEnd code s.smp.mail.typ s.smp.mail.total [] else s

/-! ## Commands of the dictionary -/

/-- The sideband engine serves requests (R712, R736, R815). -/
def State.serving (s : State) : Bool :=
  match s.phase with
  | .rom => true
  | .ready => true
  | .down => true
  | _ => false

/-- The indices that ROM mode serves (R815). -/
def romServes (index : Nat) : Bool :=
  (0x1000 ≤ index && index ≤ 0x11FF) || (0x6000 ≤ index && index ≤ 0x6FFF) || (0x7000 ≤ index && index ≤ 0x7FFF)

/-- How the block behind an object is clock-gated (R585, R594): 0 never (sideband engine, PCIe endpoint), 1 by a thermal trip only (context manager, power
manager, HBM controllers, security block), 2 by a coolant stop too (device cache, stream engine, Armatures, ray sorters, ports). -/
def gateOf (index : Nat) : Nat :=
  if index < 0x2000 || index == 0x2090 || (0x6000 ≤ index && index < 0x7200) then 0
  else if 0x4000 ≤ index && index < 0x5400 then 2
  else 1

/-- The blocks behind an object are clock-gated now (R585, R593, R594, R722). -/
def State.gatedNow (s : State) (gate : Nat) : Bool := (gate ≥ 1 && s.pwr.thermtrip) || (gate == 2 && s.stopped)

/-- The first check that fails of a CMD write that has passed the checks of form, in the order of R725; `bad`: VALUE_RANGE or
VALUE_RESERVED where the value is not one that the object takes (R722, R729, R736, R815). -/
def State.cmdCheck (s : State) (index gate : Nat) (bad : Nat) : Nat :=
  if s.gatedNow gate then acStopped
  else if s.smp.commits.build.isSome && index != 0x1F00 then acCommitSequence
  else if bad != 0 then bad
  else if s.phase == .down || (s.phase == .rom && !romServes index) then acStateConflict
  else 0

/-- The mailbox shows the end of a WRITE of an object, if that is the request being performed (R714). -/
def State.answerWrite (s : State) (index sub code typ total : Nat) : State :=
  match s.smp.job with
  | some r => if r.op == 2 && r.index == index && r.sub == sub then s.mailEnd code typ total [] else s
  | none => s

/-- A CMD write: its checks, its action, which answers an abort code or 0, and its end (R714, R725, R886). -/
def State.command (s : State) (index sub typ total gate : Nat) (bad : Nat) (act : State → State × Nat) : State :=
  if !s.serving then s
  else
    let code := s.cmdCheck index gate bad
    let (s, code) := if code == 0 then act s else (s, code)
    (s.refuse code).answerWrite index sub code typ total

/-! ## Loopbacks -/

/-- The running loopback ends with LoopbackState `st`: the stack leaves loopback, the port is ADMIN_DOWN (R839, R841). -/
def State.loopHalt (s : State) (st : Nat) : State :=
  if s.loop.state != 1 then s
  else
    let l := s.loop
    let s := s.updLoop fun x => { x with state := st }
    if l.depth == 3 || l.depth == 4 then
      { s with hbm := { s.hbm with stackList := s.hbm.stackList.modify l.inst fun x => { x with loopback := 0 } } }
    else if l.depth ≥ 5 then
      { s with fab := { s.fab with ports := s.fab.ports.modify l.inst fun x => if x.state == 6 then { x with state := 3 } else x } }
    else s

/-- The value of a CMD of one byte is reserved unless it is this one. -/
def reservedUnless (ok : Bool) : Nat := if ok then 0 else acValueReserved

end Sys2Proof.Machine
end

