-- ==== Sys2Proof/Machine/Quiet.lean ====
section
/-! DEFINITION. What work of a context is in flight: for drains (R87, R93) and for the event deadlock window (R79–R82). -/
namespace Sys2Proof.Machine

/-- Something anywhere on the chip satisfies a test over tiles. -/
def State.anyTile (s : State) (f : Tile → Bool) : Bool := s.tiles.any f

/-- Stores of a context that have not reached their point (R188). -/
def State.buffered (s : State) (c : Nat) : Bool :=
  s.anyTile (fun t => t.sb.any (·.ctxs.contains c)) || s.mem.hwb.any (·.ctxs.contains c)

/-- Requests of a context to memory that are outstanding. -/
def State.outstanding (s : State) (c : Nat) : Bool :=
  s.anyTile (fun t => t.loads.any (·.ctx == c)) || s.cm.copies.any fun k => k.ctx == c && !k.failed

/-- Mesh messages of a context in flight or queued. -/
def State.messages (s : State) (c : Nat) : Bool :=
  s.anyTile fun t => t.tcus.any fun u => u.ctx == c && u.state != .free && (u.sending.isSome || !u.queue.isEmpty)

/-- A TCU slot that serves a context and is not held in PLACE counts as work (log 17). -/
def Tcu.working (u : Tcu) (c : Nat) : Bool :=
  u.ctx == c && match u.state with
    | .free => false
    | .waitPlace _ => false
    | _ => true

/-- Rays, hits, sample batches, stream transfers and lines, and fabric requests and messages of a context in flight or queued (R79,
R688). A packet that a port holds on its way to another chip is none of this chip's contexts'. -/
def State.engines (s : State) (c : Nat) : Bool :=
  (s.srt.units.any fun u => u.slots.any (·.ctx == c) || u.held.any fun h => h.rays.any (·.ctx == c))
    || s.anyTile (fun t => t.chs.batches.any (·.ctx == c) || t.chs.run.any (·.batch.ctx == c) || t.port.lines.any (·.ctx == c))
    || s.bus.flight.any (·.batch.ctx == c) || s.bus.refused.any (·.ctx == c) || s.bus.replies.any (·.ctx == c)
    || s.str.streams.any (fun x => x.ctx == c && x.xfer.isSome)
    || s.fab.entries.any (·.ctx == c) || s.fab.self.any (·.dctx == c)
    || s.fab.ports.any fun p => p.inq.any fun k => k.dctx == c && k.dst == s.fab.chipId

/-- Work of a context that has been placed or started and has not ended. -/
def State.working (s : State) (c : Nat) : Bool :=
  s.anyTile (fun t => t.blocks.any (·.ctx == c) || t.tcus.any (·.working c))
    || s.buffered c || s.outstanding c || s.messages c || s.engines c

/-- A context has work in flight (R87, R93, R96): a context being killed until its kill sequence ends, a live one while it has blocks, TCU
slots, rays, streams, messages, stores, loads or copies; a FREE or DEAD one has none: what still arrives for it is discarded (R73). -/
def State.inFlight (s : State) (c : Nat) : Bool :=
  (s.ctx c).state == .killing || (s.live c && s.working c)

/-- The contexts of a drain scope (R87). -/
def State.scope (s : State) (d : Drain) : List Nat :=
  (List.range 64).filter fun c => d.all || ((s.ctx c).state != .free && d.parts.contains (s.ctx c).part)

/-- A thread waits in EVWAIT on a source internal to its context (R261). -/
def Lane.internalWait (l : Lane) : Bool :=
  match l.wait with
  | .evwait id _ _ _ => id < 32
  | _ => false

/-- A TCU slot idle in its receive wait (R317). -/
def Tcu.idle (u : Tcu) : Bool :=
  match u.state with
  | .waitRecv _ => u.queue.isEmpty
  | .waitBlock _ => true
  | .waitEnd => true
  | .waitPlace _ => true
  | _ => false

/-- The conditions of R79 for an event deadlock hold now; a waiting block for which its tile has room counts as live (R81). -/
def State.quiet (s : State) (c : Nat) : Bool :=
  let lanes (t : Tile) : List Lane := (t.groups.filter fun g => (t.block? g.bslot).any (·.ctx == c)).flatMap fun g =>
    g.lanes.filterMap id
  let live (l : Lane) : Bool := !(l.wait == .exited)
  let threads := s.tiles.flatMap fun t => (lanes t).filter live
  let slots := s.tiles.flatMap fun t => t.tcus.filter fun u => u.ctx == c && u.state != .free
  let placeable := (List.range 144).any fun i => (s.tile i).waiting.any fun w => w.ctx == c && s.roomFor i w
  (!threads.isEmpty || !slots.isEmpty) && threads.all Lane.internalWait && slots.all Tcu.idle
    && !placeable && !s.messages c && !s.engines c && !s.outstanding c && (s.ctx c).hostevArm == 0

/-- The quiet window of a context is brought up to date: it starts when the conditions hold and ends when they do not
(R82). -/
def State.watch (s : State) (c : Nat) : State :=
  let q := s.quiet c
  s.updCtx c fun x => { x with quietSince := if q then some (x.quietSince.getD s.now) else none }

/-- CTX_DLK_WINDOW: µs in the current quiet window. -/
def State.dlkWindow (s : State) (c : Nat) : Nat :=
  match (s.ctx c).quietSince with
  | none => 0
  | some t => (s.now - t) / 1000

end Sys2Proof.Machine
end

