-- ==== Sys2Proof/Machine/Queue.lean ====
section
/-! DEFINITION. Command queues: doorbells, starting a command (R52–R60), and the meanings of NOP, LAUNCH, WAIT, SIGNAL, COPY
and KILL with their completions (R54–R70, R125, R290–R292). -/
namespace Sys2Proof.Machine

/-- Commands a ring holds (R61). -/
def HostQ.size (q : HostQ) : Nat := 2 ^ (q.log2 + 6)

/-- Commands waiting between head and tail. -/
def HostQ.waiting (q : HostQ) : Nat := (q.tail + q.size - q.head) % q.size

/-- DOORBELL: a write of 2, 4 or 8 bytes at offset 0 of a queue's page sets its tail; a tail outside the ring, or behind the
recorded one as seen from the head, halts the queue with BAD_TAIL; any other write is dropped and counted; during a coolant
stop doorbells are dropped; a read of the page returns 0 (R51, R52, R594, R617, R625). DESIGN CHOICE (log 132): a tail equal to the head while commands wait counts as past
the head. -/
def execDoorbell (fn q offset size : Nat) (val : Option DWord) (s : State) : Out :=
  .next (match val with
  | none =>
    if !(s.phase == .ready || s.phase == .down) || fn > 32 then s
    else s.reply (if s.hst.d3.getD fn false then .unsupported else .data 0)
  | some val =>
    if !s.clocked || s.hst.vfFlr.getD fn false || s.hst.d3.getD fn false then s else
    let x := s.queue q
    if q ≥ 128 then (if fn == 0 then s else s.updHst fun h => { h with badAccess := h.badAccess + 1 })
    else if fn != 0 && (x.part + 1 != fn || !x.enable) then s
    else if offset != 0 || !(size == 2 || size == 4 || size == 8) then s.updHst fun h => { h with badAccess := h.badAccess + 1 }
    else if !x.enable then s
    else
      let tail := val.toNat % 65536
      let ahead := (tail + x.size - x.head) % x.size
      if tail ≥ x.size || ahead < x.waiting then s.queueError q qeBadTail
      else s.updQueue q fun x => { x with tail := tail })

/-- A command as its 64 bytes give it (R55). -/
structure Cmd where
  opcode : Nat
  ctx : Nat
  signal : Bool
  irq : Bool
  barrier : Bool
  seq : Nat
  raw : List Byte

def parseCmd (l : List Byte) : Cmd :=
  let h := field l 0 8
  { opcode := bits h 0 8, ctx := bits h 8 6, signal := bitAt h 16, irq := bitAt h 17, barrier := bitAt h 18
    seq := bits h 32 32, raw := l }

/-- All bytes of a run are 0. -/
def zeroBytes (l : List Byte) (lo n : Nat) : Bool := ((l.drop lo).take n).all (· == 0)

/-- A nonzero reserved bit or byte, a reserved value, or FLAGS 16 or 17 on an opcode other than LAUNCH and COPY (R55–R57, R60,
R64). A COPY byte count outside 1 to 2^40 is taken as a reserved value (log 18). -/
def Cmd.reserved (c : Cmd) : Bool :=
  let h := field c.raw 0 8
  let r := c.raw
  let head := bits h 14 2 != 0 || bits h 19 13 != 0 || ((c.signal || c.irq) && c.opcode != 1 && c.opcode != 5)
  head || match c.opcode with
  | 1 => !zeroBytes r 27 1 || bits (field r 30 1) 2 6 != 0 || bits (field r 31 1) 1 7 != 0
      || bits (field r 48 2) 11 5 != 0 || !zeroBytes r 52 12
  | 3 => field r 24 1 ≥ 2 || !zeroBytes r 25 39
  | 4 => bits (field r 24 2) 11 5 != 0 || bits (field r 26 1) 1 7 != 0 || !zeroBytes r 27 37
  | 5 => !zeroBytes r 35 5 || bits (field r 56 2) 11 5 != 0 || !zeroBytes r 58 6 || field r 24 8 == 0 || field r 24 8 > 2 ^ 40
  | _ => !zeroBytes r 8 56

/-- The 64 bytes of the queue's next command, at its base and head: read over PCIe for the VF of its partition where the queue lies in host
memory (`raw` is what the completion brought), or at the device cache under the partition's key slot (R45, R62, R621); none: they
cannot be read. -/
def State.fetchCmd (s : State) (q : Nat) (raw : List Byte) : State × Option (List Byte) :=
  let x := s.queue q
  if x.location == 0 then
    (s.post (.read (x.part + 1) (x.base + 64 * (x.head % x.size)) 64 q), if raw.length == 64 && s.hst.up then some raw else none)
  else if x.base + 64 * x.size > hbmEnd then (s, none)
  else
    let (m, l, p) := s.mem.read x.part (x.base + 64 * (x.head % x.size)) 64
    ({ s with mem := m }, if p then none else some l)

/-- A queue starts the command at its head if it is of this opcode: it must be enabled, not halted, of an enabled
partition, not empty; a BARRIER command and a SIGNAL wait for every earlier command (R51, R53); a drain holds the commands
of its contexts (R93); after a power-down command no queue starts one (R735). The checks of R57 come in order; the first that fails halts the queue. `eff` runs with the head past
the command; it answers an error code in place of a state to fail. -/
def runCmd (q opcode : Nat) (raw : List Byte) (eff : Cmd → State → State × Option Nat) (s : State) : State :=
  let x := s.queue q
  if !s.clocked || s.boot.powerDown != 0 || q ≥ 128 || !x.enable || x.halted || x.waiting == 0 || !(s.part x.part).enabled then s else
  let fail (s : State) (code : Nat) : State := (s.updQueue q fun x => { x with errAtHead := true }).queueError q code
  match s.fetchCmd q raw with
  | (s, none) => fail (if x.location == 0 then s.cplFailed 1 else s) qeFetchFault
  | (s1, some l) =>
    let c := parseCmd l
    if c.opcode != opcode && c.opcode ≤ 6 then s
    else if (c.barrier || c.opcode == 4) && !x.outstanding.isEmpty then s
    else if c.opcode > 6 then fail s1 qeBadOpcode
    else if c.reserved then fail s1 qeReservedField
    else
      let named := c.opcode != 0 && c.opcode != 2
      if named && ((s1.ctx c.ctx).part != x.part || !s1.live c.ctx) then fail s1 qeBadContext
      else if named && s1.held c.ctx then s
      else
        match eff c s1 with
        | (s2, some code) => fail s2 code
        | (s2, none) => s2.updQueue q fun x => { x with head := (x.head + 1) % x.size, errAtHead := false }

/-- A command that has started, until it completes (R53). -/
def State.startOutst (s : State) (q seq : Nat) : Nat × State :=
  let (id, s) := s.fresh
  (id, s.updQueue q fun x => { x with outstanding := x.outstanding ++ [⟨seq, id⟩] })

/-- A context with a started command is RUNNING (R69). -/
def State.ctxRun (s : State) (c : Nat) : State :=
  s.updCtx c fun x => { x with state := if x.state == .ready then .running else x.state, quietSince := none }

/-- When its last work completes a RUNNING context is READY (R69); a command that has failed and waits for RESUME is no work. -/
def State.ctxIdle (s : State) (c : Nat) : State :=
  if s.cm.launches.any (fun l => l.ctx == c && !l.completed && !l.failed) || s.cm.copies.any (fun k => k.ctx == c && !k.failed)
      || s.cm.waits.any (fun w => w.ctx == c && !w.failed) then s
  else s.updCtx c fun x => { x with state := if x.state == .running then .ready else x.state }

/-- NOP_COMMAND: completes with no action (R56). -/
def execNopCommand (q : Nat) (raw : List Byte) (s : State) : Out :=
  .next (runCmd q 0 raw (fun c s => (s.queueDone q (2 ^ 64) c.seq true, none)) s)

/-! ## LAUNCH (R64–R67, R290–R292) -/

/-- Read bytes of a context for the command engine. -/
def State.hostRead (s : State) (c : Nat) (host : Mem) (va n : Nat) : State × Option (List Byte) :=
  match s.readVa .host c host .load none (n / 128 + 2) va n with
  | (s, .ok l) => (s, some l)
  | (s, .error _) => (s, none)

/-- A kernel header as read (R291). -/
def parseKHdr (l : List Byte) : KHdr :=
  { entry := field l 0 8, threads := field l 8 2, regs := 8 * field l 10 1, cluster := field l 11 1, loc := field l 12 4 }

/-- A kernel header that breaks R291, R108 or R116 at a width. -/
def khdrBad (l : List Byte) (width : Nat) : Bool :=
  let h := parseKHdr l
  h.threads == 0 || h.threads > 1024 || h.groups width > 32 || h.regs == 0 || h.regs > 256 || h.cluster > 4
    || h.loc > 389120 || h.entry % 8 != 0 || !zeroBytes l 16 16

/-- What the launch check read of one image: its 64-byte header, its kernel headers and its handler table. -/
structure RawImage where
  head : List Byte
  khdrs : List (Option (List Byte))
  table : Option (List Byte)

/-- Read an image header, the kernel headers it names and its handler table (R292). -/
def State.readImage (s : State) (c : Nat) (host : Mem) (va : Nat) : State × Option RawImage :=
  match s.hostRead c host va 64 with
  | (s, none) => (s, none)
  | (s, some h) =>
    let vas := (List.range 4).map fun i => field h (8 * i) 8
    let (s, ks, ok) := vas.foldl (fun (s, ks, ok) a =>
      if a == 0 then (s, ks ++ [none], ok) else
      match s.hostRead c host a 32 with
      | (s, some l) => (s, ks ++ [some l], ok)
      | (s, none) => (s, ks ++ [none], false)) (s, ([] : List (Option (List Byte))), true)
    if !ok then (s, none) else
    let hb := field h 36 4
    if hb == 0 then (s, some ⟨h, ks, none⟩)
    else
      match s.hostRead c host (va + hb) 64 with
      | (s, some t) => (s, some ⟨h, ks, some t⟩)
      | (s, none) => (s, none)

/-- The image that a checked header gives. -/
def RawImage.image (r : RawImage) (va : Nat) : Image :=
  { base := va, khdrs := r.khdrs.map (Option.map parseKHdr), trapEntry := field r.head 32 4, handlerBase := field r.head 36 4
    handlers := match r.table with
      | some t => (List.range 16).map fun i => field t (4 * i) 4
      | none => []
    codeBytes := field r.head 40 4 }

/-- An image that fails the launch check (R290–R292). A kernel header VA that is not 64-byte aligned fails it too (log 19). -/
def RawImage.bad (r : RawImage) (width : Nat) : Bool :=
  let code := field r.head 40 4
  let off (v : Nat) : Bool := v < 64 || v % 4 != 0 || v ≥ code
  !zeroBytes r.head 44 20 || code < 128 || code > 65536 || code % 4 != 0
    || off (field r.head 32 4) || (field r.head 36 4 != 0 && off (field r.head 36 4))
    || (match r.table with
      | some t => (List.range 16).any fun i => field t (4 * i) 4 != 0 && off (field t (4 * i) 4)
      | none => false)
    || r.khdrs.all Option.isNone
    || (List.range 4).any (fun i => field r.head (8 * i) 8 % 64 != 0)
    || r.khdrs.any fun k => match k with
      | some l => khdrBad l width
      | none => false

/-- A clustered entry's quad is in the mask and named by consecutive entries in rank order (R125). -/
def clusterBad (mask : Nat) (tiles : List Nat) (i : Nat) : Bool :=
  let t := tiles.getD i 0
  let r := (t / 12 % 2) * 2 + t % 12 % 2
  i < r || ((tiles.drop (i - r)).take 4) != quadOf t || (quadOf t).any fun x => !bitAt mask x

/-- Read every image of a placement table (R66, R292). -/
def State.readImages (s : State) (c : Nat) (host : Mem) (vas : List Nat) : State × Option (List RawImage) :=
  vas.foldl (fun (s, o) va =>
    match o with
    | none => (s, none)
    | some l => match s.readImage c host va with
      | (s, some r) => (s, some (l ++ [r]))
      | (s, none) => (s, none)) (s, some [])

/-- The placement entries of a launch, or the queue error that its check ends with (R57, R65, R66). A table address that is
not 16-byte aligned and a TILES outside 1–144 fail the placement check (log 19). ARGS has a readable translation where the page it lies in
can be read at all: the size asked of here is one that every readable type takes (R155). -/
def State.checkLaunch (s : State) (c : Nat) (host : Mem) (r : List Byte) (width : Nat) : State × Except Nat (List Entry) :=
  let tbl := field r 8 8
  let n := field r 28 2
  if n == 0 || n > 144 || tbl % 16 != 0 then (s, .error qeBadPlacement) else
  match s.hostRead c host tbl (16 * n) with
  | (s, none) => (s, .error qeFetchFault)
  | (s, some t) =>
    let ent i := (t.drop (16 * i)).take 16
    let is := List.range n
    match s.readImages c host (is.map fun i => field (ent i) 8 8) with
    | (s, none) => (s, .error qeFetchFault)
    | (s, some imgs) =>
      match s.resolve .host c (field r 16 8) 4 .load with
      | (s, .error _) => (s, .error qeFetchFault)
      | (s, .ok _) =>
        let tiles := is.map fun i => field (ent i) 0 2
        let mask := (s.ctx c).tiles
        let bad := is.any fun i =>
          let e := ent i
          let img := imgs.getD i ⟨[], [], none⟩
          let tile := field e 0 2
          let clustered := img.khdrs.any fun k => match k with
            | some l => (parseKHdr l).cluster != 0
            | none => false
          tile ≥ 144 || !bitAt mask tile || field e 2 2 == 0 || field e 2 2 > 16 || !zeroBytes e 4 4
            || (tiles.take i).contains tile || img.bad width || (clustered && clusterBad mask tiles i)
        if bad then (s, .error qeBadPlacement)
        else
          let counts := is.map fun i => field (ent i) 2 2
          (s, .ok (is.map fun i =>
            { tile := field (ent i) 0 2, count := field (ent i) 2 2
              image := (imgs.getD i ⟨[], [], none⟩).image (field (ent i) 8 8)
              firstBlock := (counts.take i).foldl (· + ·) 0 }))

/-- A placement entry of a launch reaches its tile, where it waits for a slot (R285). -/
def State.launchOn (s : State) (id c : Nat) (e : Entry) : State :=
  let (a, s) := s.fresh
  s.updTile e.tile fun t => { t with waitEntries := t.waitEntries ++ [{ launch := id, ctx := c, entry := e, arrival := a }] }

/-- LAUNCH: checks the whole placement table, then hands each entry to its tile (R57, R64–R66, R125, R292). -/
def execLaunch (q : Nat) (raw : List Byte) (host : List (Nat × Byte)) (s : State) : Out :=
  .next (runCmd q 1 raw (fun c s =>
    let r := c.raw
    let width := 8 * 2 ^ (bits (field r 30 1) 0 2)
    match s.checkLaunch c.ctx host r width with
    | (s, .error code) => (s, some code)
    | (s, .ok es) =>
      let (id, s) := s.startOutst q c.seq
      let tag := field r 24 3
      let l : Launch :=
        { id := id, ctx := c.ctx, queue := q, seq := c.seq, signal := c.signal, irq := c.irq, tag := tag
          deadline := s.deadline (s.ctx c.ctx).part tag, width := width, oldest := bitAt (field r 31 1) 0
          args := field r 16 8, entries := es, doneAddr := field r 32 8, doneValue := field r 40 8
          vector := bits (field r 48 2) 0 11, runLimit := field r 50 2, start := s.now
          blocks := (es.map (·.count)).foldl (· + ·) 0 }
      let s := (s.updCm fun m => { m with launches := m.launches ++ [l] }).ctxRun c.ctx
      (s.each es fun e s => s.launchOn id c.ctx e, none)) s)

/-! ## Completion (R54, R59, R60) -/

/-- A LAUNCH or COPY is complete: SIGNAL_ON_DONE writes the completion value, IRQ_ON_DONE then sends the interrupt, and its
SEQ is recorded; a completion address that cannot be written halts the queue and nothing of that is done (R59, R60; answer false). DESIGN
CHOICE (log 133): an access that its page forbids counts as a failed translation. -/
def State.complete (s : State) (q id seq c : Nat) (signal irq : Bool) (addr value vec : Nat) : State × Bool :=
  let r : State × Option (XErr × Nat) :=
    if signal then s.writeVa .host c .store 3 addr (toLe 8 value) else (s, none)
  match r with
  | (s, some _) => (s.queueError q qeFetchFault, false)
  | (s, none) =>
    let s := if irq then s.msix (some (s.ctx c).part) vec else s
    (s.queueDone q id seq true, true)

/-- A completed launch is forgotten once no TCU slot serves it any more. -/
def State.forgetLaunch (s : State) (id : Nat) : State :=
  let served := s.anyTile fun t => t.tcus.any fun u => u.state != .free && u.launch == id
  if served || !(s.launch? id).any (·.completed) then s
  else
    (s.updCm fun m => { m with launches := m.launches.filter (·.id != id) }).updTiles fun t =>
      { t with arrived := t.arrived.filter (·.launch != id) }

/-- Dispatched blocks of a launch, or rays that will still become some, are left (R523). -/
def State.dispatching (s : State) (id : Nat) : Bool :=
  (s.srt.units.any fun u => u.slots.any (·.launch == id) || u.held.any fun h => h.rays.any (·.launch == id))
    || s.anyTile fun t => t.blocks.any (fun b => b.launch == id && b.tcu.isNone) || t.waiting.any fun w => w.launch == id && w.disp.isSome

/-- LAUNCH_COMPLETE: all blocks have retired and all their stores are visible (R54). -/
def execLaunchComplete (id : Nat) (s : State) : Out :=
  .next (if !s.clocked then s else
    match s.launch? id with
    | none => s
    | some l =>
      let busy := l.completed || l.failed || l.retired < l.blocks || s.anyTile (fun t => t.sb.any (·.launches.contains id))
        || s.mem.hwb.any (·.launches.contains id) || s.dispatching id
      if busy || !s.live l.ctx then s
      else
        let set (s : State) (f : Launch → Launch) : State :=
          s.updCm fun m => { m with launches := m.launches.map fun x => if x.id == id then f x else x }
        match s.complete l.queue id l.seq l.ctx l.signal l.irq l.doneAddr l.doneValue l.vector with
        | (s, true) => ((set s fun x => { x with completed := true }).forgetLaunch id).ctxIdle l.ctx
        | (s, false) => (set s fun x => { x with failed := true }).ctxIdle l.ctx)

/-! ## WAIT, SIGNAL, COPY, KILL -/

/-- WAIT_COMMAND: starts waiting for a memory comparison; an address without translation halts the queue (R56, R59). DESIGN CHOICE (log 133):
so does one whose page forbids the read. -/
def execWaitCommand (q : Nat) (raw : List Byte) (s : State) : Out :=
  .next (runCmd q 3 raw (fun c s =>
    match s.resolve .host c.ctx (field c.raw 8 8) 8 .load with
    | (s, .error _) => (s, some qeFetchFault)
    | (s, .ok _) =>
      let (id, s) := s.startOutst q c.seq
      let w : Wait := { id := id, ctx := c.ctx, queue := q, seq := c.seq, addr := field c.raw 8 8, value := field c.raw 16 8
                        eq := field c.raw 24 1 == 1 }
      ((s.updCm fun m => { m with waits := m.waits ++ [w] }).ctxRun c.ctx, none)) s)

/-- WAIT_SATISFIED: a WAIT completes when the 64-bit value at its address is at least, or equals, its value. Where its address has no
translation any more, or, retried by RESUME, it names no live context of its queue's partition, its queue halts (R56–R59). A read whose
translation holds and which brings no value leaves it waiting. -/
def execWaitSatisfied (id : Nat) (host : List (Nat × Byte)) (s : State) : Out :=
  .next (if !s.clocked then s else
    match s.cm.waits.find? (·.id == id) with
    | none => s
    | some w =>
      let drop (s : State) : State := s.updCm fun m => { m with waits := m.waits.filter (·.id != id) }
      if w.failed then s
      else if (s.ctx w.ctx).part != (s.queue w.queue).part || !s.live w.ctx then s.waitFails id w.queue qeBadContext
      else
        match s.readVa .host w.ctx host .load none 2 w.addr 8 with
        | (s, .error (_, a)) =>
          match s.resolve .host w.ctx a 4 .load with
          | (s, .error _) => (s.waitFails id w.queue qeFetchFault).ctxIdle w.ctx
          | (s, .ok _) => s
        | (s, .ok l) =>
          let v := leNat l
          if (if w.eq then v == w.value else v ≥ w.value) then ((drop s).queueDone w.queue id w.seq true).ctxIdle w.ctx else s)

/-- SIGNAL_COMMAND: writes a value, then sends MSI-X where enabled (R53, R56, R59). -/
def execSignalCommand (q : Nat) (raw : List Byte) (s : State) : Out :=
  .next (runCmd q 4 raw (fun c s =>
    match s.writeVa .host c.ctx .store 3 (field c.raw 8 8) (toLe 8 (field c.raw 16 8)) with
    | (s, some _) => (s, some qeFetchFault)
    | (s, none) =>
      let s := if bitAt (field c.raw 26 1) 0 then s.msix (some (s.ctx c.ctx).part) (bits (field c.raw 24 2) 0 11) else s
      (s.queueDone q (2 ^ 64) c.seq true, none)) s)

/-- COPY_COMMAND: starts a copy between device virtual addresses (R56). -/
def execCopyCommand (q : Nat) (raw : List Byte) (s : State) : Out :=
  .next (runCmd q 5 raw (fun c s =>
    let r := c.raw
    let (id, s) := s.startOutst q c.seq
    let k : Copy :=
      { id := id, ctx := c.ctx, queue := q, seq := c.seq, signal := c.signal, irq := c.irq, src := field r 8 8
        dst := field r 16 8, count := field r 24 8, tag := field r 32 3
        deadline := s.deadline (s.ctx c.ctx).part (field r 32 3), doneAddr := field r 40 8, doneValue := field r 48 8
        vector := bits (field r 56 2) 0 11, since := s.now }
    ((s.updCm fun m => { m with copies := m.copies ++ [k] }).ctxRun c.ctx, none)) s)

/-- Move n bytes line by line; the error names the failing address and whether it was written (R59). -/
def State.copyBytes (s : State) (c : Nat) (host : Mem) (eff : Option Nat) : Nat → Nat → Nat → Nat → State × Option (XErr × Nat × Bool)
  | 0, _, _, _ => (s, none)
  | fuel + 1, src, dst, n =>
    if n == 0 then (s, none) else
    let k := min (min n (128 - src % 128)) (128 - dst % 128)
    match s.readVa .copy c host .load eff 2 src k with
    | (s, .error (e, a)) => (s, some (e, a, false))
    | (s, .ok l) =>
      match s.writeVa .copy c .store 2 dst l with
      | (s, some (e, a)) => (s, some (e, a, true))
      | (s, none) => s.copyBytes c host eff fuel (src + k) (dst + k) (n - k)

/-- A copy moves its bytes and ends with its completion (R54); a source or destination that fails is a fault of the context (R59,
R883). A copy whose completion failed has no byte left to move when RESUME retries it (R58). -/
def State.copyDone (s : State) (k : Copy) (host : Mem) : State :=
  let drop (s : State) : State := s.updCm fun m => { m with copies := m.copies.filter (·.id != k.id) }
  match s.copyBytes k.ctx host k.deadline (k.count / 64 + 4) k.src k.dst k.count with
  | (s, some (e, a, w)) =>
    let det := match e with
      | .poison st => st
      | _ => b2n w
    ((drop s).queueDone k.queue k.id k.seq false).raise
      { code := e.code, ctx := k.ctx, unit := 7, addr := a, detail := det, unitId := k.queue, valid := 1, tag := k.tag }
  | (s, none) =>
    match (drop s).complete k.queue k.id k.seq k.ctx k.signal k.irq k.doneAddr k.doneValue k.vector with
    | (s, true) => s.ctxIdle k.ctx
    | (s, false) => (s.updCm fun m => { m with copies := m.copies ++ [{ k with failed := true, count := 0 }] }).ctxIdle k.ctx

/-- COPY_COMPLETE: the copy's last byte is visible (R54, R59). `host` holds the bytes of host memory it read. -/
def execCopyComplete (id : Nat) (host : List (Nat × Byte)) (s : State) : Out :=
  .next (if !s.clocked then s else
    match s.cm.copies.find? (·.id == id) with
    | none => s
    | some k => if k.failed || !s.live k.ctx then s else s.copyDone k host)

/-- KILL_COMMAND: kills its context with HOST_KILL (R70, R883). -/
def execKillCommand (q : Nat) (raw : List Byte) (s : State) : Out :=
  .next (runCmd q 6 raw (fun c s => ((s.acceptFaults [hostKill c.ctx 7]).queueDone q (2 ^ 64) c.seq true, none)) s)

/-! ## Watchdog (R68) -/

/-- WATCHDOG: a launch that has run longer than its limit kills its context, and is watched no more (R68, R78, R883). -/
def execWatchdog (now id : Nat) (s : State) : Out :=
  let s := s.at now
  .next (if !s.clocked then s else
    match s.launch? id with
    | none => s
    | some l =>
      let ms := (s.now - l.start) / 1000000
      if l.runLimit == 0 || l.completed || s.now ≤ l.start + l.runLimit * 1000000 then s
      else
        let s := s.updCm fun m => { m with launches := m.launches.map fun (y : Launch) => if y.id == id then { y with runLimit := 0 } else y }
        s.acceptFaults [{ code := 0x0E, ctx := l.ctx, unit := 6, detail := ms, tag := l.tag }])

end Sys2Proof.Machine
end

