-- ==== Sys2Proof/Machine/ThreadExit.lean ====
section
/-! DEFINITION. EXIT (R249) and the freeing of a block's resources as its groups exit (R121, R523). -/
namespace Sys2Proof.Machine

/-- When the last group of a block has exited, its registers and group slots are free (R121). -/
def State.blockExit (s : State) (tile bslot : Nat) : State :=
  if ((s.tile tile).groups.filter (·.bslot == bslot)).all Group.done then
    (s.updTile tile fun t => { t with groups := t.groups.filter (·.bslot != bslot) }.updBlock bslot fun b =>
      { b with exited := true, regUnits := 0 }).stirWaiting tile
  else s

/-- The end of a block's last group; a dispatched block then retires (R121, R523). -/
def State.groupsExit (s : State) (tile bslot : Nat) : State :=
  let s := s.blockExit tile bslot
  match (s.tile tile).block? bslot with
  | some b => if b.exited && b.tcu.isNone then s.retireBlock tile bslot else s
  | none => s

/-- Rays of a group with hit-ring return whose hits have not been delivered (R249, R273). -/
def Group.ringRays (g : Group) : Nat := (g.rays.map (·.2)).foldl (· + ·) 0

/-- EXIT: the active threads end, or wait while the group has hit-ring rays outstanding (R249). -/
def execExit (tile : Nat) (f : BrnF) (s : State) : Out :=
  .next (runThread tile (encBrn 0x84 f) (fun tc s =>
    let w := if tc.g.ringRays == 0 then LaneWait.exited else .hits
    let s := s.updGroup tc.tile tc.i.slot fun g =>
      (g.updLanes (tc.i.mask.filter fun k => !tc.act.contains k) fun _ l => { l with pc := l.pc + 8 }).updLanes tc.act
        fun _ l => { l with wait := w }
    s.groupsExit tc.tile tc.b.bslot) s)

/-- EXIT_RELEASE: a thread waiting at EXIT ends once its group has no hit-ring rays outstanding (R249). -/
def execExitRelease (tile slot lane : Nat) (s : State) : Out :=
  .next (if !s.clocked then s else
    match (s.tile tile).group? slot with
    | none => s
    | some g =>
      if g.ringRays == 0 && (g.lane? lane).any (·.wait == .hits) then
        (s.updGroup tile slot fun g => g.updLane lane fun l => { l with wait := .exited }).groupsExit tile g.bslot
      else s)

end Sys2Proof.Machine
end

