-- ==== Sys2Proof/Machine/Sorter.lean ====
section
/-! DEFINITION. TRACE and the ray sorters: admission, binning, packets, the bin timeout, hit return, dispatch and overload
(R264–R273, R495–R541). -/
namespace Sys2Proof.Machine

def State.updUnit (s : State) (u : Nat) (f : Sorter → Sorter) : State :=
  { s with srt := { s.srt with units := s.srt.units.modify u f } }
def State.unit (s : State) (u : Nat) : Sorter := s.srt.units.getD u {}
def State.srtPart (s : State) (p : Nat) : SrtPart := s.srt.parts.getD p {}
def State.updSrtPart (s : State) (p : Nat) (f : SrtPart → SrtPart) : State :=
  { s with srt := { s.srt with parts := s.srt.parts.modify p f } }
def State.srtCount (s : State) (u i n : Nat) : State := s.updUnit u fun x => { x with cnt := x.cnt.modify i (· + n) }
def State.updArms (s : State) (f : ArmEng → ArmEng) : State := { s with arm := f s.arm }
def State.armOf (s : State) (n : Nat) : Arm := s.arm.arms.getD n {}
def State.updArm (s : State) (n : Nat) (f : Arm → Arm) : State := s.updArms fun e => { e with arms := e.arms.modify n f }

/-- A clamp of an adaptive loop by a software bound: counted, its record kept among the last 16 (R579, R581). -/
def State.policyClamp (s : State) (c : Clamp) : State :=
  { s with pwr := { s.pwr with clamps := s.pwr.clamps + 1, recs := (c :: s.pwr.recs).take 16 } }

/-- The ray sorter of a tile's quadrant (R10). -/
def quadrant (tile : Nat) : Nat := 2 * b2n (tile / 12 ≥ 6) + b2n (tile % 12 ≥ 6)

/-- The Armature that serves a tile (R9). -/
def servingArm (tile : Nat) : Nat := tile / 12 * 4 + tile % 12 / 3

/-! ## TRACE (R264–R273) -/

def parseTrace (d : List Byte) : TraceDesc :=
  let fl := field d 12 1
  { tree := field d 0 8, tag := field d 8 3, cls := field d 11 1, anyHit := bitAt fl 0, cull := bitAt fl 1, noNeural := bitAt fl 2
    ret := field d 13 1, mask := field d 14 1, ring := field d 16 4, event := field d 20 1, dispatch := field d 24 8 }

/-- The FLAGS byte of a descriptor. -/
def TraceDesc.flags (d : TraceDesc) : Nat := b2n d.anyHit + 2 * b2n d.cull + 4 * b2n d.noNeural

/-- A descriptor that breaks R266 or R524. -/
def traceBad (raw : List Byte) (dispatched : Bool) : Bool :=
  let d := parseTrace raw
  d.tree == 0 || d.tree % 128 != 0 || d.cls ≥ 8 || field raw 12 1 ≥ 8 || d.ret ≥ 2 || field raw 15 1 != 0 || d.ring % 32 != 0
    || field raw 21 3 != 0 || !zeroBytes raw 32 32
    || (if d.ret == 0 then d.event ≥ 32 || d.dispatch != 0
        else d.ring != 0 || d.event != 0 || d.dispatch % 64 != 0 || dispatched)

/-- SIZE_LOG2 of the hit ring at an OFFSET of a block, if the ring meets R267. -/
def State.ringSize (s : State) (tile : Nat) (b : Block) (ring : Nat) : Option Nat :=
  if ring + 32 > b.size then none else
  let h := s.localRead tile (b.base + ring) 32
  let n := field h 8 1
  if n < 2 || n > 12 || !zeroBytes h 9 23 || ring + 32 + 32 * 2 ^ n > b.size then none else some n

/-- The ray of a lane (R264). -/
def traceRay (tc : TC) (f : SpcF) (d : TraceDesc) (deadline : Option Nat) (id k : Nat) : Ray :=
  let l := tc.lane k
  let r (i : Nat) : Nat := (l.gr (f.srca + i)).toNat
  { id := id, ctx := tc.b.ctx, tile := tc.tile, launch := tc.b.launch, bslot := tc.b.bslot, gslot := tc.i.slot, gid := tc.g.since
    cookie := (l.gr f.srcb).toNat, org := [r 0, r 1, r 2], tmin := r 3, dir := [r 4, r 5, r 6], tmax := r 7, d := d
    deadline := deadline, unit := quadrant tc.tile }

/-- Rays of a group outstanding under an event grow by n. -/
def addRays (l : List (Nat × Nat)) (e n : Nat) : List (Nat × Nat) :=
  if l.any (·.1 == e) then l.map fun r => if r.1 == e then (e, r.2 + n) else r else l ++ [(e, n)]

/-- TRACE: the active lanes' rays go to the sorter of the tile's quadrant and are held until it admits them (R264–R267, R272,
R498, R524). -/
def execTrace (tile : Nat) (f : SpcF) (s : State) : Out :=
  .next (runThread tile (encSpc 0xA0 f) (fun tc s =>
    if tc.act.isEmpty then tc.step (fun _ l => l) s else
    let off := bits f.spec 15 13 * 64
    if off + 64 > tc.b.size then tc.fault 0x0A 0 s else
    let raw := s.localRead tile (tc.b.base + off) 64
    let d := parseTrace raw
    if traceBad raw tc.b.tcu.isNone || (d.ret == 0 && (s.ringSize tile tc.b d.ring).isNone) then tc.fault 0x0B 0 s
    else
      let dl := s.deadline (s.ctx tc.b.ctx).part d.tag
      let n := tc.act.length
      let rays := tc.act.mapIdx fun i k => traceRay tc f d dl (s.srt.nextRay + i) k
      let s := { s with srt := { s.srt with nextRay := s.srt.nextRay + n } }
      let s := s.updUnit (quadrant tile) fun u => { u with held := u.held ++ [⟨rays, tc.act, tc.b.tcu.isNone, s.now⟩] }
      let s := s.updGroup tile tc.i.slot fun g =>
        if d.ret == 0 then { g with rays := addRays g.rays d.event n } else { g with dispRays := g.dispRays + n }
      tc.step (fun _ l => { l with wait := .traceHeld }) s) s)

/-- TRACEQ: the group's rays whose hits have not been delivered (R273). -/
def execTraceq (tile : Nat) (f : SpcF) (s : State) : Out :=
  .next (runThread tile (encSpc 0xA1 f) (fun tc s =>
    tc.step (fun _ l => l.setGr f.dst (BitVec.ofNat 32 (tc.g.ringRays + tc.g.dispRays))) s) s)

/-- An FP32 code below 0 (−0 is not). -/
def ltZero (v : Nat) : Bool := FVal.cmp (fp32.unpack v) (.fin false 0 0) == .lt

/-- R271: a ray that returns INVALID. -/
def Ray.invalid (r : Ray) : Bool :=
  let inf (v : Nat) : Bool := match fp32.unpack v with
    | .inf _ => true
    | _ => false
  let zero (v : Nat) : Bool := v % 2 ^ 31 == 0
  (r.org ++ [r.tmin] ++ r.dir ++ [r.tmax]).any (fun v => (fp32.unpack v).isNan) || r.org.any inf || r.dir.all zero
    || ltZero r.tmin || FVal.cmp (fp32.unpack r.tmin) (fp32.unpack r.tmax) == .gt

/-- R527: EXPIRE applies to the ray and its deadline is at or before now. -/
def State.rayExpired (s : State) (r : Ray) : Bool :=
  bitAt (s.srtPart (s.ctx r.ctx).part).expire r.d.cls && match r.deadline with
    | some d => d ≤ s.now
    | none => false

/-- The record of a ray without a hit (R270, R516). -/
def Ray.missRec (r : Ray) (status : Nat) : Hit :=
  ⟨r, { t := r.tmax, status := status, prim := 0, inst := 0xFFFFFFFF, material := 0xFFFF, flags := 0, u := 0, v := 0 }⟩

/-- The 32 bytes of a hit record (R270). -/
def Hit.bytes (h : Hit) : List Byte :=
  toLe 4 h.ray.cookie ++ toLe 4 h.cand.t ++ toLe 4 h.cand.prim ++ toLe 4 h.cand.inst ++ toLe 2 h.cand.material ++ toLe 1 h.cand.status
    ++ toLe 1 h.cand.flags ++ toLe 4 h.cand.u ++ toLe 4 h.cand.v ++ toLe 4 0

/-! ## Hit bins (R515–R518) -/

/-- Where a ray's hit goes (R517). -/
def Ray.dest (r : Ray) : HitDest :=
  if r.d.ret == 0 then .ring r.tile r.bslot r.launch r.d.ring else .dispatch r.launch r.d.dispatch

/-- The number of hits that fills a bin (R518). -/
def State.hitFull (s : State) (d : HitDest) : Nat :=
  match d with
  | .ring _ _ _ _ => 32
  | .dispatch l _ => min 32 (s.launchWidth l)

/-- The lowest number below 1,024 that no bin has. -/
def freeBin (used : List Nat) : Option Nat := (List.range 1024).find? fun i => !used.contains i

def HitBin.packet (b : HitBin) : HitPacket := { ctx := b.ctx, dest := b.dest, hits := b.hits }

/-- When a bin's first member was admitted, by which bins are reclaimed (R504). -/
def HitBin.first (b : HitBin) : Nat := (b.hits.head?.map (·.ray.adm)).getD 0
def RayBin.first (b : RayBin) : Nat := (b.rays.head?.map (·.adm)).getD 0

/-- The bin that is reclaimed: its first member was admitted earliest; then the lower number (R504). -/
def oldest {α : Type} (key : α → Nat × Nat) : List α → Option α
  | [] => none
  | a :: r =>
    match oldest key r with
    | none => some a
    | some b =>
      if (key b).1 < (key a).1 || ((key b).1 == (key a).1 && (key b).2 < (key a).2) then some b else some a

/-- A hit joins the bin of its identity; a full bin flushes, and with no free bin the oldest flushes first (R504, R517, R518). -/
def State.joinHit (s : State) (h : Hit) : State :=
  let u := h.ray.unit
  let x := s.unit u
  let mat := h.cand.material
  let d := h.ray.dest
  match x.hitBins.find? fun b => b.ctx == h.ray.ctx && b.material == mat && b.dest == d with
  | some b =>
    let b' := { b with hits := b.hits ++ [h] }
    if b'.hits.length ≥ s.hitFull d then
      s.updUnit u fun x => { x with hitBins := x.hitBins.filter (·.num != b.num), hitq := x.hitq ++ [b'.packet] }
    else s.updUnit u fun x => { x with hitBins := x.hitBins.map fun y => if y.num == b.num then b' else y }
  | none =>
    let s :=
      if (freeBin (x.hitBins.map (·.num))).isSome then s
      else
        match oldest (fun (b : HitBin) => (b.first, b.num)) x.hitBins with
        | none => s
        | some b => s.updUnit u fun x => { x with hitBins := x.hitBins.filter (·.num != b.num), hitq := x.hitq ++ [b.packet] }
    match freeBin ((s.unit u).hitBins.map (·.num)) with
    | none => s
    | some n =>
      let b : HitBin := { num := n, ctx := h.ray.ctx, material := mat, dest := d, hits := [h], since := s.now }
      s.updUnit u fun x => { x with hitBins := x.hitBins ++ [b] }

/-- HIT_ARRIVAL: the n-th hit under way reaches its sorter, or is discarded and counted when its context is no longer live
(R73, R515). -/
def execHitArrival (n : Nat) (s : State) : Out :=
  .next (if !s.clocked then s else
    match s.arm.hits[n]? with
    | none => s
    | some h =>
      let s := s.updArms fun e => { e with hits := e.hits.eraseIdx n }
      if s.live h.ray.ctx then s.joinHit h else s.updCm fun m => { m with lateArrivals := m.lateArrivals + 1 })

/-- The bin timeout of a partition at a unit in ns (R511). -/
def State.binTo (s : State) (u p : Nat) : BinTo := (s.unit u).tos.getD p {}

/-- HIT_BIN_TIMEOUT: a hit bin whose age has reached the bin timeout flushes (R518). -/
def execHitBinTimeout (now unit bin : Nat) (s : State) : Out :=
  let s := s.at now
  .next (if !s.clocked then s else
    match (s.unit unit).hitBins.find? (·.num == bin) with
    | none => s
    | some b =>
      if s.now - b.since < (s.binTo unit (s.ctx b.ctx).part).t then s
      else s.updUnit unit fun x => { x with hitBins := x.hitBins.filter (·.num != bin), hitq := x.hitq ++ [b.packet] })

/-! ## Ray bins (R501–R506) -/

/-- A live image that matches a context and a root VA (R441). -/
def State.imageFor (s : State) (ctx root : Nat) : Option Image_ :=
  s.arm.images.find? fun i => i.live && i.ctx == ctx && i.root == root

/-- The cell index of an axis (R502). -/
def cellIdx (o lo cell : Nat) : Nat :=
  match FVal.add .nearest (fp32.unpack o) (FVal.neg (fp32.unpack lo)), fp32.unpack cell with
  | .fin na ma ea, .fin _ mc ec =>
    let q := min ea ec
    let c := FVal.scaled false mc ec q
    if c == 0 then 0 else (max 0 (min 7 (Int.fdiv (FVal.scaled na ma ea q) c))).toNat
  | _, _ => 0

/-- The bin key: octant × 512 + Morton code (R501, R502). -/
def State.binKey (s : State) (r : Ray) : Nat :=
  let x := s.srtPart (s.ctx r.ctx).part
  let lo := [x.box0 % 2 ^ 32, x.box0 / 2 ^ 32, x.box1 % 2 ^ 32]
  let cell := x.box1 / 2 ^ 32
  let oct := (List.range 3).foldl (fun a i => a + place (bits (r.dir.getD i 0) 31 1) i 1) 0
  let idx (a : Nat) : Nat := if cell % 2 ^ 31 == 0 then 0 else cellIdx (r.org.getD a 0) (lo.getD a 0) cell
  let morton := (List.range 3).foldl (fun m j =>
    m + place (bits (idx 0) j 1) (3 * j) 1 + place (bits (idx 1) j 1) (3 * j + 1) 1 + place (bits (idx 2) j 1) (3 * j + 2) 1) 0
  oct * 512 + morton

/-- The bin identity of a ray (R503). -/
def State.binId (s : State) (r : Ray) : BinId :=
  { ctx := r.ctx, tree := r.d.tree, flags := r.d.flags, mask := r.d.mask
    home := if (s.imageFor r.ctx r.d.tree).isSome then none else some (servingArm r.tile), key := s.binKey r }

/-- A bin flushes: its rays join the flush queue as a packet (R506). -/
def State.flushBin (s : State) (u : Nat) (b : RayBin) : State :=
  s.updUnit u fun x => { x with bins := x.bins.filter (·.num != b.num), flush := x.flush ++ [{ bid := b.bid, rays := b.rays }] }

/-- An admitted ray joins the bin of its identity (R504, R506). -/
def State.joinBin (s : State) (r : Ray) : State :=
  let u := r.unit
  let bid := s.binId r
  match (s.unit u).bins.find? (·.bid == bid) with
  | some b =>
    let b' := { b with rays := b.rays ++ [r] }
    if b'.rays.length ≥ 32 then (s.flushBin u b').srtCount u 1 1
    else s.updUnit u fun x => { x with bins := x.bins.map fun y => if y.num == b.num then b' else y }
  | none =>
    let s :=
      if (freeBin ((s.unit u).bins.map (·.num))).isSome then s
      else
        match oldest (fun (b : RayBin) => (b.first, b.num)) (s.unit u).bins with
        | none => s
        | some b => (s.flushBin u b).srtCount u 3 1
    match freeBin ((s.unit u).bins.map (·.num)) with
    | none => s
    | some n => s.updUnit u fun x => { x with bins := x.bins ++ [{ num := n, bid := bid, rays := [r], since := s.now }] }

/-- A ray returns EXPIRED (R527). -/
def State.expireRay (s : State) (r : Ray) : State :=
  let s := (s.joinHit (r.missRec 4)).srtCount r.unit 9 1
  { s with srt := { s.srt with expired := s.srt.expired + 1 } }

/-- An admitted ray: INVALID, EXPIRED, or into a bin (R271, R505, R527). -/
def State.admitRay (s : State) (r : Ray) (reserved : Bool) : State :=
  let r := { r with reserved := reserved, order := (s.unit r.unit).admitted, adm := s.now }
  let use : SlotUse :=
    { ray := r.id, ctx := r.ctx, launch := r.launch, tile := r.tile, gslot := r.gslot, gid := r.gid
      event := if r.d.ret == 0 then some r.d.event else none, part := (s.ctx r.ctx).part, reserved := reserved }
  let s := (s.updUnit r.unit fun x =>
    { x with admitted := x.admitted + 1, slots := x.slots ++ [use], acts := addAct x.acts r.ctx 1 }).srtCount r.unit 0 1
  if r.invalid then (s.joinHit (r.missRec 5)).srtCount r.unit 10 1
  else if s.rayExpired r then s.expireRay r
  else s.joinBin r

/-- Where a held TRACE can be admitted: from the shared pool (false), unless an earlier TRACE of its partition bars it, or from reserved slots (true)
(R497, R499). -/
def State.admitFrom (s : State) (u : Nat) (h : Held) (barred : Bool) : Option Bool :=
  let p := ((h.rays.head?).map fun r => (s.ctx r.ctx).part).getD 0
  let n := h.rays.length
  let sl := (s.unit u).slots
  let shared := (sl.filter (!·.reserved)).length
  let mine := (sl.filter fun x => !x.reserved && x.part == p).length
  let res := (sl.filter fun x => x.reserved && x.part == p).length
  if !barred && shared + n ≤ 12288 && mine + n ≤ (s.srtPart p).ceil then some false
  else if h.dispatched && res + n ≤ 128 then some true
  else none

/-- A held TRACE is admitted: its rays take slots and its lanes go on. -/
def State.admitHeld (s : State) (u : Nat) (h : Held) (reserved : Bool) : State :=
  let s := s.updUnit u fun x => { x with held := x.held.erase h }
  let s := s.each h.rays fun r s => s.admitRay r reserved
  match h.rays.head? with
  | none => s
  | some r => s.updGroup r.tile r.gslot fun g =>
      if g.since == r.gid then g.updLanes h.lanes fun _ l => if l.wait == .traceHeld then { l with wait := .run } else l else g

/-- Held TRACEs in order of admission: a TRACE that does not fit bars later ones of its partition from the shared pool (R499). -/
def State.admitAll (s : State) (u : Nat) : List Held → List Nat → State
  | [], _ => s
  | h :: rest, barred =>
    let p := ((h.rays.head?).map fun r => (s.ctx r.ctx).part).getD 0
    match s.admitFrom u h (barred.contains p) with
    | none => s.admitAll u rest (p :: barred)
    | some res => (s.admitHeld u h res).admitAll u rest barred

/-- How a held TRACE ranks (R36, R499). -/
def Held.rank (h : Held) : Rank :=
  { dl := h.rays.head?.bind (·.deadline), arr := h.arr, ctx := (h.rays.head?.map (·.ctx)).getD 0 }

/-- TRACE_ADMISSION: a unit admits the held TRACEs that fit, by effective deadline (R497–R500). -/
def execTraceAdmission (now unit : Nat) (s : State) : Out :=
  let s := s.at now
  .next (if !s.clocked then s else
    s.admitAll unit ((byRank Held.rank (s.unit unit).held).filter fun h => h.rays.all fun r => s.live r.ctx) [])

/-- BIN_TIMEOUT: a ray bin whose age has reached its partition's bin timeout flushes (R506, R511). -/
def execBinTimeout (now unit bin : Nat) (s : State) : Out :=
  let s := s.at now
  .next (if !s.clocked then s else
    match (s.unit unit).bins.find? (·.num == bin) with
    | none => s
    | some b =>
      let p := (s.ctx b.bid.ctx).part
      let age := s.now - b.since
      if age < (s.binTo unit p).t then s
      else
        let s := (s.flushBin unit b).srtCount unit 2 1
        s.updUnit unit fun x => { x with tos := x.tos.modify p fun t =>
          { t with pkts := t.pkts + 1, rays := t.rays + b.rays.length, ages := t.ages + age } })

/-! ## Packets (R507–R510) -/

/-- A packet's deadline: the earliest of its rays (R507). -/
def Packet.deadline (p : Packet) : Option Nat :=
  match p.rays with
  | [] => none
  | r :: rest => rest.foldl (fun d x => if dlLt x.deadline d then x.deadline else d) r.deadline

/-- How a packet ranks: its deadline, the admission of its first ray, its context (R507). -/
def Packet.rank (p : Packet) : Rank := { dl := p.deadline, arr := (p.rays.head?.map (·.adm)).getD 0, ctx := p.bid.ctx }

/-- The flush queue in order (R507). -/
def Sorter.flushOrder (x : Sorter) : List Packet := byRank Packet.rank x.flush

/-- Home slots in use at an Armature, those of rays on their way among them. -/
def State.homeUsed (s : State) (n : Nat) : Nat :=
  (s.armOf n).homes.length + ((s.arm.rayFlight.filter (·.arm == n)).map (·.rays.length)).foldl (· + ·) 0

/-- The Armatures for which a packet is bound: the homes of its image, the Armature of its home class, or, where its image no longer matches,
those of its rays' tiles (R508, R510). -/
def State.boundFor (s : State) (p : Packet) : List Nat :=
  match p.bid.home with
  | some n => [n]
  | none =>
    match if p.alone then none else s.imageFor p.bid.ctx p.bid.tree with
    | some i => i.homes
    | none => (p.rays.map fun r => servingArm r.tile).eraseDups

/-- What of a packet can go now, by Armature, where earlier packets bar some: the whole packet to one home with room for all its rays, of an image's
homes the one with the fewest occupied slots; ray by ray where its image no longer matches (R459, R508–R510). -/
def State.sendable (s : State) (p : Packet) (barred : List Nat) : List (Nat × List Ray) :=
  let room (n k : Nat) : Bool := !barred.contains n && s.homeUsed n + k ≤ 1024
  let whole (l : List Nat) : List (Nat × List Ray) :=
    ((oldest (fun (n : Nat) => (s.homeUsed n, n)) (l.filter fun n => room n p.rays.length)).map fun n => (n, p.rays)).toList
  match p.bid.home with
  | some n => whole [n]
  | none =>
    match if p.alone then none else s.imageFor p.bid.ctx p.bid.tree with
    | some i => whole i.homes
    | none =>
      (s.boundFor p).flatMap fun n =>
        let mine := p.rays.filter fun r => servingArm r.tile == n
        ((mine.take (1024 - s.homeUsed n)).filter fun _ => !barred.contains n).map fun r => (n, [r])

/-- The next packet that can go, with what of it goes; one that cannot holds back later packets bound for the same homes (R509). -/
def State.nextPacket (s : State) (barred : List Nat) : List Packet → Option (Packet × List (Nat × List Ray))
  | [] => none
  | p :: rest =>
    match s.sendable p barred with
    | [] => s.nextPacket (s.boundFor p ++ barred) rest
    | l => some (p, l)

/-- Rays of a packet go to an Armature; those past their deadline under EXPIRE return EXPIRED instead (R527). -/
def State.sendRays (s : State) (unit arm : Nat) (rays : List Ray) : State :=
  let late := rays.filter s.rayExpired
  let go := rays.filter fun r => !s.rayExpired r
  let s := s.each late fun r s => s.expireRay r
  if go.isEmpty then s
  else (s.updArms fun e => { e with rayFlight := e.rayFlight ++ [{ arm := arm, rays := go }] }).srtCount unit 4 go.length

/-- PACKET_SEND: the first packet in order that its home has room for goes there; one whose image no longer matches goes ray by ray, the rays
that find no room keeping its place (R507–R510, R527; log 160). -/
def execPacketSend (now unit : Nat) (s : State) : Out :=
  let s := s.at now
  .next (if !s.clocked then s else
    match s.nextPacket [] ((s.unit unit).flushOrder.filter fun p => s.live p.bid.ctx) with
    | none => s
    | some (p, l) =>
      let rest := p.rays.filter fun r => !(l.any fun x => x.2.contains r)
      let s := s.updUnit unit fun x =>
        if rest.isEmpty then { x with flush := x.flush.erase p }
        else { x with flush := x.flush.map fun q => if q == p then { p with rays := rest, alone := true } else q }
      s.each l fun x s => s.sendRays unit x.1 x.2)

/-! ## The adaptive bin timeout (R511–R514) -/

/-- A clamp record of the timeout loop. -/
def toClamp (s : State) (p unit winner loser : Nat) : Clamp :=
  { time := s.now, loop := 3, part := p, unit := unit, winner := winner, loser := loser, winQual := 0, loseQual := 0 }

def State.timeoutClamp (s : State) (p unit winner loser : Nat) : State :=
  let s := s.policyClamp (toClamp s p unit winner loser)
  { s with srt := { s.srt with toClamps := s.srt.toClamps + 1 } }

/-- The adjustment of one partition's timeout at a unit; the target is the fraction n / d (R511). -/
def State.adjustTo (s : State) (unit p : Nat) : State :=
  let x := s.binTo unit p
  let r := s.srtPart p
  let (n, d) :=
    if x.pkts == 0 then (x.t - 100, 1)
    else
      let g := x.rays - x.pkts
      let (n, d) := if g > 0 then (15 * x.ages, g) else (200, 1)
      if n > (x.t + 200) * d then (x.t + 200, 1) else if n < (x.t - 200) * d then (x.t - 200, 1) else (n, d)
  let lo := max 200 (r.minTo * 10)
  let hi := min 2000 (r.maxTo * 10)
  let (lo, s) := if lo > hi then (hi, s.timeoutClamp p unit 0x21 0x31) else (lo, s)
  let (n, d, s) := if n > hi * d then (hi, 1, if hi == r.maxTo * 10 then s.timeoutClamp p unit 0x21 0x80 else s) else (n, d, s)
  let (n, d, s) := if n < lo * d then (lo, 1, if lo == r.minTo * 10 then s.timeoutClamp p unit 0x31 0x80 else s) else (n, d, s)
  s.updUnit unit fun u => { u with tos := u.tos.set p { t := n / d / 10 * 10 } }

/-- BIN_TIMEOUT_ADJUST: every 10 µs a unit adjusts the timeout of each enabled partition (R511–R513). -/
def execBinTimeoutAdjust (now unit : Nat) (s : State) : Out :=
  let s := s.at now
  .next (if !s.clocked then s else
    s.each ((List.range 32).filter fun p => (s.part p).enabled) fun p s => s.adjustTo unit p)

/-! ## Delivery (R519–R525) -/

def HitPacket.deadline (p : HitPacket) : Option Nat :=
  match p.hits with
  | [] => none
  | h :: rest => rest.foldl (fun d x => if dlLt x.ray.deadline d then x.ray.deadline else d) h.ray.deadline

/-- How a hit packet ranks (R507, R518). -/
def HitPacket.rank (p : HitPacket) : Rank := { dl := p.deadline, arr := (p.hits.head?.map (·.ray.adm)).getD 0, ctx := p.ctx }

/-- Hit packets in order of delivery (R507, R518). -/
def Sorter.hitOrder (x : Sorter) : List HitPacket := byRank HitPacket.rank x.hitq

/-- Hits of a packet in the order of their rays' admission. -/
def hitsByAdmission (l : List Hit) : List Hit :=
  l.foldl (fun out h => (out.takeWhile (·.ray.order ≤ h.ray.order)) ++ [h] ++ out.dropWhile (·.ray.order ≤ h.ray.order)) []

/-- Write as many records of a packet as its ring has free places; then TAIL, then the EVENT counter (R269, R519). -/
def State.ringWrite (s : State) (unit : Nat) (p : HitPacket) : State :=
  match p.dest with
  | .dispatch _ _ => s
  | .ring tile bslot launch ring =>
    match (s.tile tile).blocks.find? fun b => b.bslot == bslot && b.launch == launch && b.ctx == p.ctx with
    | none => s
    | some b =>
      let a := b.base + ring
      let h := s.localRead tile a 9
      let head := field h 0 4
      let tail := field h 4 4
      let size := 2 ^ field h 8 1
      let free := size - (tail + 2 ^ 32 - head) % 2 ^ 32
      let hits := hitsByAdmission p.hits
      let now := hits.take free
      let s := s.each (now.mapIdx fun i x => (i, x)) fun (i, x) s => s.localWrite tile (a + 32 + 32 * ((tail + i) % size)) x.bytes
      let s := s.act tile p.ctx 5 (8 * now.length)
      let s := if now.isEmpty then s else s.localWrite tile (a + 4) (toLe 4 ((tail + now.length) % 2 ^ 32))
      let s := s.updBlock tile b.bslot fun b => { b with events := now.foldl (fun e x => e.modify x.ray.d.event (· + 1)) b.events }
      let s := (s.freeSlots unit (now.map (·.ray.id))).srtCount unit 6 now.length
      let rest := hits.drop free
      s.updUnit unit fun x =>
        if rest.isEmpty then { x with hitq := x.hitq.erase p }
        else { x with hitq := x.hitq.map fun q => if q == p then { p with hits := rest, tried := true } else q }

def HitPacket.isRing (p : HitPacket) : Bool := match p.dest with
  | .ring _ _ _ _ => true
  | .dispatch _ _ => false

/-- Tiles of a unit's quadrant in a context's mask, from the one after `last` on (R522). -/
def State.dispatchTiles (s : State) (unit ctx : Nat) (last : Option Nat) : List Nat :=
  let ts := (List.range 144).filter fun t => quadrant t == unit && bitAt (s.ctx ctx).tiles t
  match last with
  | none => ts
  | some l => ts.filter (· > l) ++ ts.filter (· ≤ l)

/-- The next packet that a unit delivers, to a ring or as a block: the first in order that does not wait behind a packet that found its ring full
(R518, R519). One for a dispatch whose context has no tile in the quadrant holds nothing back. -/
def State.nextHit (s : State) (unit : Nat) : Option HitPacket :=
  (s.unit unit).hitOrder.find? fun p =>
    !p.tried && s.live p.ctx && ((s.unit unit).hitq.all fun q => !(q.tried && q.dest == p.dest))
      && (p.isRing || !(s.dispatchTiles unit p.ctx none).isEmpty)

/-- The packets that found their rings full, one for each ring, in order. -/
def State.fullRings (s : State) (unit : Nat) : List HitPacket := (s.unit unit).hitOrder.filter fun p => p.isRing && p.tried && s.live p.ctx

/-- HIT_RING_WRITE: the next packet for a hit ring is written as far as the ring has room (R268, R269, R519). -/
def execHitRingWrite (unit : Nat) (s : State) : Out :=
  .next (if !s.clocked then s else
    match s.nextHit unit with
    | none => s
    | some p => if p.isRing then s.ringWrite unit p else s)

/-- HIT_RING_RETRY: the sorter re-reads the HEAD of each ring that was full (R519, R533). -/
def execHitRingRetry (unit : Nat) (s : State) : Out :=
  .next (if !s.clocked then s else
    s.each (s.fullRings unit) fun p s =>
      let t := s.ringWrite unit p
      if (t.unit unit).hitq.contains p then t.srtCount unit 11 1 else t)

/-- A kernel header that R521 lets a hit group use. -/
def dispatchBad (l : List Byte) (width : Nat) : Bool :=
  khdrBad l width || (parseKHdr l).threads != width || (parseKHdr l).cluster != 0
    || (parseKHdr l).regUnits width > 256

/-- DISPATCH_BLOCK: the next packet for a dispatch becomes a block of one group on the first tile where it fits, or waits in a launch
queue (R520–R523, R525). -/
def execDispatchBlock (unit : Nat) (host : List (Nat × Byte)) (s : State) : Out :=
  .next (if !s.clocked then s else
    match s.nextHit unit with
    | none => s
    | some p =>
      match p.dest with
      | .ring _ _ _ _ => s
      | .dispatch launch va =>
        let width := s.launchWidth launch
        let drop (s : State) : State := s.updUnit unit fun x => { x with hitq := x.hitq.erase p }
        let fault (s : State) (code detail : Nat) : State :=
          (drop s).raise { code := code, ctx := p.ctx, unit := 5, unitId := unit, addr := va, detail := detail, valid := 0x01 }
        match s.readVa (.armature (48 + unit)) p.ctx host .load p.deadline 2 va 32 with
        | (s, .error (e, _)) => fault s e.code (match e with | .poison st => st | _ => 0)
        | (s, .ok l) =>
          if dispatchBad l width then fault s 0x0B 0
          else
            let (a, s) := s.fresh
            let hits := hitsByAdmission p.hits
            let w : WaitBlock :=
              { launch := launch, ctx := p.ctx, tcu := none, hdr := parseKHdr l, start := true, since := s.now, arrival := a
                blockId := 0xFFFFFFFF
                disp := some { unit := unit, deadline := p.deadline, hits := hits.map fun h => (h.ray.id, h.bytes) } }
            let ts := s.dispatchTiles unit p.ctx (((s.unit unit).last.find? (·.1 == launch)).map (·.2))
            match ts with
            | [] => s
            | t0 :: _ =>
              let used (s : State) (t : Nat) : State := (drop s).updUnit unit fun x =>
                { x with last := (launch, t) :: x.last.filter (·.1 != launch) }
              match ts.find? fun t => (s.placeable t w).isSome with
              | some t => (used s t).placeOne t w none
              | none => (used s t0).updTile t0 fun x => { x with waiting := x.waiting ++ [w] })

/-! ## Overload (R529–R531) -/

/-- OVERLOAD_SAMPLE: a partition's 1 µs sample; 10 ms of overloaded samples raise OVERLOAD once (R529, R530). -/
def execOverloadSample (now p : Nat) (s : State) : Out :=
  let s := s.at now
  .next (if !s.clocked then s else
    let isOver := s.srt.units.any fun u => u.held.any fun h => h.rays.any fun r => (s.ctx r.ctx).part == p
    let x := s.srtPart p
    if !isOver then s.updSrtPart p fun x => { x with since := none, raised := false }
    else
      let t0 := x.since.getD s.now
      if s.now - t0 ≥ 10000000 && !x.raised then
        let s := s.updSrtPart p fun x => { x with since := some t0, raised := true, overload := true, count := x.count + 1 }
        ({ s with srt := { s.srt with overloads := s.srt.overloads + 1 } }.logEvent 0x0050 5 1 (toLe 1 p)).msix (some p) x.ovlVec
      else s.updSrtPart p fun x => { x with since := some t0 })

end Sys2Proof.Machine
end

