-- ==== Sys2Proof/Machine/Power.lean ====
section
/-! DEFINITION. The power manager: droop, the estimator and the sharing of the cap, operating points, reconciliation, thermal limits,
SHED, the coolant stop, phases and ageing (R542–R603). Powers are exact rationals in mW; registers hold their whole part. -/
namespace Sys2Proof.Machine

def State.updPwr (s : State) (f : Pwr → Pwr) : State := { s with pwr := f s.pwr }
def State.pwrTile (s : State) (t : Nat) : PwrTile := s.pwr.tiles.getD t {}
def State.updPwrTile (s : State) (t : Nat) (f : PwrTile → PwrTile) : State := s.updPwr fun p => { p with tiles := p.tiles.modify t f }
def State.pwrPart (s : State) (p : Nat) : PwrPart := s.pwr.parts.getD p {}
def State.updPwrPart (s : State) (p : Nat) (f : PwrPart → PwrPart) : State := s.updPwr fun x => { x with parts := x.parts.modify p f }

/-! ## Operating points (R548–R553) -/

/-- FMAX of a tile in 10 MHz units (R548). -/
def fmaxOf (t : Nat) : Nat := max 170 (min 240 (Config.fmax t))

def Pwr.entry (p : Pwr) (i : Nat) : Nat := p.patina.getD i 0
def Pwr.usedPoint (p : Pwr) (i : Nat) : Bool := i < 16 && bitAt (p.entry i) 28
/-- The used entries of the Patina table, ascending (R549). -/
def Pwr.points (p : Pwr) : List Nat := (List.range 16).filter p.usedPoint
def Pwr.topPoint (p : Pwr) : Nat := p.points.getLastD 0

/-- The effective voltage of an entry in mV (R551). -/
def Pwr.effVolt (p : Pwr) (i : Nat) : Nat := bits (p.entry i) 8 12 + (bits (p.entry i) 20 8 * p.ageFuses + 9) / 10

/-- Frequency of a tile at a point in 10 MHz units (R553). -/
def Pwr.freq (p : Pwr) (t i : Nat) : Nat := min (bits (p.entry i) 0 8) (fmaxOf t)

/-- The next lower and the next higher operating point. -/
def Pwr.pointBelow (p : Pwr) (i : Nat) : Nat := (p.points.filter (· < i)).getLastD i
def Pwr.pointAbove (p : Pwr) (i : Nat) : Nat := (p.points.filter (· > i)).headD i

/-- The compute die of a tile. -/
def dieOf (t : Nat) : Nat := b2n (t % 12 ≥ 6)

/-! ## Clamps (R579–R582) -/

def Clamp.same (a b : Clamp) : Bool := a.loop == b.loop && a.part == b.part && a.winner == b.winner && a.loser == b.loser

/-- The 32 bytes of a clamp record (R581). -/
def Clamp.bytes (c : Clamp) : List Byte :=
  toLe 8 c.time ++ toLe 1 c.loop ++ toLe 1 c.part ++ toLe 2 c.unit ++ toLe 1 c.winner ++ toLe 1 c.loser ++ toLe 2 c.winQual
    ++ toLe 2 c.loseQual ++ List.replicate 14 0

/-- The clamps of a power period count at their onset: those that the period before did not have (R580). -/
def State.onsetClamps (s : State) (l : List Clamp) : State :=
  let old := s.pwr.onset
  let new := l.foldl (fun (out : List Clamp) c => if out.any c.same then out else out ++ [c]) []
  let s := s.each (new.filter fun c => !old.any c.same) fun c s => s.policyClamp c
  s.updPwr fun p => { p with onset := new }

/-! ## The estimate and energy (R560, R597–R599) -/

/-- A tile or block in a power period: its power in mW, the part of it in MAC cycles, and each context's weighted activity in pJ (context 64:
that of none). -/
structure Sense where
  mw : Rat
  mac : Rat := 0
  acts : List (Nat × Nat)

def gainOf (s : State) : Rat := (s.pwr.gain : Rat) / 65536

/-- The power of a tile or block: its static power and its weighted activity of 2 µs (R560). -/
def senseWith (s : State) (static : Nat) (acts : List (Nat × Nat)) (mac : Nat) : Sense :=
  let sum : Nat := acts.foldl (fun n x => n + x.2) 0
  { mw := gainOf s * (static + (sum : Rat) / 2000), mac := gainOf s * ((mac : Rat) / 2000), acts := acts }

/-- Activity counts of a tile, weighted and by context (R560). -/
def weighted (l : List ((Nat × Nat) × Nat)) : List (Nat × Nat) :=
  l.foldl (fun out x => addAct out x.1.1 (Config.weight (x.1.2 + 1) * x.2)) []

/-- A tile's power (R560, R568): its own counts of the period, and the mesh flits that passed it. -/
def tileSense (s : State) (flits : List ((Nat × Nat) × Nat)) (t : Nat) : Sense :=
  let l := (flits.filter (·.1.1 == t)).foldl (fun l x => addAct l (x.1.2, 9) x.2) (s.tile t).acts
  let mac : Nat := ((l.filter fun x => 1 ≤ x.1.2 && x.1.2 ≤ 4).map fun x => Config.weight (x.1.2 + 1) * x.2).foldl (· + ·) 0
  senseWith s (Config.tileStatic t (s.pwr.dies.getD (dieOf t) {}).mv (s.pwrTile t).temp) (weighted l) mac

/-- The blocks outside the tiles, in the order of their numbers (R560, R597): the Armatures by their tests, the ray sorters by their rays, the HBM
stacks by their lines, and the base die; their temperature is that of the hottest base-die sensor (log 153). -/
def blockSenses (s : State) : List Sense :=
  let temp := (s.pwr.base.map (·.temp)).foldl max 0
  let of (b w : Nat) (acts : List (Nat × Nat)) : Sense :=
    senseWith s (Config.blockStatic b temp) (acts.map fun x => (x.1, Config.weight w * x.2)) 0
  let lines (k : Nat) : List (Nat × Nat) :=
    (((s.mem.pcs.drop (32 * k)).take 32).flatMap (·.acts)).foldl (fun out x => addAct out x.1 x.2) []
  ((List.range 48).map fun a => of a 13 (s.armOf a).acts) ++ ((List.range 4).map fun u => of (48 + u) 14 (s.unit u).acts)
    ++ ((List.range 8).map fun k => of (52 + k) 15 (lines k)) ++ [of 60 0 []]

/-- The counts of a period start again. -/
def State.clearActs (s : State) : State :=
  let s := (s.updTiles fun t => { t with acts := [] }).updArms fun e => { e with arms := e.arms.map fun a => { a with acts := [] } }
  let s := { s with srt := { s.srt with units := s.srt.units.map fun (u : Sorter) => { u with acts := [] } } }
  s.updMem fun m => { m with pcs := m.pcs.map fun (p : PChan) => { p with acts := [] } }

/-- A context's part of the power of a tile or block, in proportion to its weighted activity (R597). -/
def Sense.of (x : Sense) (f : Nat → Bool) : Rat :=
  let all : Nat := x.acts.foldl (fun n y => n + y.2) 0
  let own : Nat := (x.acts.filter fun y => f y.1).foldl (fun n y => n + y.2) 0
  if all == 0 then 0 else x.mw * own / all

def sumRat (l : List Rat) : Rat := l.foldl (· + ·) 0

def senseOf (l : List Sense) (f : Nat → Bool) : Rat := sumRat (l.map (·.of f))

/-- Contexts whose energy counts run (R599). -/
def State.counting (s : State) (c : Nat) : Bool := c < 64 && (s.ctx c).state != .free && (s.ctx c).state != .dead

/-- A period's energy in nJ from a power in mW. -/
def periodNj (mw : Rat) : Nat := (2 * mw).floor.toNat

/-- Energy goes to the contexts, their partitions and phases, and what is left to the unattributed account (R597–R599). -/
def State.account (s : State) (all : List Sense) : State :=
  let nj (c : Nat) : Nat := if s.counting c then periodNj (senseOf all (· == c)) else 0
  let per := (List.range 64).map nj
  let total := periodNj (sumRat (all.map (·.mw)))
  let own := per.foldl (· + ·) 0
  let partNj (p : Nat) : Nat := ((List.range 64).filter fun c => (s.ctx c).part == p).foldl (fun n c => n + per.getD c 0) 0
  s.updPwr fun x =>
    { x with
      ctxNj := x.ctxNj.mapIdx fun c e => e + per.getD c 0
      pkg := x.pkg + total
      unattr := x.unattr + (total - own)
      parts := x.parts.mapIdx fun p y =>
        { y with energy := y.energy + partNj p, used := y.used + partNj p
                 phaseNj := y.phaseNj.modify (s.part p).phase (· + partNj p) } }

/-! ## Sharing (R568, R569) -/

/-- The demand of a partition in mW (R569). -/
def State.demand (s : State) (p : Nat) (ceil_ : Rat) : Rat :=
  let x := s.pwrPart p
  let ph := (s.part p).phase
  if ph == 0 then 0
  else
    match x.deadline with
    | none => 0
    | some d =>
      if s.now ≥ d then ceil_
      else
        let rem : Nat := x.learned.getD ph 0 - x.used
        (5 : Rat) / 4 * rem / (max (d - s.now) 2000 : Nat) * 1000

/-- A running context exists in a partition. -/
def State.active (s : State) (p : Nat) : Bool := s.cm.ctxs.any fun c => c.state == .running && c.part == p

/-- Partitions that have groups resident on a tile. -/
def State.groupParts (s : State) (t : Nat) : List Nat :=
  let x := s.tile t
  (x.groups.filterMap fun g => (x.block? g.bslot).map fun b => (s.ctx b.ctx).part).eraseDups

def loopClamp (s : State) (loop p winner loser : Nat) (q : Nat := 0) : Clamp :=
  { time := s.now, loop := loop, part := p, unit := 0xFFFF, winner := winner, loser := loser, winQual := 0, loseQual := q }

/-- The shares of the partitions in mW and the clamps (R568). -/
def State.shares (s : State) (avail : Rat) : List Rat × List Clamp :=
  let cap : Rat := s.pwr.cap * 1000
  let act := (List.range 32).filter s.active
  let unitOf (n : Nat) : Rat := (n : Rat) / 256 * cap
  let c (p : Nat) : Rat := unitOf (s.pwrPart p).ceiling
  let f (p : Nat) : Rat := min (unitOf (s.pwrPart p).floor) (c p)
  let cl1 := (act.filter fun p => (s.pwrPart p).floor > (s.pwrPart p).ceiling).map fun p => loopClamp s 1 p 0x11 0x20
  if s.pwr.fixed then ((List.range 32).map fun p => ((s.pwrPart p).fraction : Rat) / 256 * avail, cl1)
  else
    let d0 (p : Nat) : Rat := s.demand p (c p)
    let cl2 := (act.filter fun p => c p < d0 p).map fun p => loopClamp s 1 p 0x11 0x80
    let d (p : Nat) : Rat := max (min (d0 p) (c p)) (f p)
    let sf := sumRat (act.map f)
    let sd := sumRat (act.map d)
    let sc := sumRat (act.map c)
    let on (g : Nat → Rat) : List Rat := (List.range 32).map fun p => if act.contains p then g p else 0
    if avail ≤ sf then (on fun p => f p * avail / sf, cl1 ++ cl2 ++ act.map fun p => loopClamp s 1 p 0x10 0x20)
    else if avail < sd then (on fun p => f p + (avail - sf) * (d p - f p) / (sd - sf), cl1 ++ cl2)
    else
      let h := sc - sd
      let r : Rat := if h == 0 then 0 else min 1 ((avail - sd) / h)
      (on fun p => d p + r * (c p - d p), cl1 ++ cl2)

/-- The largest k in 1–16 that fits a budget, else 1 (R568). -/
def kFor (x : Sense) (kprev : Nat) (b : Rat) : Nat :=
  let fits (k : Nat) : Bool := x.mw - x.mac + x.mac * k / kprev ≤ b
  (((List.range 17).drop 1).filter fits).getLastD 1

/-- In SHED (R587). -/
def State.shed (s : State) : Bool := s.pwr.dip.isSome

/-- The limit of a tile: the smallest of those of the loops (R362, R543, R587). -/
def State.kLimit (s : State) (t : Nat) : Nat :=
  let x := s.pwrTile t
  min (min x.kShare x.kThermal) (if s.shed then 4 else 16)

/-- Every tile's limit for its next 16-cycle window (R362, R543). -/
def State.setLimits (s : State) : State :=
  { s with tiles := s.tiles.mapIdx fun t x => { x with chs := { x.chs with nextLimit := s.kLimit t } } }

/-- Share the cap and set each tile's limit; the clamps of the sharing loop (R568, R582). -/
def State.shareCap (s : State) (tiles : List Sense) (blocks : List Sense) : State × List Clamp :=
  let tile (t : Nat) : Sense := tiles.getD t ⟨0, 0, []⟩
  let inPart (p c : Nat) : Bool := s.counting c && (s.ctx c).part == p
  let groups := (List.range 144).filter fun t => !(s.tile t).groups.isEmpty
  let idle := sumRat (((List.range 144).filter fun t => !groups.contains t).map fun t => (tile t).mw)
    + sumRat ((blocks.filter fun b => b.acts.all (·.2 == 0)).map (·.mw))
  let cap : Rat := s.pwr.cap * 1000
  let guard : Rat := if s.pwr.degraded then cap / 10 else 20000
  let (share, cl) := s.shares (cap - guard - idle)
  let act := (List.range 32).filter s.active
  let out (p : Nat) : Rat := senseOf blocks (inPart p)
  let budget (p : Nat) : Rat := max 0 (share.getD p 0 - out p)
  let mine (p : Nat) : Rat := senseOf tiles (inPart p)
  let rows := act.map fun p => (p, budget p, mine p)
  let b (t : Nat) : Rat := sumRat (rows.map fun (p, w, m) => if m == 0 then 0 else w * ((tile t).of (inPart p)) / m)
  let kprev (t : Nat) : Nat := (s.tile t).chs.limit
  let s := s.each groups fun t s => s.updPwrTile t fun x => { x with kShare := kFor (tile t) (kprev t) (b t) }
  -- a floor that SHED or thermal throttling leaves unmet: a clamp for each protection that is the limit in effect on a tile of the partition
  let cut := groups.filter fun t => s.kLimit t < (s.pwrTile t).kShare
  let power (p t : Nat) : Rat :=
    let x := tile t
    if x.mw == 0 then 0
    else (x.mw - x.mac + x.mac * min (s.kLimit t) (kprev t) / kprev t) * (x.of (inPart p)) / x.mw
  let unmet := act.filter fun p =>
    (s.pwrPart p).floor != 0 && cut.any (fun t => (tile t).of (inPart p) != 0)
      && out p + sumRat (groups.map (power p)) < ((s.pwrPart p).floor : Rat) / 256 * cap
  let cuts (p : Nat) (f : Nat → Bool) : Bool := cut.any fun t => (tile t).of (inPart p) != 0 && f t
  let cl3 := unmet.flatMap fun p =>
    (if cuts p fun t => (s.pwrTile t).kThermal == s.kLimit t then [loopClamp s 1 p 0x02 0x20] else [])
      ++ (if cuts p fun t => s.shed && s.kLimit t == 4 then [loopClamp s 1 p 0x03 0x20] else [])
  (s.setLimits, cl ++ cl3)

/-! ## The operating point loop (R554, R557–R559) -/

/-- The preferred point of a partition's current phase (R556). -/
def State.preferred (s : State) (p : Nat) : Nat :=
  let v := (s.pwrPart p).pops.getD (s.part p).phase 0xFF
  if v == 0xFF then s.pwr.topPoint else v

/-- The point a tile is to run at (R557). -/
def State.wantPoint (s : State) (t : Nat) : Nat :=
  min ((s.groupParts t).foldl (fun m p => max m (s.preferred p)) 0) s.pwr.pointCeil

/-- An unreconciled window, or a voltage change that counts as one (R562, R863). -/
def State.unreconciled (s : State) : State :=
  let s := s.updPwr fun p => { p with unrec := p.unrec + 1, badRun := p.badRun + 1, goodRun := 0 }
  if s.pwr.badRun ≥ 3 && !s.pwr.degraded then (s.updPwr fun p => { p with degraded := true }).logEvent 0x0023 8 2 [] else s

/-- Tiles of a die take the points they are to run at as far as the voltage in effect carries them (R554). -/
def State.raisePoints (s : State) (die : Nat) : State :=
  let mv := (s.pwr.dies.getD die {}).mv
  s.updPwr fun p => { p with tiles := p.tiles.mapIdx (fun t x =>
    (if dieOf t == die && p.effVolt x.want ≤ mv then { x with point := x.want } else x : PwrTile)) }

/-- The chip issues a PMBus command to an address (R564, R862). -/
def State.pmbus (s : State) (addr code : Nat) (data : List Byte := []) : State :=
  s.updPwr fun p => { p with bus := p.bus ++ [{ addr := addr, code := code, data := data }] }

/-- The packet error code of the bytes of a PMBus write: the CRC-8 of SMBus (PRESUMED, log 152). -/
def pec (l : List Byte) : Nat :=
  l.foldl (fun c b => (List.range 8).foldl (fun c _ => if c < 128 then 2 * c else (2 * c % 256) ^^^ 7) (c ^^^ b.toNat)) 0

/-- VOUT_COMMAND to a core rail: the voltage in mV and the packet error code (R554, R564, R860, R863; log 152). -/
def State.voutCommand (s : State) (die mv : Nat) : State :=
  let d := toLe 2 mv
  s.pmbus (0x41 + die) 0x21 (d ++ toLe 1 (pec (toLe 1 (2 * (0x41 + die)) ++ toLe 1 0x21 ++ d)))

/-- A read of a device of the segment; a failed one is followed by STATUS_WORD (R564). -/
def State.pmbusRead {α : Type} (s : State) (addr code : Nat) (v : Option α) : State :=
  let s := s.pmbus addr code
  if v.isNone then s.pmbus addr 0x79 else s

/-- The voltage of a die follows its tiles: frequencies fall before it falls and rise after it has settled (R553, R554, R863). -/
def State.dieVolt (s : State) (die : Nat) (vout : Bool × Bool) : State :=
  let p := s.pwr
  let top := (p.tiles.mapIdx fun t x => if dieOf t == die then x.want else 0).foldl max 0
  let mv := p.effVolt top
  let r := p.dies.getD die {}
  let s := s.updPwr fun p => { p with tiles := p.tiles.mapIdx (fun t x =>
    (if dieOf t == die && x.want < x.point then { x with point := x.want } else x : PwrTile)) }
  let setRail (s : State) (r : CoreRail) : State := s.updPwr fun p => { p with dies := p.dies.set die r }
  let s := s.raisePoints die
  if mv == r.mv || r.want == some mv then s
  else
  let s := s.voutCommand die mv
  let s := if vout.1 then s else s.voutCommand die mv
  if !vout.1 && !vout.2 then s.unreconciled
  else if mv > r.mv then setRail s { r with want := some mv }
  else setRail s { mv := mv }

/-- The loop over every tile; its clamps: preferences that the point ceiling overrides (R557, R559, R575). -/
def State.pointLoop (s : State) (vout : List (Bool × Bool)) : State × List Clamp :=
  let s1 := s.updPwr fun p => { p with tiles := p.tiles.mapIdx fun t x => { x with want := s.wantPoint t } }
  let isOver := ((List.range 144).flatMap s.groupParts).eraseDups.filter fun p => s.preferred p > s.pwr.pointCeil
  let cl := isOver.map fun p => loopClamp s 2 p 0x10 0x30 (s.part p).phase
  ((s1.dieVolt 0 (vout.getD 0 (true, true))).dieVolt 1 (vout.getD 1 (true, true)), cl)

/-- POWER_PERIOD: every 2 µs the estimator runs, the energy is attributed, the cap is shared into each tile's k, and the operating
points and their ceiling are evaluated (R557–R560, R565–R569, R573, R575–R582, R597–R599). -/
def execPowerPeriod (now : Nat) (act : PeriodAct) (s : State) : Out :=
  let s := s.at now
  .next (if !s.powered then s else
    let tiles := (List.range 144).map (tileSense s act.flits)
    let blocks := blockSenses s
    let est := sumRat ((tiles ++ blocks).map (·.mw))
    let cap : Rat := s.pwr.cap * 1000
    let estMw := est.floor.toNat
    let s := (s.clearActs.account (tiles ++ blocks)).updPwr fun p =>
      { p with est := estMw, window := p.window + estMw, periods := p.periods + 1
               under95 := p.under95 && decide (est < cap * 95 / 100) }
    let floor1 := s.tiles.all fun t => t.groups.isEmpty || t.chs.limit == 1
    let s := if decide (cap < est) && floor1 && !s.pwr.overCap then
        s.updPwr fun p => { p with overCap := true, pointCeil := p.pointBelow p.pointCeil }
      else s
    let (s, c1) := s.shareCap tiles blocks
    let (s, c2) := s.pointLoop act.vout
    s.onsetClamps (c1 ++ c2))

/-- VOLTAGE_SETTLED: a core rail has settled at the voltage commanded, and the tiles that wait for it speed up (R554, R861). -/
def execVoltageSettled (die : Nat) (s : State) : Out :=
  .next (if !s.powered then s else
    match (s.pwr.dies.getD die {}).want with
    | none => s
    | some v => (s.updPwr fun p => { p with dies := p.dies.set die { mv := v } }).raisePoints die)

/-! ## Reconciliation and reporting (R561–R564, R575) -/

/-- The new gain from a measurement and the estimate over the window (R561). -/
def newGain (s : State) (m : Nat) : Nat :=
  let p := s.pwr
  let clamp (g : Nat) : Nat := max 52429 (min 81920 g)
  if p.window == 0 then clamp (Config.nat s.freeCount)
  else
    let ratio : Rat := (m : Rat) * p.periods / p.window
    clamp ((p.gain : Rat) * (1 + (ratio - 1) / 4)).floor.toNat

/-- RECONCILIATION_WINDOW: every 50 µs READ_PIN, with one retry, gives the measured power; the gain follows it, and the point ceiling
may rise (R561, R562, R564, R575). -/
def execReconciliationWindow (now : Nat) (reads : List (Option Nat)) (s : State) : Out :=
  let s := s.at now
  .next (if !s.powered then s else
    let pin := match reads with
      | some m :: _ => some (m, false)
      | none :: some m :: _ => some (m, true)
      | _ => none
    let s := s.each (match reads with
      | some m :: _ => [some m]
      | none :: r :: _ => [none, r]
      | none :: [] => [none, none]
      | [] => [none, none]) fun r s => s.pmbusRead 0x40 0x97 r
    let s := match pin with
      | none => s.unreconciled
      | some (m, retried) =>
        let g := newGain s m
        s.draw.updPwr fun p =>
          { p with gain := g, meas := m, transients := p.transients + b2n retried, badRun := 0, goodRun := p.goodRun + 1
                   degraded := p.degraded && !(decide (p.goodRun + 1 ≥ 20)) }
    s.updPwr fun p =>
      { p with window := 0, periods := 0, overCap := false, under95 := true
               pointCeil := if p.under95 && !p.baseHold then p.pointAbove p.pointCeil else p.pointCeil })

/-- PMBUS_REPORT: each ms the chip reads the input voltage and, in turn, one rail; a reading that failed leaves the last one (R564,
R862). -/
def execPmbusReport (now : Nat) (vin : Option Nat) (rail : List (Option Nat)) (s : State) : Out :=
  let s := s.at now
  .next (if !s.powered then s else
    let turn := s.pwr.railTurn
    let s := s.pmbusRead 0x40 0x88 vin
    let s := s.each ([0x8B, 0x8C, 0x96].zip rail) fun x s => s.pmbusRead (0x41 + turn) x.1 x.2
    s.updPwr fun p =>
      { p with vin := vin.getD p.vin, railTurn := (turn + 1) % 8
               rails := p.rails.modify turn fun old => [0, 1, 2].map fun i => ((rail.getD i none).getD (old.getD i 0)) })

/-! ## Droop (R544–R547) -/

/-- A tile's cycles stretch; one that did not is an onset (R545, R547). -/
def State.stretch (s : State) (t : Nat) : State :=
  let s := if (s.tile t).stretched then s else s.updPwrTile t fun x => { x with droops := x.droops + 1 }
  s.updTile t fun x => { x with stretched := true }

/-- A detector of a tile senses low supply, or 64 stretched cycles since the last that did are not over (R545). -/
def PwrTile.drooping (x : PwrTile) : Bool := !x.low.isEmpty || x.left > 0

/-- DROOP_DETECT: what a detector of a tile senses, in mV: below the threshold fused for the tile's operating point, the tile's cycles stretch from the
next edge the rule gives, and the onset counts; at or above it, the detector senses low supply no more (R544, R545, R547). -/
def execDroopDetect (tile detector mv : Nat) (s : State) : Out :=
  .next (if !s.powered then s else
    let x := s.pwrTile tile
    if mv < Config.droopThreshold tile detector x.point then
      (s.updPwrTile tile fun x => { x with low := detector :: x.low.filter (· != detector), left := 64 }).stretch tile
    else s.updPwrTile tile fun x => { x with low := x.low.filter (· != detector) })

/-- DROOP_STRETCH_END: no detector of a tile has sensed low supply for 64 of its cycles: it stretches no more, unless SHED stretches it (R545,
R587). -/
def execDroopStretchEnd (tile : Nat) (s : State) : Out :=
  .next (if !s.powered || (s.pwrTile tile).drooping then s else s.updTile tile fun t => { t with stretched := s.shed })

/-! ## Thermal (R583–R585) -/

/-- Two samples in a row of at least 120 °C assert THERMTRIP_N and gate the clocks; the sensor goes into the log (R585). -/
def State.thermTrip (s : State) (sensor : Nat) : State :=
  if s.pwr.thermtrip then s
  else (s.updPwr fun p => { p with thermtrip := true }).logEvent 0x0021 8 3 (toLe 1 sensor)

/-- THERMAL_SAMPLE: every 10 µs each sensor is sampled, in units of 0.5 °C (R583, R585). -/
def execThermalSample (now : Nat) (tiles base : List Nat) (s : State) : Out :=
  let s := s.at now
  .next (if !s.powered then s else
    let trips := (List.range 152).find? fun i =>
      if i < 144 then (s.pwrTile i).trip && tiles.getD i 0 ≥ 240
      else (s.pwr.base.getD (i - 144) {}).trip && base.getD (i - 144) 0 ≥ 240
    let s := s.updPwr fun p =>
      { p with
        maxTemp := (tiles.take 144 ++ base.take 8).foldl max p.maxTemp
        tiles := p.tiles.mapIdx fun i x =>
          let v := tiles.getD i x.temp
          { x with temp := v, hot := x.hot || v ≥ 210, warm := x.warm || v ≥ 204, trip := v ≥ 240 }
        base := p.base.mapIdx fun i x =>
          let v := base.getD i x.temp
          { x with temp := v, hot := x.hot || v ≥ 210, warm := x.warm || v ≥ 204, trip := v ≥ 240 } }
    match trips with
    | some i => s.thermTrip i
    | none => s)

/-- THERMAL_STEP: at the end of each 100 µs the thermal k ceilings and the point ceiling step (R543, R584). -/
def execThermalStep (now : Nat) (s : State) : Out :=
  let s := s.at now
  .next (if !s.powered then s else
    let n := (s.pwr.tiles.filter fun x => x.hot && x.kThermal > 1).length
    let hot := s.pwr.base.any (·.hot)
    let down := hot && s.pwr.pointBelow s.pwr.pointCeil != s.pwr.pointCeil
    (s.updPwr fun p =>
      { p with
        thermalSteps := p.thermalSteps + n + b2n down
        pointCeil := if hot then p.pointBelow p.pointCeil else p.pointCeil
        baseHold := if hot then true else p.baseHold && p.base.any (·.warm)
        tiles := p.tiles.map fun x =>
          { x with kThermal := if x.hot then max 1 (x.kThermal - 2) else if x.warm then x.kThermal else min 16 (x.kThermal + 1)
                   hot := false, warm := false }
        base := p.base.map fun x => { x with hot := false, warm := false } }).setLimits)

/-! ## SHED (R586–R591) -/

/-- SHED is left and the dip recorded: tiles stretch on only for droop (R587, R590). -/
def State.shedLeave (s : State) (d : Dip) (above : Nat) : State :=
  let us := (above - d.start) / 1000
  let s := s.updPwr fun p =>
    { p with
      dip := none
      dips := { count := p.dips.count + 1, lastMin := d.min, lastUs := us
                lowest := if p.dips.count == 0 then d.min else min p.dips.lowest d.min
                longest := max p.dips.longest us, totalNs := p.dips.totalNs + (s.now - d.start) } }
  let s := { s with tiles := s.tiles.mapIdx (fun t (x : Tile) => { x with stretched := (s.pwrTile t).drooping }) }
  s.logEvent 0x0020 8 1 (toLe 2 d.min ++ toLe 2 0 ++ toLe 4 us)

/-- A sample of the module input, with a resolution of 10 mV (R586): below 11.0 V the chip enters SHED, where every tile's k is at most 4 and its cycles
stretch, or the wait to leave it starts again; at 11.4 V or below the wait is broken; after 100 µs above 11.4 V SHED is left (R587, R589). -/
def State.inputSample (s : State) (mv : Nat) : State :=
  if !s.powered then s else
  let mv := mv / 10 * 10
  let s := s.updPwr fun p => { p with inputMv := mv }
  match s.pwr.dip with
  | none =>
    if mv ≥ 11000 then s
    else
      let s := s.updPwr fun p => { p with dip := some { start := s.now, min := mv } }
      (s.each (List.range 144) fun t s => s.stretch t).setLimits
  | some d =>
    let d := { d with min := min d.min mv, above := if mv > 11400 then some (d.above.getD s.now) else none }
    match d.above with
    | some a => if s.now ≥ a + 100000 then s.shedLeave d a else s.updPwr fun p => { p with dip := some d }
    | none => s.updPwr fun p => { p with dip := some d }

/-- SHED_ENTER: a sample of the module input, which may find it below 11.0 V (R586, R587). -/
def execShedEnter (now mv : Nat) (s : State) : Out := .next ((s.at now).inputSample mv)

/-- SHED_EXIT: a sample of the module input, which may end 100 µs above 11.4 V (R586, R589, R590). -/
def execShedExit (now mv : Nat) (s : State) : Out :=
  let s := s.at now
  .next (s.inputSample mv)

/-! ## Coolant (R74, R75, R97, R592–R595) -/

/-- A context's faults of the cycle in which a coolant stop reaches the context manager (R17–R19, R74): the first of them and of the stop is
recorded, the other own ones count; a context that is KILLING counts them. -/
def State.stopFor (s : State) (c : Nat) (fs : List FaultInfo) : State :=
  if !s.live c then s.acceptFor c fs
  else
    let stop : FaultInfo := { code := 0x11, ctx := c, unit := 8 }
    let f := (firstFault (stop :: fs)).getD stop
    s.record f ((fs.erase f).filter FaultInfo.own).length

/-- COOLANT_STOP: COOLANT_OK has been deasserted for 5 µs: the stop is latched, contexts record it, a drain is refused; the n oldest faults under
way reach the context manager in the same cycle (R17–R19, R74, R97, R593, R595, R737). -/
def execCoolantStop (now n : Nat) (s : State) : Out :=
  let s := s.at now
  .next (if s.stopped || !s.powered then s else
    let fs := s.cm.faultQ.take n
    let s := ({ s with stopped := true }.updPwr fun p => { p with stops := p.stops + 1 }).logEvent 0x0022 8 3 []
    let s := s.updCm fun m => { m with faultQ := m.faultQ.drop n }
    let s := s.each (List.range 64) fun c s => s.stopFor c (fs.filter (·.ctx == c))
    let s := if s.boot.powerDown == 1 then s.updBoot fun b => { b with powerDown := 3 } else s
    (s.loopHalt 4).drainRefuse acDrainAbortedStop)

/-- COOLANT_GLITCH: a deassertion shorter than 5 µs only counts (R592). -/
def execCoolantGlitch (s : State) : Out :=
  .next (if !s.powered then s else s.updPwr fun p => { p with glitches := p.glitches + 1 })

/-! ## Phases and learned energy (R569–R572, R275–R277) -/

/-- A phase of a partition ends: its learned energy takes in what the phase used, 1.25 times that when an epoch ended it (R570,
R571). -/
def State.endPhase (s : State) (p : Nat) (atEpoch : Bool) : State :=
  let ph := (s.part p).phase
  s.updPwrPart p fun x =>
    let o := if atEpoch then x.used * 5 / 4 else x.used
    { x with learned := x.learned.modify ph fun b => ((b : Int) + ((o : Int) - b) / 4).toNat, used := 0, deadline := none }

/-- A mark takes effect: a new phase ID ends the phase; the phase's deadline is formed from the tag (R275, R277, R569, R571). -/
def State.applyMark (s : State) (m : PhaseMark) : State :=
  let s := if (s.part m.part).phase == m.phase then s
    else (s.endPhase m.part false).updPart m.part fun x => { x with phase := m.phase }
  s.updPwrPart m.part fun x => { x with deadline := s.deadline m.part m.tag }

/-- PHASE_MARK_APPLY: the first mark of a partition under way takes effect: marks of one cycle in ascending tile_index (R275, R276). -/
def execPhaseMarkApply (now p : Nat) (s : State) : Out :=
  let s := s.at now
  .next (if !s.clocked then s else
    let l := s.pwr.marks.filter (·.part == p)
    match oldest (fun (m : PhaseMark) => (m.time, m.tile)) l with
    | none => s
    | some m => (s.updPwr fun x => { x with marks := x.marks.erase m }).applyMark m)

/-- The learned energies of a partition become 0 (R570). -/
def State.learnReset (s : State) (p : Nat) : State := s.updPwrPart p fun x => { x with learned := List.replicate 8 0 }

/-- AGEING_EPOCH: an ageing epoch ends and burns one of the 64 fuse bits (R552). -/
def execAgeingEpoch (s : State) : Out :=
  .next (if !s.powered then s else s.updPwr fun p => { p with ageFuses := min 64 (p.ageFuses + 1) })

end Sys2Proof.Machine
end

