-- ==== Sys2Proof/Machine/Events.lean ====
section
/-! DEFINITION. Events and phase marks of threads (R254–R263, R274–R277) and the pacing counters (R602, R603). -/
namespace Sys2Proof.Machine

/-! ## Pacing (R602, R603) -/

def State.pace (s : State) (c l : Nat) : Pace := (s.pwr.pace.find? fun p => p.ctx == c && p.line == l).getD { ctx := c, line := l }

def State.setPace (s : State) (p : Pace) : State :=
  s.updPwr fun x => { x with pace := p :: x.pace.filter fun q => !(q.ctx == p.ctx && q.line == p.line) }

/-- An episode of a context on a line begins unless one is open (R602). -/
def State.paceBegin (s : State) (c l : Nat) : State :=
  let p := s.pace c l
  if p.since.isSome then s else s.setPace { p with since := some s.now, arrival := p.lastChip }

/-- A thread of a context is in EVWAIT on an event ID. -/
def State.waitsOn (s : State) (c id : Nat) : Bool :=
  s.tiles.any fun t => t.groups.any fun g => (t.block? g.bslot).any (·.ctx == c) && g.lanes.any fun o => match o with
    | some l => match l.wait with
      | .evwait i _ _ _ => i == id
      | _ => false
    | none => false

/-- The open episode of a context on a line ends once no thread waits on it, and is recorded (R602, R603). -/
def State.paceEnd (s : State) (c l : Nat) : State :=
  let p := s.pace c l
  match p.since with
  | none => s
  | some t =>
    if s.waitsOn c (48 + l) then s
    else
      let us := (s.now - t) / 1000
      s.setPace { p with since := none, total := p.total + us, episodes := p.episodes + 1, lastUs := us, lastChip := p.arrival }

/-! ## Counters (R254, R255) -/

/-- The event counter of an ID as a block sees it (R254). -/
def State.eventCounter (s : State) (b : Block) (id : Nat) : Word :=
  if id < 32 then b.events.getD id 0
  else if id < 48 then (s.ctx b.ctx).hostLines.getD (id - 32) 0
  else (s.ctx b.ctx).fabricLines.getD (id - 48) 0

/-- A fabric event line increases (R255, R679). -/
def State.fabricLine (s : State) (c l n : Nat) : State :=
  s.updCtx c fun x => { x with fabricLines := x.fabricLines.modify l (· + BitVec.ofNat 32 n) }

/-- A fabric event message from a chip increases a line; an open episode notes where it came from (R603, R679). -/
def State.fabricEvent (s : State) (c l n src : Nat) : State :=
  let p := s.pace c l
  let s := if p.since.isSome then s.setPace { p with arrival := src } else s
  s.fabricLine c l n

/-- Host event lines of a mask increase by 1 (R254). -/
def State.hostEvents (s : State) (c mask : Nat) : State :=
  s.updCtx c fun x => { x with hostLines := x.hostLines.mapIdx fun i v => if bitAt mask i then v + 1 else v }

/-- counter − target, read as signed, is at least 0 (R259). -/
def reached (counter target : Word) : Bool := !(counter - target).msb

/-! ## Instructions (R256–R263) -/

/-- EVSIG: a counter of the own block, or of a block of the cluster, increases by the number of active lanes (R256, R257). -/
def execEvsig (tile : Nat) (f : SpcF) (s : State) : Out :=
  .next (runThread tile (encSpc 0x90 f) (fun tc s =>
    let sig (t bslot : Nat) (s : State) : State :=
      s.updBlock t bslot fun b => { b with events := b.events.modify (bits f.spec 0 5) (· + BitVec.ofNat 32 tc.act.length) }
    if tc.act.isEmpty then tc.step (fun _ l => l) s
    else if !bitAt f.spec 8 then tc.step (fun _ l => l) (sig tile tc.b.bslot s)
    else
      match s.liveMember tile tc.b (bits f.spec 9 2) with
      | none => tc.fault 0x0A 0 s
      | some (t, x) => tc.step (fun _ l => l) (sig t x.bslot s)) s)

/-- EVWAIT: each active lane waits for its target, with its timeout in µs (R258–R260, R602). -/
def execEvwait (tile : Nat) (f : SpcF) (s : State) : Out :=
  .next (runThread tile (encSpc 0x91 f) (fun tc s =>
    let id := bits f.spec 16 8
    let us := bits f.spec 0 16
    let until_ := if us == 0 then none else some (s.now + us * 1000)
    let v := s.eventCounter tc.b id
    let open_ := tc.act.any fun k => !reached v ((tc.lane k).gr f.srca)
    let s := if id ≥ 48 && open_ then s.paceBegin tc.b.ctx (id - 48) else s
    tc.step (fun _ l => { l with wait := .evwait id (l.gr f.srca) until_ f.dst }) s) s)

/-- EVPOLL: the counter into DST (R263). -/
def execEvpoll (tile : Nat) (f : SpcF) (s : State) : Out :=
  .next (runThread tile (encSpc 0x92 f) (fun tc s =>
    tc.step (fun _ l => l.setGr f.dst (s.eventCounter tc.b (bits f.spec 16 8))) s) s)

/-- A waiting lane goes on with a status if a condition on its counter and its timeout holds (R259, R260, R602). -/
def State.evResume (s : State) (tile slot lane : Nat) (status : Word) (ok : Bool → Option Nat → Bool) : State :=
  match (s.tile tile).group? slot with
  | none => s
  | some g =>
    match (s.tile tile).block? g.bslot, g.lane? lane with
    | some b, some l =>
      match l.wait with
      | .evwait id target until_ dst =>
        if !s.live b.ctx || !ok (reached (s.eventCounter b id) target) until_ then s
        else
          let s := (s.updGroup tile slot fun g => g.updLane lane fun l => { l with wait := .run }.setGr dst status).stir b.ctx
          if id ≥ 48 then s.paceEnd b.ctx (id - 48) else s
      | _ => s
    | _, _ => s

/-- EVWAIT_RESUME: a lane whose counter has reached its target goes on with status 0 (R259). -/
def execEvwaitResume (tile slot lane : Nat) (s : State) : Out :=
  .next (if !s.clocked then s else s.evResume tile slot lane 0 fun r _ => r)

/-- EVWAIT_TIMEOUT: a lane whose timeout has passed goes on with status 1, or with 0 if its counter has reached its target (R259,
R260). -/
def execEvwaitTimeout (now tile slot lane : Nat) (s : State) : Out :=
  let s := s.at now
  .next (if !s.clocked then s else
    (s.evResume tile slot lane 0 fun r u => r && u.any (· ≤ s.now)).evResume tile slot lane 1 fun _ u => u.any (· ≤ s.now))

/-- PHASE: the mark leaves for the power manager (R274–R276). -/
def execPhase (tile : Nat) (f : SpcF) (s : State) : Out :=
  .next (runThread tile (encSpc 0xA2 f) (fun tc s =>
    let m : PhaseMark :=
      { part := (s.ctx tc.b.ctx).part, phase := bits f.spec 0 3, tag := bits f.spec 3 24, time := s.now, tile := tile }
    let s := if tc.act.isEmpty then s else s.updPwr fun x => { x with marks := x.marks ++ [m] }
    tc.step (fun _ l => l) s) s)

end Sys2Proof.Machine
end

