-- ==== Sys2Proof/Machine/Tcu.lean ====
section
/-! DEFINITION. Meanings of the TCU's instructions (R295–R331) but for the stream commands. -/
namespace Sys2Proof.Machine

/-- A format A operation: DST = SA op SB. -/
def tcuOp (op tile slot : Nat) (f : TaF) (g : Word → Word → Word) (s : State) : Out :=
  runTcu tile slot (encTa op f) (fun c s => s.tcuNext tile slot fun x => x.setReg f.dst (g (c.reg f.sa) (c.reg f.sb))) s

/-- A format I operation: DST = SA op an immediate. -/
def tcuOpI (op tile slot : Nat) (f : TiF) (g : Word → Word) (s : State) : Out :=
  runTcu tile slot (encTi op f) (fun c s => s.tcuNext tile slot fun x => x.setReg f.dst (g (c.reg f.sa))) s

/-- ADD (R331). -/
def execTcuAdd (tile slot : Nat) (f : TaF) (s : State) : Out :=
  tcuOp 0x01 tile slot f (fun a b => a + b) s

/-- SUB (R331). -/
def execTcuSub (tile slot : Nat) (f : TaF) (s : State) : Out :=
  tcuOp 0x02 tile slot f (fun a b => a - b) s

/-- AND (R331). -/
def execTcuAnd (tile slot : Nat) (f : TaF) (s : State) : Out :=
  tcuOp 0x03 tile slot f (fun a b => a &&& b) s

/-- OR (R331). -/
def execTcuOr (tile slot : Nat) (f : TaF) (s : State) : Out :=
  tcuOp 0x04 tile slot f (fun a b => a ||| b) s

/-- XOR (R331). -/
def execTcuXor (tile slot : Nat) (f : TaF) (s : State) : Out :=
  tcuOp 0x05 tile slot f (fun a b => a ^^^ b) s

/-- SHL (R331). -/
def execTcuShl (tile slot : Nat) (f : TaF) (s : State) : Out :=
  tcuOp 0x06 tile slot f (fun a b => a <<< (b.toNat % 32)) s

/-- SHR (R331). -/
def execTcuShr (tile slot : Nat) (f : TaF) (s : State) : Out :=
  tcuOp 0x07 tile slot f (fun a b => a >>> (b.toNat % 32)) s

/-- SAR (R331). -/
def execTcuSar (tile slot : Nat) (f : TaF) (s : State) : Out :=
  tcuOp 0x08 tile slot f (fun a b => a.sshiftRight (b.toNat % 32)) s

/-- MUL (R331). -/
def execTcuMul (tile slot : Nat) (f : TaF) (s : State) : Out :=
  tcuOp 0x09 tile slot f (fun a b => a * b) s

/-- SLT (R331). -/
def execTcuSlt (tile slot : Nat) (f : TaF) (s : State) : Out :=
  tcuOp 0x0A tile slot f (fun a b => if a.toInt < b.toInt then 1 else 0) s

/-- SLTU (R331). -/
def execTcuSltu (tile slot : Nat) (f : TaF) (s : State) : Out :=
  tcuOp 0x0B tile slot f (fun a b => if a.toNat < b.toNat then 1 else 0) s

/-- ADDI (R331). -/
def execTcuAddi (tile slot : Nat) (f : TiF) (s : State) : Out :=
  tcuOpI 0x10 tile slot f (fun a => a + BitVec.ofInt 32 (signed f.imm 16)) s

/-- ANDI (R331). -/
def execTcuAndi (tile slot : Nat) (f : TiF) (s : State) : Out :=
  tcuOpI 0x11 tile slot f (fun a => a &&& BitVec.ofNat 32 f.imm) s

/-- ORI (R331). -/
def execTcuOri (tile slot : Nat) (f : TiF) (s : State) : Out :=
  tcuOpI 0x12 tile slot f (fun a => a ||| BitVec.ofNat 32 f.imm) s

/-- XORI (R331). -/
def execTcuXori (tile slot : Nat) (f : TiF) (s : State) : Out :=
  tcuOpI 0x13 tile slot f (fun a => a ^^^ BitVec.ofNat 32 f.imm) s

/-- SHLI (R331). -/
def execTcuShli (tile slot : Nat) (f : TiF) (s : State) : Out :=
  tcuOpI 0x15 tile slot f (fun a => a <<< (f.imm % 32)) s

/-- SHRI (R331). -/
def execTcuShri (tile slot : Nat) (f : TiF) (s : State) : Out :=
  tcuOpI 0x16 tile slot f (fun a => a >>> (f.imm % 32)) s

/-- SARI (R331). -/
def execTcuSari (tile slot : Nat) (f : TiF) (s : State) : Out :=
  tcuOpI 0x17 tile slot f (fun a => a.sshiftRight (f.imm % 32)) s

/-- LUI (R331). -/
def execTcuLui (tile slot : Nat) (f : TiF) (s : State) : Out :=
  tcuOpI 0x14 tile slot f (fun _ => BitVec.ofNat 32 (f.imm * 65536)) s

/-- A conditional branch (R330, R331). -/
def tcuBranch (op tile slot : Nat) (f : TbF) (g : Word → Word → Bool) (s : State) : Out :=
  runTcu tile slot (encTb op f) (fun c s =>
    if g (c.reg f.sa) (c.reg f.sb) then s.tcuJump tile slot (encTb op f) ((c.pc : Int) + 4 * signed f.disp 16) id
    else s.tcuNext tile slot id) s

/-- BEQ (R330, R331). -/
def execTcuBeq (tile slot : Nat) (f : TbF) (s : State) : Out :=
  tcuBranch 0x20 tile slot f (fun a b => a == b) s

/-- BNE (R330, R331). -/
def execTcuBne (tile slot : Nat) (f : TbF) (s : State) : Out :=
  tcuBranch 0x21 tile slot f (fun a b => a != b) s

/-- BLT (R330, R331). -/
def execTcuBlt (tile slot : Nat) (f : TbF) (s : State) : Out :=
  tcuBranch 0x22 tile slot f (fun a b => a.toInt < b.toInt) s

/-- BGE (R330, R331). -/
def execTcuBge (tile slot : Nat) (f : TbF) (s : State) : Out :=
  tcuBranch 0x23 tile slot f (fun a b => a.toInt ≥ b.toInt) s

/-- BLTU (R330, R331). -/
def execTcuBltu (tile slot : Nat) (f : TbF) (s : State) : Out :=
  tcuBranch 0x24 tile slot f (fun a b => a.toNat < b.toNat) s

/-- BGEU (R330, R331). -/
def execTcuBgeu (tile slot : Nat) (f : TbF) (s : State) : Out :=
  tcuBranch 0x25 tile slot f (fun a b => a.toNat ≥ b.toNat) s

/-- JAL: the link into wr15 (tr15 in trap mode), then the jump (R330, R331). -/
def execTcuJal (tile slot : Nat) (f : TjF) (s : State) : Out :=
  runTcu tile slot (encTj 0x26 f) (fun c s =>
    s.tcuJump tile slot (encTj 0x26 f) ((c.pc : Int) + 4 * signed f.disp 26) fun x =>
      x.setReg 15 (BitVec.ofNat 32 (c.pc + 4))) s

/-- JR: jump to the offset in SA (R330, R331). -/
def execTcuJr (tile slot : Nat) (f : TaF) (s : State) : Out :=
  runTcu tile slot (encTa 0x27 f) (fun c s => s.tcuJump tile slot (encTa 0x27 f) ((c.reg f.sa).toNat : Int) id) s

/-! ## Local memory and VA accesses (R302, R305, R306) -/

/-- The local address SA + sign-extended IMM16, modulo 2^32 (R305; log 141). -/
def tcuLocal (c : Tcu) (f : TiF) : Nat := (c.reg f.sa + BitVec.ofInt 32 (signed f.imm 16)).toNat

/-- Whether LDW and STW may reach a word: in trap mode the spill area and window stack of the slot's own area (R302), else
its own area and the allocations of blocks the slot placed (R305); the allocation of a retired cluster member is one as long as R128 keeps it
(log 142). -/
def State.tcuReach (s : State) (tile slot a : Nat) : Bool :=
  let c := (s.tile tile).tcu slot
  let base := slotArea slot
  if c.trap then base ≤ a && a + 4 ≤ base + 0x300
  else (base ≤ a && a + 4 ≤ base + 0x400)
    || (s.tile tile).blocks.any fun b => b.tcu == some slot && b.launch == c.launch && b.base ≤ a && a + 4 ≤ b.base + b.size

/-- The checks of LDW and STW, then an effect (R305). -/
def tcuWordAccess (op tile slot : Nat) (f : TiF) (eff : Tcu → Nat → State → State) (s : State) : Out :=
  runTcu tile slot (encTi op f) (fun c s =>
    let a := tcuLocal c f
    if a % 4 != 0 then s.tcuFault tile slot (encTi op f) 0x03 0 (some a)
    else if !s.tcuReach tile slot a then s.tcuFault tile slot (encTi op f) 0x0A 0 (some a)
    else eff c a (s.act tile c.ctx 5 1)) s

/-- LDW: a local word (R305). -/
def execTcuLdw (tile slot : Nat) (f : TiF) (s : State) : Out :=
  tcuWordAccess 0x18 tile slot f (fun _ a s =>
    let v := leNat (s.localRead tile a 4)
    s.tcuNext tile slot fun x => x.setReg f.dst (BitVec.ofNat 32 v)) s

/-- STW: a local word (R305). -/
def execTcuStw (tile slot : Nat) (f : TiF) (s : State) : Out :=
  tcuWordAccess 0x19 tile slot f (fun c a s =>
    (s.localWrite tile a (toLe 4 (c.reg f.dst).toNat)).tcuNext tile slot id) s

/-- The VA in the pair SA, SA + 1 plus sign-extended IMM16 (R306). -/
def tcuVa (c : Tcu) (f : TiF) : Int :=
  ((c.reg f.sa).toNat + 2 ^ 32 * (c.reg (f.sa + 1)).toNat : Nat) + signed f.imm 16

/-- The checks of LDV and STV (R154, R155, R180, R306), then an effect with the leaf and physical address. -/
def tcuVaAccess (op tile slot : Nat) (f : TiF) (acc : Access) (eff : Tcu → Nat → Leaf → Nat → State → State) (s : State) : Out :=
  runTcu tile slot (encTi op f) (fun c s =>
    let a := tcuVa c f
    let w := encTi op f
    let addr := wrap a 64
    if a % 4 != 0 then s.tcuFault tile slot w 0x03 0 (some addr)
    else if a < 0 || a ≥ 2 ^ 52 then s.tcuFault tile slot w 0x04 (b2n acc.writes) (some addr)
    else
      match s.resolve (.tile tile) c.ctx addr 4 acc with
      | (s, .error e) => s.tcuFault tile slot w e.code (accessDetail acc e) (some addr)
      | (s, .ok (l, pa)) => eff c addr l pa s) s

/-- LDV: a load at a VA, outstanding until LOAD_RETURN (R306). -/
def execTcuLdv (tile slot : Nat) (f : TiF) (s : State) : Out :=
  tcuVaAccess 0x1A tile slot f .load (fun c va l pa s =>
    let (id, s) := s.fresh
    let r : LoadRec :=
      { id := id, owner := ⟨tile, 64 + slot, 0⟩, ctx := c.ctx, key := s.keySlot c.ctx, bytes := 4, signed := false, dst := f.dst
        alloc := true, fault := none, insn := encTi 0x1A f, pc := c.pc, since := s.now
        lanes := [{ lane := 0, va := va, typ := l.typ, pa := pa }] }
    let s := ((s.updTile tile fun t => { t with loads := t.loads ++ [r] }).loadPut r c.launch).hostAsk r
    s.tcuNext tile slot fun x => { x with state := .waitLoad id }) s

/-- STV: a store at a VA through the tile's store buffer (R306); it waits while the buffer has no room (R182), and its slot is ready meanwhile
(log 143). -/
def execTcuStv (tile slot : Nat) (f : TiF) (s : State) : Out :=
  tcuVaAccess 0x1B tile slot f .store (fun c _ l pa s' =>
    let sb := (s.tile tile).sb
    if sb.length + linesNeeded sb (s.keySlot c.ctx) [(l.typ, pa / 128)] > sbLines then s
    else
      (s'.bufferStore tile c.ctx c.launch l.typ pa ⟨tile, 64 + slot, 0⟩ (toLe 4 (c.reg f.dst).toNat)).tcuNext tile slot id) s

/-- FENCE: the slot waits until FENCE_RETIRE (R307). -/
def execTcuFence (tile slot : Nat) (f : TsF) (s : State) : Out :=
  runTcu tile slot (encTs 0x3B f) (fun _ s => s.tcuNext tile slot fun x => { x with state := .waitFence (bits f.sub 0 2) (encTs 0x3B f) none }) s

/-! ## Windows and traps (R295–R300, R326) -/

/-- SAVE: a new window, the overflow trap or LOCAL_BOUNDS; WINDOW_NEST in trap mode (R295, R296, R300, R304). -/
def execTcuSave (tile slot : Nat) (f : TsF) (s : State) : Out :=
  runTcu tile slot (encTs 0x28 f) (fun c s =>
    if c.trap then s.tcuFault tile slot (encTs 0x28 f) 0x07 0 none
    else s.tcuSave tile slot (encTs 0x28 f) 1 fun x => { x with pc := x.pc + 4 }) s

/-- RESTORE: the window before, the underflow trap or LOCAL_BOUNDS (R297). -/
def execTcuRestore (tile slot : Nat) (f : TsF) (s : State) : Out :=
  runTcu tile slot (encTs 0x29 f) (fun _ s =>
    s.tcuRestore tile slot (encTs 0x29 f) 2 fun x => { x with pc := x.pc + 4 }) s

/-- TRET: leave trap mode, count the frame spilled or filled, and repeat what trapped (R299). -/
def execTcuTret (tile slot : Nat) (f : TsF) (s : State) : Out :=
  runTcu tile slot (encTs 0x2A f) (fun _ s =>
    s.updTcu tile slot fun x =>
      let isOver := x.trapCause == 1 || x.trapCause == 3
      { x with
        trap := false, pc := x.trapPc
        wocc := if isOver then x.wocc - 1 else x.wocc + 1
        wsp := if isOver then x.wsp + 1 else x.wsp - 1 }) s

/-- HRET: RESTORE, then handlers on again and back to HPC (R326). -/
def execTcuHret (tile slot : Nat) (f : TsF) (s : State) : Out :=
  runTcu tile slot (encTs 0x2B f) (fun _ s =>
    s.tcuRestore tile slot (encTs 0x2B f) 4 fun x => { x with hen := true, inHandler := false, pc := x.hpc }) s

/-- WRD: a register of window WTGT, in trap mode (R299). -/
def execTcuWrd (tile slot : Nat) (f : TsF) (s : State) : Out :=
  runTcu tile slot (encTs 0x3C f) (fun c s =>
    s.tcuNext tile slot fun x => x.setReg f.dst ((c.wins.getD c.wtgt []).getD (bits f.sub 0 4) 0)) s

/-- WWR: write a register of window WTGT, in trap mode (R299). -/
def execTcuWwr (tile slot : Nat) (f : TsF) (s : State) : Out :=
  runTcu tile slot (encTs 0x3D f) (fun c s =>
    s.tcuNext tile slot fun x => { x with wins := x.wins.modify x.wtgt (·.set (bits f.sub 0 4) (c.reg f.sa)) }) s

/-! ## Messages (R318–R323) -/

/-- SEND: the send buffer goes to a tile and the slot waits for its status; status 3 for no such tile (R318). -/
def execTcuSend (tile slot : Nat) (f : TsF) (s : State) : Out :=
  runTcu tile slot (encTs 0x30 f) (fun c s =>
    let dest := (c.reg f.sa).toNat
    let m : Msg :=
      { src := tile, typ := bits f.sub 0 4, tag := c.sendTag, deadline := s.deadline (s.ctx c.ctx).part c.sendTag
        payload := s.localRead tile (slotArea slot + 0x340) 64 }
    s.tcuNext tile slot fun x =>
      { x with state := .waitSend
               sending := some { msg := m, dest := dest, first := none, dst := f.dst
                                 status := if dest ≥ 144 then some 3 else none } }) s

/-- A message tries its destination slot: status 2 without one, a refusal while its queue is full, else it is queued; for a
context that is being killed it is discarded and counted (R73, R318, R320). -/
def State.deliver (s : State) (tile slot : Nat) (x : Sending) : State :=
  let c := (s.tile tile).tcu slot
  let set (s : State) (f : Sending → Sending) : State := s.updTcu tile slot fun c => { c with sending := c.sending.map f }
  let target := (List.range 4).find? fun i =>
    let d := (s.tile x.dest).tcu i
    d.state != .free && d.launch == c.launch
  match target with
  | none => set s fun x => { x with status := some 2 }
  | some i =>
    if !s.live c.ctx then
      set (s.updCm fun m => { m with lateArrivals := m.lateArrivals + 1 }) fun x => { x with status := some 0 }
    else if ((s.tile x.dest).tcu i).queue.length ≥ 8 then
      set (s.updTile x.dest fun t => { t with tcuCnt := { t.tcuCnt with refused := t.tcuCnt.refused + 1 } }) fun x =>
        { x with first := some (x.first.getD s.now) }
    else
      let s := s.updTcu x.dest i fun d => { d with queue := d.queue ++ [x.msg] }
      let s := s.updTile tile fun t => { t with tcuCnt := { t.tcuCnt with sent := t.tcuCnt.sent + 1 } }
      (set s fun x => { x with status := some 0 }).updCtx c.ctx fun k => { k with quietSince := none }

/-- MESSAGE_ARRIVAL: a slot's message reaches its destination the first time (R319, R320). -/
def execMessageArrival (now tile slot : Nat) (s : State) : Out :=
  let s := s.at now
  .next (if !s.clocked then s else
    match ((s.tile tile).tcu slot).sending with
    | some x => if x.status.isNone && x.first.isNone then s.deliver tile slot x else s
    | none => s)

/-- MESSAGE_RETRY: a refused message is tried again until 2 µs after its first attempt (R320). -/
def execMessageRetry (now tile slot : Nat) (s : State) : Out :=
  let s := s.at now
  .next (if !s.clocked then s else
    match ((s.tile tile).tcu slot).sending with
    | some x =>
      match x.first with
      | some t0 => if x.status.isNone && s.now ≤ t0 + 2000 then s.deliver tile slot x else s
      | none => s
    | none => s)

/-- SEND_STATUS: the waiting SEND receives its status; 1 after 2 µs of refusal (R318). -/
def execSendStatus (now tile slot : Nat) (s : State) : Out :=
  let s := s.at now
  .next (if !s.clocked then s else
    let c := (s.tile tile).tcu slot
    match c.sending with
    | none => s
    | some x =>
      let st := match x.status with
        | some v => some v
        | none => match x.first with
          | some t0 => if s.now ≥ t0 + 2000 then some 1 else none
          | none => none
      match st with
      | none => s
      | some v => s.updTcu tile slot fun c =>
        { (c.setReg x.dst (BitVec.ofNat 32 v)) with sending := none, state := if c.state == .waitSend then .run else c.state })

/-- RECV: the next queued message, or 0xFFFF_FFFF (R322). -/
def execTcuRecv (tile slot : Nat) (f : TsF) (s : State) : Out :=
  runTcu tile slot (encTs 0x31 f) (fun c s =>
    match c.msgOrder.head? with
    | none => s.tcuNext tile slot fun x => x.setReg f.dst 0xFFFFFFFF
    | some m => (s.tcuTake tile slot m).tcuNext tile slot fun x => x.setReg f.dst m.header) s

/-- RECVW: the next queued message, or wait for one at this instruction (R322). -/
def execTcuRecvw (tile slot : Nat) (f : TsF) (s : State) : Out :=
  runTcu tile slot (encTs 0x32 f) (fun c s =>
    match c.msgOrder.head? with
    | none => s.updTcu tile slot fun x => { x with state := .waitRecv f.dst }
    | some m => (s.tcuTake tile slot m).tcuNext tile slot fun x => x.setReg f.dst m.header) s

/-- RECVW_WAKE: a slot waiting in RECVW takes an arrived message that is not due for dispatch (R322, R324). -/
def execRecvwWake (tile slot : Nat) (s : State) : Out :=
  .next (
    let c := (s.tile tile).tcu slot
    match c.state, c.msgOrder.head? with
    | .waitRecv dst, some m =>
      if !s.clocked || !s.live c.ctx || c.dispatch?.isSome then s
      else (s.tcuTake tile slot m).tcuNext tile slot fun x => { x.setReg dst m.header with state := .run }
    | _, _ => s)

/-! ## Block duties (R308–R316) -/

/-- A block of the slot: placed by it and not retired. -/
def State.ownBlock (s : State) (tile slot b : Nat) : Option Block :=
  (s.tile tile).blocks.find? fun x =>
    x.bslot == b && x.tcu == some slot && x.launch == ((s.tile tile).tcu slot).launch && !x.retired

/-- PLACE: present a block of a kernel header to the placer and wait; beyond the entry's count it answers 0xFFFF_FFFF, whatever header it
names (R308–R310; log 144). -/
def execTcuPlace (tile slot : Nat) (f : TsF) (s : State) : Out :=
  runTcu tile slot (encTs 0x33 f) (fun c s =>
    let e := c.entry.getD default
    if c.placed ≥ e.count then s.tcuNext tile slot fun x => x.setReg f.dst 0xFFFFFFFF
    else
      match c.image.khdrs.getD (bits f.sub 0 2) none with
      | none => s.tcuFault tile slot (encTs 0x33 f) 0x02 0 none
      | some h =>
        let (a, s) := s.fresh
        let w : WaitBlock :=
          { launch := c.launch, ctx := c.ctx, tcu := some slot, hdr := h, start := bitAt f.sub 2, since := s.now, arrival := a
            blockId := e.firstBlock + c.placed }
        (s.updTile tile fun t => { t with waiting := t.waiting ++ [w] }).tcuNext tile slot fun x =>
          { x with state := .waitPlace f.dst, placedSlot := none }) s

/-- PLACE_WAKE: PLACE returns the placed block's local base and slot (R308). -/
def execPlaceWake (tile slot : Nat) (s : State) : Out :=
  .next (
    let c := (s.tile tile).tcu slot
    match c.state, c.placedSlot with
    | .waitPlace dst, some b =>
      match (s.tile tile).block? b with
      | some x =>
        if !s.clocked || !s.live c.ctx then s else
        (s.updTcu tile slot fun c =>
          { c.setReg dst (BitVec.ofNat 32 (x.base + b)) with state := .run, placedSlot := none }).updCtx c.ctx fun k =>
            { k with quietSince := none }
      | none => s
    | _, _ => s)

/-- STARTB: start a placed, unstarted block of the slot (R312). -/
def execTcuStartb (tile slot : Nat) (f : TsF) (s : State) : Out :=
  runTcu tile slot (encTs 0x34 f) (fun c s =>
    let b := (c.reg f.sa).toNat % 16
    match s.ownBlock tile slot b with
    | some x =>
      if x.started then s.tcuNext tile slot fun c => c.setReg f.dst 1
      else (s.updBlock tile b fun x => { x with started := true }).tcuNext tile slot fun c => c.setReg f.dst 0
    | none => s.tcuNext tile slot fun c => c.setReg f.dst 1) s

/-- A block of the slot that has exited and has not been reported. -/
def State.toReport (s : State) (tile slot : Nat) : Option Block :=
  (s.tile tile).blocks.find? fun x =>
    x.tcu == some slot && x.launch == ((s.tile tile).tcu slot).launch && !x.retired && x.exited && !x.reported

/-- Placed blocks of the slot that remain unreported. -/
def State.unreported (s : State) (tile slot : Nat) : Bool :=
  (s.tile tile).blocks.any fun x =>
    x.tcu == some slot && x.launch == ((s.tile tile).tcu slot).launch && !x.retired && !x.reported

/-- WAITB: the slot of an exited block not yet reported; it waits for one, and answers 0xFFFF_FFFF when no placed block
remains unreported (R313). -/
def execTcuWaitb (tile slot : Nat) (f : TsF) (s : State) : Out :=
  runTcu tile slot (encTs 0x35 f) (fun _ s =>
    match s.toReport tile slot with
    | some b =>
      (s.updBlock tile b.bslot fun x => { x with reported := true }).tcuNext tile slot fun c =>
        c.setReg f.dst (BitVec.ofNat 32 b.bslot)
    | none =>
      if s.unreported tile slot then s.tcuNext tile slot fun c => { c with state := .waitBlock f.dst }
      else s.tcuNext tile slot fun c => c.setReg f.dst 0xFFFFFFFF) s

/-- WAITB_WAKE: WAITB returns the slot of a block that has exited (R313). -/
def execWaitbWake (tile slot : Nat) (s : State) : Out :=
  .next (
    let c := (s.tile tile).tcu slot
    match c.state, s.toReport tile slot with
    | .waitBlock dst, some b =>
      if !s.clocked || !s.live c.ctx then s else
      ((s.updBlock tile b.bslot fun x => { x with reported := true }).updTcu tile slot fun c =>
        { c.setReg dst (BitVec.ofNat 32 b.bslot) with state := .run }).updCtx c.ctx fun k => { k with quietSince := none }
    | _, _ => s)

/-- TEVSIG: a block event counter + 1 (R316). -/
def execTcuTevsig (tile slot : Nat) (f : TsF) (s : State) : Out :=
  runTcu tile slot (encTs 0x38 f) (fun c s =>
    let b := (c.reg f.sa).toNat % 16
    match s.ownBlock tile slot b with
    | some _ =>
      (s.updBlock tile b fun x => { x with events := x.events.modify (bits f.sub 0 5) (· + 1) }).tcuNext tile slot fun c =>
        c.setReg f.dst 0
    | none => s.tcuNext tile slot fun c => c.setReg f.dst 1) s

/-! ## Special registers (R332) -/

/-- The value of a special register (R332). -/
def tcuSpecial (s : State) (tile slot : Nat) (c : Tcu) (n : Nat) : Nat :=
  let l := (s.launch? c.launch).getD default
  let e := c.entry.getD default
  match n with
  | 0x00 => slot
  | 0x01 => c.ctx
  | 0x02 => (s.ctx c.ctx).part
  | 0x03 => tile
  | 0x04 => c.cwp
  | 0x05 => c.wocc
  | 0x06 => c.wsp
  | 0x07 => b2n c.hen
  | 0x08 => c.trapCause
  | 0x09 => c.trapPc
  | 0x0A => c.wtgt
  | 0x0B => c.hpc
  | 0x0C => c.msgTag
  | 0x0D => c.sendTag
  | 0x0E => s.now % 2 ^ 32
  | 0x0F => c.timeHi
  | 0x10 => l.args % 2 ^ 32
  | 0x11 => l.args / 2 ^ 32
  | 0x12 => e.count - c.placed
  | 0x13 => l.tag
  | _ => e.firstBlock

/-- RDSR: read a special register; DEVTIME_LO latches the high half (R332). -/
def execTcuRdsr (tile slot : Nat) (f : TsF) (s : State) : Out :=
  runTcu tile slot (encTs 0x39 f) (fun c s =>
    let n := bits f.sub 0 8
    s.tcuNext tile slot fun x =>
      let x := x.setReg f.dst (BitVec.ofNat 32 (tcuSpecial s tile slot c n))
      if n == 0x0E then { x with timeHi := bits s.now 32 32 } else x) s

/-- WRSR: write HEN bit 0 or SENDTAG bits 23:0 (R332). -/
def execTcuWrsr (tile slot : Nat) (f : TsF) (s : State) : Out :=
  runTcu tile slot (encTs 0x3A f) (fun c s =>
    let v := (c.reg f.sa).toNat
    s.tcuNext tile slot fun x =>
      if bits f.sub 0 8 == 0x07 then { x with hen := bitAt v 0 } else { x with sendTag := bits v 0 24 }) s

/-- END: start every unstarted block of the slot and wait for all to exit (R315). -/
def execTcuEnd (tile slot : Nat) (f : TsF) (s : State) : Out :=
  runTcu tile slot (encTs 0x3F f) (fun c s =>
    let start (b : Block) : Block := if b.tcu == some slot && b.launch == c.launch then { b with started := true } else b
    (s.updTile tile fun t => { t with blocks := t.blocks.map start }).tcuNext tile slot fun x =>
        { x with state := .waitEnd }) s

end Sys2Proof.Machine
end

