-- ==== Sys2Proof/Machine/Streams.lean ====
section
/-! DEFINITION. Streams: rings and their pointers, line requests and arrivals, links, late counting and the commands of the
stream engine (R377–R408, R410, R414). -/
namespace Sys2Proof.Machine

/-! ## Streams and rings -/

/-- An open stream. -/
def State.stream? (s : State) (num : Nat) : Option Stream := s.str.streams.find? (·.num == num)

def State.updStr (s : State) (f : StrEng → StrEng) : State := { s with str := f s.str }

/-- A LOAD or LINK_RECV stream. -/
def Stream.inbound (x : Stream) : Bool := x.kind == 0 || x.kind == 3

/-- The number of slots the ring may hold occupied (R388). -/
def Stream.limit (x : Stream) : Nat := x.slots + b2n x.token

/-- Occupancy (R388). -/
def Stream.occ (x : Stream) : Nat := if x.inbound then x.produced - x.consumed else x.acquired - x.consumed

/-- Lines of 128 bytes in a slot. -/
def Stream.slotLines (x : Stream) : Nat := x.slotBytes / 128

/-- The address of a slot in the tile's local memory (R388). -/
def Stream.slotAddr (x : Stream) (i : Nat) : Nat := x.ring + 64 + x.slotBytes * (i % (x.slots + 1))

/-- The VA of a line of a LOAD or STORE stream (R381). -/
def Stream.lineVa (x : Stream) (idx : Nat) : Nat :=
  let k := idx / x.slotLines
  let b := idx % x.slotLines * 128
  (x.base + k * x.stride + b / x.rowBytes * x.rowPitch + b % x.rowBytes) % 2 ^ 64

/-- The ring header (R388). -/
def Stream.header (x : Stream) : List Byte :=
  toLe 4 x.produced ++ toLe 4 x.acquired ++ toLe 4 x.consumed ++ toLe 1 x.limit ++ toLe 1 (b2n x.ended) ++ List.replicate 50 0

/-- All lines of a slot have arrived, or have been stored, or the close discards it. -/
def Stream.slotDone (x : Stream) (i : Nat) : Bool :=
  x.skips.contains i || (List.range x.slotLines).all fun l => x.done.contains (i * x.slotLines + l)

/-- Move a pointer on while a test holds, at most n times. -/
def advance (ok : Nat → Bool) : Nat → Nat → Nat
  | 0, p => p
  | n + 1, p => if ok p then advance ok n (p + 1) else p

/-- Forget the lines of slots below p. -/
def Stream.prune (x : Stream) (p : Nat) : Stream :=
  let keep (i : Nat) : Bool := i ≥ p * x.slotLines
  { x with requested := x.requested.filter keep, done := x.done.filter keep, skips := x.skips.filter (· ≥ p) }

/-- The pointers move over finished and released slots in ring order (R388, R390); a LOAD ends at COUNT slots. -/
def Stream.settle (x : Stream) : Stream :=
  let x :=
    if x.inbound then
      let p := if x.kind == 0 then advance (fun i => i < x.count && x.slotDone i) (x.slots + 1) x.produced else x.produced
      let c := advance x.marks.contains (x.slots + 1) x.consumed
      ({ x with produced := p, consumed := c, marks := x.marks.filter (· ≥ c) }).prune p
    else
      let p := advance (fun i => x.marks.contains i || x.skips.contains i) (x.slots + 1) x.produced
      let c := advance (fun i => i < p && x.slotDone i) (x.slots + 1) x.consumed
      ({ x with produced := p, consumed := c, marks := x.marks.filter (· ≥ p) }).prune c
  if x.kind == 0 && x.produced == x.count then { x with ended := true } else x

/-- A token goes back when occupancy falls to SLOTS − 1 or fewer (R414). -/
def Stream.returnToken (x old : Stream) : Stream :=
  if x.token && x.occ < old.occ && x.occ < x.slots then { x with token := false } else x

/-- Update a stream's counters. -/
def State.updStrCnt (s : State) (num : Nat) (f : StrCnt → StrCnt) : State :=
  s.updStr fun e =>
    let c := (e.cnts.find? (·.num == num)).getD { num := num }
    { e with cnts := f c :: e.cnts.filter (·.num != num) }

/-- A stream changes: its pointers settle, the port writes the header (R389), progress restarts its quiet count (R410), and
its consumed slots are counted. -/
def State.updStream (s : State) (num : Nat) (f : Stream → Stream) : State :=
  match s.stream? num with
  | none => s
  | some x =>
    let y := (f x).settle.returnToken x
    let moved := y.produced != x.produced || y.acquired != x.acquired || y.consumed != x.consumed
    let y := if moved then { y with progress := s.now } else y
    let s := s.updStr fun e => { e with streams := e.streams.map fun z => if z.num == num then y else z }
    let s := if y.header != x.header then s.localWrite y.tile y.ring y.header else s
    if y.consumed != x.consumed then s.updStrCnt num fun c => { c with slots := c.slots + (y.consumed - x.consumed) } else s

/-- Whether a slot can be acquired (R391). -/
def Stream.canAcquire (x : Stream) : Bool :=
  x.closing == .no && if x.inbound then x.acquired < x.produced else x.occ < x.limit

/-- Acquire the next slot (R391, R403). -/
def State.acquire (s : State) (num : Nat) : State :=
  s.updStream num fun x =>
    let gaps := match x.lastAcq with
      | none => x.gaps
      | some t => ((s.now - t) :: x.gaps).take 4
    { x with acquired := x.acquired + 1, lastAcq := some s.now, gaps := gaps }

/-- Release an acquired slot (R390). -/
def State.release (s : State) (num i : Nat) : State := s.updStream num fun x => { x with marks := i :: x.marks }

/-- A stream that a block's groups may name: open for its context on its tile, bound to the block (R280, R393). -/
def State.boundStream (s : State) (tile : Nat) (b : Block) (num : Nat) : Option Stream :=
  match s.stream? num with
  | none => none
  | some x => if x.ctx == b.ctx && x.tile == tile && x.bslot == b.bslot && x.closing == .no then some x else none

/-- A stream that a CHOP of a context may name: open for it on the tile (R342). -/
def State.openOn (s : State) (tile c num : Nat) : Option Stream :=
  (s.stream? num).filter fun x => x.ctx == c && x.tile == tile && x.closing == .no

/-! ## Opening (R380–R383) -/

/-- The status of the first check of an OPEN that fails, or 0 (R382). -/
def State.openStatus (s : State) (tile slot : Nat) (d : List Byte) : Nat :=
  let c := (s.tile tile).tcu slot
  let kind := field d 1 1
  let mode := field d 2 1
  let slots := field d 3 1
  let ahead := field d 4 1
  let num := field d 6 2
  let ring := field d 8 4
  let sb := field d 12 4
  let base := field d 16 8
  let row := field d 24 4
  let pitch := field d 28 4
  let stride := field d 32 8
  let count := field d 40 4
  let partner := field d 52 2
  let mem := kind == 0 || kind == 1
  let bad := field d 0 1 != 0 || kind ≥ 4 || mode ≥ 3 || (kind != 0 && mode != 0) || slots < 3 || slots > 16
    || (if kind == 0 && mode == 1 then ahead < 1 || ahead > slots else ahead != 0)
    || field d 5 1 ≥ 16 || num ≥ 4096 || ring % 64 != 0 || sb % 128 != 0 || sb < 128 || sb > 65536
    || (if mem then base % 128 != 0 || row % 128 != 0 || row == 0 || sb % row != 0 || pitch % 128 != 0 || pitch < row
          || stride % 128 != 0
        else base + row + pitch + stride != 0)
    || (if kind == 0 then count == 0 else count != 0)
    || (if kind == 2 then partner ≥ 4096 else partner != 0) || !zeroRun d 54 10
  let range := s.str.ranges.getD c.ctx (0, 0)
  if bad then 1
  else if num < range.1 || num ≥ range.1 + range.2 then 2
  else if (s.stream? num).isSome then 3
  else
    match s.ownBlock tile slot (field d 5 1) with
    | none => 5
    | some b =>
      if ring + 64 + (slots + 1) * sb > b.size then 5
      else if kind == 2 && !(match s.stream? partner with
          | none => false
          | some p => p.kind == 3 && p.ctx == c.ctx && p.slotBytes == sb && p.closing == .no
              && s.str.streams.all fun y => !(y.kind == 2 && y.partner == partner)) then 6
      else if (s.str.streams.filter (·.tile == tile)).length ≥ 64 then 7
      else 0
where
  /-- Bytes lo … lo + n − 1 are 0. -/
  zeroRun (d : List Byte) (lo n : Nat) : Bool := ((d.drop lo).take n).all (· == 0)

/-- The stream an OPEN makes: pointers 0, counters cleared, the header written (R383, R388). -/
def State.openStream (s : State) (tile slot : Nat) (d : List Byte) : State :=
  let c := (s.tile tile).tcu slot
  let bs := field d 5 1
  let num := field d 6 2
  let base := ((s.ownBlock tile slot bs).map (·.base)).getD 0
  let x : Stream :=
    { num := num, id := s.str.nextId, ctx := c.ctx, tile := tile, tcu := slot, bslot := bs, kind := field d 1 1, mode := field d 2 1
      slots := field d 3 1, ahead := field d 4 1, ring := base + field d 8 4, slotBytes := field d 12 4, base := field d 16 8
      rowBytes := field d 24 4, rowPitch := field d 28 4, stride := field d 32 8, count := field d 40 4, tag := field d 44 3
      maxLines := field d 47 1, rateNs := field d 48 4, partner := field d 52 2, progress := s.now }
  (s.updStr fun e =>
    { e with streams := e.streams ++ [x], nextId := e.nextId + 1
             cnts := e.cnts.filter (·.num != num) }).localWrite tile x.ring x.header

/-- STRCMD: the checks on its descriptor's place (R380), then the effect on it. -/
def strcmd (tile slot : Nat) (f : TsF) (eff : List Byte → State → State) (s : State) : Out :=
  runTcu tile slot (encTs 0x37 f) (fun c s =>
    let a := (c.reg f.sa).toNat
    if a % 64 != 0 then s.tcuFault tile slot (encTs 0x37 f) 0x03 0 (some a)
    else
      match (List.range 16).find? fun i => !s.tcuReach tile slot (a + 4 * i) with
      | some _ => s.tcuFault tile slot (encTs 0x37 f) 0x0A 0 (some a)
      | none => eff (s.localRead tile a 64) s) s

/-- STREAM_OPEN: STRCMD with OP 0 (or a reserved OP, which is BAD_FIELD) opens a stream or answers the status of the first check
that fails (R382, R383). -/
def execStreamOpen (tile slot : Nat) (f : TsF) (s : State) : Out :=
  let a := (((s.tile tile).tcu slot).reg f.sa).toNat
  if s.localRead tile a 1 == [1] && a % 64 == 0 then .next s else
  strcmd tile slot f (fun d s =>
    let st := s.openStatus tile slot d
    let s := if st == 0 then s.openStream tile slot d else s
    s.tcuNext tile slot fun c => c.setReg f.dst (BitVec.ofNat 32 st)) s

/-! ## Closing (R384, R385, R400) -/

/-- A stream starts to close: nothing more is requested, a group waiting in SACQ will resume, and slots acquired but not
released are discarded; an outbound stream still drains what was released (R384). -/
def State.startClose (s : State) (num : Nat) (how : Closing) : State :=
  s.updStream num fun x =>
    let top := x.marks.foldl (fun m i => max m (i + 1)) x.produced
    let skips := (List.range (top - x.produced)).filterMap fun i =>
      let j := x.produced + i
      if x.marks.contains j then none else some j
    { x with closing := how, waiters := [], skips := if x.inbound then x.skips else x.skips ++ skips }

/-- A closing stream has nothing left to drain (R384). A LINK_SEND whose partner is gone has nowhere to drain to. -/
def State.closeReady (s : State) (x : Stream) : Bool :=
  x.inbound || x.consumed == x.produced || (x.kind == 2 && (s.stream? x.partner).isNone)

/-- A stream is no longer open; the partner of a LINK_SEND has its END (R400). -/
def State.dropStream (s : State) (x : Stream) : State :=
  let s := s.updStr fun e => { e with streams := e.streams.filter (·.num != x.num) }
  if x.kind == 2 then s.updStream x.partner fun p => { p with ended := true } else s

/-- STREAM_CLOSE: STRCMD with OP 1 starts closing a stream, and the slot waits for the close; or its status at once (R382,
R384). -/
def execStreamClose (tile slot : Nat) (f : TsF) (s : State) : Out :=
  let a := (((s.tile tile).tcu slot).reg f.sa).toNat
  if s.localRead tile a 1 != [1] || a % 64 != 0 then .next s else
  strcmd tile slot f (fun d s =>
    let c := (s.tile tile).tcu slot
    let num := field d 6 2
    let range := s.str.ranges.getD c.ctx (0, 0)
    let bad := num ≥ 4096 || !((d.drop 1).take 5).all (· == 0) || !(d.drop 8).all (· == 0)
    let answer (st : Nat) : State := s.tcuNext tile slot fun c => c.setReg f.dst (BitVec.ofNat 32 st)
    if bad then answer 1
    else if num < range.1 || num ≥ range.1 + range.2 then answer 2
    else
      match s.stream? num with
      | none => answer 4
      | some x =>
        if x.kind == 3 && s.str.streams.any (fun y => y.kind == 2 && y.partner == num) then answer 3
        else if x.ctx != c.ctx || x.tile != tile || x.tcu != slot || x.closing != .no then answer 4
        else (s.startClose num (.close f.dst)).tcuNext tile slot fun c => { c with state := .waitClose num }) s

/-! ## Lines (R397, R401–R408) -/

/-- Lines outstanding of a stream. -/
def State.linesOut (s : State) (x : Stream) : Nat := ((s.tile x.tile).port.lines.filter (·.id == x.id)).length

/-- MAX_LINES, where 0 means 256 (R381). -/
def Stream.maxOut (x : Stream) : Nat := if x.maxLines == 0 then 256 else x.maxLines

/-- Whether the lines of slot j of a LOAD stream may be requested (R397). -/
def Stream.mayRequest (x : Stream) (j : Nat) : Bool :=
  j < x.count && j < x.consumed + x.limit && match x.mode with
  | 0 => true
  | 1 => j < x.acquired + x.ahead
  | _ => x.acquired ≤ x.consumed + x.marks.length

/-- The unrequested lines that a stream may request now, or the released lines that a STORE may store. -/
def Stream.wanted (x : Stream) : List Nat :=
  let lines (js : List Nat) : List Nat :=
    js.flatMap fun j => ((List.range x.slotLines).map fun l => j * x.slotLines + l).filter fun i => !x.requested.contains i
  match x.kind with
  | 0 =>
    if x.closing != .no then []
    else lines (((List.range (x.slots + 1)).map (x.produced + ·)).filter x.mayRequest)
  | 1 => lines (((List.range (x.produced - x.consumed)).map (x.consumed + ·)).filter fun j => !x.skips.contains j)
  | _ => []

/-- The wanted line of lowest address (R407). -/
def Stream.nextLine (x : Stream) : Option Nat :=
  x.wanted.foldl (fun m i => match m with
    | none => some i
    | some j => if x.lineVa i < x.lineVa j then some i else some j) none

/-- A stream that is a candidate for its port's next request (R407). -/
def State.lineCand (s : State) (x : Stream) : Bool :=
  s.live x.ctx && s.linesOut x < x.maxOut && x.nextLine.isSome

/-- The interval of a stream in ns (R403). -/
def Stream.interval (x : Stream) : Option Nat :=
  if x.gaps.length == 4 then some (x.gaps.foldl (· + ·) 0 / 4) else if x.rateNs == 0 then none else some x.rateNs

/-- Slots not yet taken by the block (R404). -/
def Stream.untaken (x : Stream) : Nat :=
  if x.inbound then x.produced - x.acquired else x.limit - (x.acquired - x.consumed)

/-- The effective deadline of a stream's next request (R404–R406). -/
def State.strDeadline (s : State) (x : Stream) : Option Nat :=
  match s.deadline (s.ctx x.ctx).part x.tag with
  | none => none
  | some d =>
    if x.untaken == 0 then some (min d s.now)
    else
      match x.interval with
      | none => some d
      | some i => some (min d (s.now + x.untaken * i))

/-- The port serves a before b (R407): effective deadline, then the earlier ready cycle, then lower context, then lower number. -/
def State.lineBefore (s : State) (a b : Stream) : Bool :=
  let ea := s.strDeadline a
  let eb := s.strDeadline b
  dlLt ea eb || (!dlLt eb ea && [a.ready.getD 0, a.ctx, a.num] < [b.ready.getD 0, b.ctx, b.num])

/-- A Chisel operation that waits for a ring slot of a stream: the next slice it needs lies in a slot it has not acquired
(R357, R396). -/
def ChiselOp.waitsRing (o : ChiselOp) (x : Stream) : Bool :=
  o.d.bsrc == 1 && o.d.stream == x.num && x.ctx == o.ctx && !x.canAcquire
    && match o.stage with
      | .queued => true
      | .compute => o.ringSlot.isNone && o.mac == 0
      | _ => false

/-- A group waits in SACQ on a stream (R408). -/
def Stream.groupWaits (x : Stream) : Bool := !x.waiters.isEmpty && !x.canAcquire && !x.ended

/-- A group or a Chisel operation waits on a stream (R408). -/
def State.waitedOn (s : State) (x : Stream) : Bool := x.groupWaits || (s.tile x.tile).chs.ops.any (·.waitsRing x)

/-- Which late counter the cycle belongs to (R408). -/
def State.lateCause (s : State) (x : Stream) : Nat :=
  if !x.inbound then 5
  else if x.kind == 3 then
    match s.str.streams.find? fun y => y.kind == 2 && y.partner == x.num with
    | some y => if y.consumed < y.produced then 3 else 4
    | none => 4
  else
    let j := x.acquired
    let slot := (List.range x.slotLines).map (j * x.slotLines + ·)
    let unasked := slot.any fun i => !x.requested.contains i && !x.done.contains i
    if unasked && !x.mayRequest j then 0
    else if unasked then
      if (s.tile x.tile).port.lines.length ≥ 256 || s.linesOut x ≥ x.maxOut then 1 else 2
    else 3

/-- The fault of a stream's line (R387). -/
def State.lineFault (s : State) (tile : Nat) (l : PortLine) (x : Stream) (e : XErr) (write : Bool) : State :=
  let detail := match e with
    | .poison st => st
    | _ => b2n write
  s.raise { code := e.code, ctx := l.ctx, tile := tile, unit := 3, addr := l.va, detail := detail, unitId := l.num, valid := 0x01
            tag := x.tag }

/-- A line is no longer outstanding. -/
def State.lineOver (s : State) (tile : Nat) (l : PortLine) : State :=
  s.updTile tile fun t => { t with port := { t.port with lines := t.port.lines.erase l } }

/-- The request of an outstanding line to the host fails (R387, R623, R624). -/
def State.lineLost (s : State) (tile : Nat) (l : PortLine) : State :=
  let s := (s.lineOver tile l).cplFailed 1
  match s.stream? l.num with
  | some x => if x.id == l.id && x.closing == .no && s.live l.ctx then s.lineFault tile l x .permission false else s
  | none => s

/-- The read of a HOST line leaves for the VF of its partition, when a tag is free; while the link is down it fails at once (R395, R610,
R621, R624). -/
def State.lineSend (s : State) (tile : Nat) (l : PortLine) (pa : Nat) : State :=
  if !s.hst.up then s.lineLost tile l
  else if s.tagsFree == 0 then s
  else (s.updTile tile fun t =>
      { t with port := { t.port with lines := t.port.lines.map fun y => if y == l then { y with sent := true, since := s.now } else y } }).post
    (.read (s.keySlot l.ctx + 1) pa 128 l.rid)

/-- The request of a LOAD line goes to its memory: translated through its context's page tables, it joins the queue of its pseudo-channel
where the device cache lacks it, or leaves over PCIe; or its fault is raised (R386, R387, R395, R402, R621, R631). -/
def State.lineAsk (s : State) (tile : Nat) (l : PortLine) (x : Stream) : State :=
  match s.resolve .stream l.ctx l.va 128 .load with
  | (s, .error e) => s.lineFault tile l x e false
  | (s, .ok (lf, pa)) =>
    if lf.typ != 0 && lf.typ != 1 then s.lineFault tile l x .permission false else
    let l := { l with leaf := some (lf, pa), sent := false }
    let s := s.updTile tile fun t => { t with port := { t.port with lines := t.port.lines ++ [l] } }
    if lf.typ == 1 then s.lineSend tile l pa
    else if s.hbmMiss 0 (s.keySlot l.ctx) (pa / 128) then s.pcPut (some l.rid) l.eff l.ctx [pa / 128]
    else s

/-- LINE_REQUEST_ISSUE: one cycle of a stream port: late cycles are counted, and the candidate of earliest effective deadline
issues its lowest unrequested line (R401, R407, R408). -/
def execLineRequestIssue (tile : Nat) (s : State) : Out :=
  .next (if !s.clocked then s else
    let mine (s : State) : List Stream := s.str.streams.filter (·.tile == tile)
    let s := s.each ((mine s).filter s.waitedOn) fun x s =>
      s.updStrCnt x.num fun c => { c with late := c.late.modify (s.lateCause x) (· + 1) }
    let cands := (mine s).filter s.lineCand
    let now := (s.tile tile).chs.cycle
    let s := s.each (mine s) fun x s => s.updStream x.num fun y =>
      { y with ready := if cands.contains x then some (y.ready.getD now) else none }
    if (s.tile tile).port.lines.length ≥ 256 then
      if cands.isEmpty then s
      else s.updTile tile fun t => { t with port := { t.port with fullCycles := t.port.fullCycles + 1 } }
    else
      let cands := (mine s).filter s.lineCand
      let best := cands.foldl (fun m x => match m with
        | none => some x
        | some b => if s.lineBefore x b then some x else some b) none
      match best with
      | none => s
      | some x =>
        match x.nextLine with
        | none => s
        | some i =>
          let data := if x.kind == 1 then
              some (s.localRead tile (x.slotAddr (i / x.slotLines) + i % x.slotLines * 128) 128)
            else none
          let (rid, s) := s.fresh
          let l : PortLine :=
            { num := x.num, id := x.id, ctx := x.ctx, idx := i, va := x.lineVa i, data := data, eff := s.strDeadline x, since := s.now
              rid := rid }
          let s := (s.act tile x.ctx 8 1).act tile x.ctx 5 (if data.isSome then 32 else 0)
          let s := (s.stir x.ctx).updTile tile fun t => { t with port := { t.port with requested := t.port.requested + 1 } }
          let s := (s.updStrCnt x.num fun c => { c with lines := c.lines + 1 }).updStream x.num fun y =>
            { y with requested := i :: y.requested, ready := none }
          if data.isSome then s.updTile tile fun t => { t with port := { t.port with lines := t.port.lines ++ [l] } }
          else s.lineAsk tile l x)

/-- LINE_ARRIVAL: the data of an outstanding LOAD line reaches the ring's banks, or a poisoned line raises its fault; a line of a stream that
is no longer open is discarded (R384, R387, R394, R395, R638). Its read waits for a row that is being copied (R643) and is served by its
pseudo-channel in order (R631); a HOST line waits for `host`, the completion. -/
def execLineArrival (tile index : Nat) (host : List (Nat × Byte)) (s : State) : Out :=
  .next (if !s.clocked then s else
    match (s.tile tile).port.lines[index]? with
    | none => s
    | some l =>
      match l.leaf with
      | none => s
      | some (lf, pa) =>
        if s.pcHeld (some l.rid) then s
        else if lf.typ == 1 && !l.sent then s.lineSend tile l pa
        else if lf.typ == 1 && (hostBytes host pa 128).isNone then s
        else
          let s := (s.pcTake (some l.rid)).lineOver tile l
          match s.stream? l.num with
          | none => s
          | some x =>
            if x.id != l.id || x.closing != .no || !s.live l.ctx then s else
            let put (s : State) (d : List Byte) : State :=
              ((s.act tile x.ctx 5 32).localWrite tile (x.slotAddr (l.idx / x.slotLines) + l.idx % x.slotLines * 128) d).updStream l.num fun y =>
                { y with done := l.idx :: y.done }
            match if lf.typ == 1 then hostBytes host pa 128 else none with
            | some d => put s d
            | none =>
              let (m, d, bad) := s.mem.read (s.keySlot l.ctx) pa 128
              let s := { s with mem := m }
              if bad then s.lineFault tile l x (.poison (m.poisonUnit (s.keySlot l.ctx) pa 128)) false else put s d)

/-- STORE_LINE_DONE: a STORE line's write reaches its point at SYSTEM scope, or its fault is raised; a line issued
before a kill drains (R188, R384, R386, R387, R401). -/
def execStoreLineDone (tile index : Nat) (s : State) : Out :=
  .next (if !s.clocked then s else
    match (s.tile tile).port.lines[index]? with
    | none => s
    | some l =>
      match l.data with
      | none => s
      | some d =>
        let s := s.lineOver tile l
        match s.stream? l.num with
        | none => s
        | some x =>
          if x.id != l.id || !(s.live l.ctx || (s.ctx l.ctx).state == .killing) then s else
          match s.resolve .stream l.ctx l.va 128 .store with
          | (s, .error e) => s.lineFault tile l x e true
          | (s, .ok (lf, _)) =>
            if lf.typ == 2 || lf.typ == 3 then s.lineFault tile l x .permission true else
            match s.writeVa .stream l.ctx .store 2 l.va d with
            | (s, some (e, _)) => s.lineFault tile l x e true
            | (s, none) => s.updStream l.num fun y => { y with done := l.idx :: y.done })

/-! ## Links (R398–R400) -/

/-- LINK_TRANSFER: a LINK_SEND starts to drain its oldest released slot once its partner's occupancy is below its limit; the transfer
travels at the stream's effective deadline (R398, R399). -/
def execLinkTransfer (num : Nat) (s : State) : Out :=
  .next (if !s.clocked then s else
    match s.stream? num with
    | none => s
    | some x =>
      match s.stream? x.partner with
      | none => s
      | some p =>
        if x.kind != 2 || !s.live x.ctx || x.xfer.isSome || x.consumed ≥ x.produced || p.occ ≥ p.limit then s
        else ((s.stir x.ctx).act x.tile x.ctx 5 (x.slotBytes / 4)).updStream num fun y =>
          { y with xfer := some ⟨x.consumed, s.localRead x.tile (x.slotAddr x.consumed) x.slotBytes, s.strDeadline x⟩ })

/-- LINK_SLOT_DELIVERED: the slot's last byte is at the receiver's banks: it is PRODUCED there, and then the sender's CONSUMED
advances (R398). -/
def execLinkSlotDelivered (num : Nat) (s : State) : Out :=
  .next (if !s.clocked then s else
    match s.stream? num with
    | none => s
    | some x =>
      match x.xfer, s.stream? x.partner with
      | some t, some p =>
        if !s.live x.ctx then s else
        let s := ((s.act p.tile p.ctx 5 (t.data.length / 4)).localWrite p.tile (p.slotAddr p.produced) t.data).updStream p.num fun p => { p with produced := p.produced + 1 }
        s.updStream num fun y => { y with xfer := none, skips := t.slot :: y.skips }
      | _, _ => s)

/-! ## Ranges -/

/-- STR_CTX_RANGE_WRITE: a context's range of stream numbers, refused if the context is not FREE, the range passes 4,096 or it
overlaps another's (R377, R378, R418). -/
def State.strRangeWrite (s : State) (c v : Nat) : State :=
  let base := bits v 0 12
  let count := bits v 12 13
  let clash := (List.range 64).any fun o =>
    let r := s.str.ranges.getD o (0, 0)
    o != c && count != 0 && r.2 != 0 && base < r.1 + r.2 && r.1 < base + count
  if (s.ctx c).state != .free || base + count > 4096 || clash then s.updStr fun e => { e with refused := true }
  else (s.updStr fun e => { e with ranges := e.ranges.set c (base, count) }).applied

end Sys2Proof.Machine
end

