-- ==== Sys2Proof/Machine/Retire.lean ====
section
/-! DEFINITION. RETIRE, END and the completion of stream closes (R314, R315, R384, R385). -/
namespace Sys2Proof.Machine

/-- The open streams bound to a block. -/
def State.blockStreams (s : State) (tile bslot : Nat) : List Stream :=
  s.str.streams.filter fun x => x.tile == tile && x.bslot == bslot

/-- Start to close every stream bound to a block, and end the closes that have nothing left to drain (R385). -/
def State.closeBlock (s : State) (tile bslot : Nat) : State :=
  let s := s.each ((s.blockStreams tile bslot).filter (·.closing == .no)) fun x s => s.startClose x.num .retire
  s.each ((s.blockStreams tile bslot).filter s.closeReady) fun x s => s.dropStream x

/-- TCU_RETIRE: retire an exited block that this slot placed and answer 0, once its streams are closed; else answer 1
(R314, R385). -/
def execTcuRetire (tile slot : Nat) (f : TsF) (s : State) : Out :=
  runTcu tile slot (encTs 0x36 f) (fun c s =>
    let b := (c.reg f.sa).toNat % 16
    match s.ownBlock tile slot b with
    | some x =>
      if !x.exited then s.tcuNext tile slot fun c => c.setReg f.dst 1
      else
        let s := s.closeBlock tile b
        if (s.blockStreams tile b).isEmpty then (s.retireBlock tile b).tcuNext tile slot fun c => c.setReg f.dst 0
        else s.tcuNext tile slot fun c => { c with state := .waitRetire f.dst b }
    | none => s.tcuNext tile slot fun c => c.setReg f.dst 1) s

/-- STREAM_CLOSE_COMPLETE: a close with nothing left to drain ends; the CLOSE answers 0, or the RETIRE that waited for the last
stream of its block retires it (R384, R385). -/
def execStreamCloseComplete (num : Nat) (s : State) : Out :=
  .next (if !s.clocked then s else
    match s.stream? num with
    | none => s
    | some x =>
      if x.closing == .no || !s.closeReady x || !s.live x.ctx then s else
      let s := s.dropStream x
      match x.closing, ((s.tile x.tile).tcu x.tcu).state with
      | .close dst, .waitClose n =>
        if n == num then s.updTcu x.tile x.tcu fun c => { c.setReg dst 0 with state := .run } else s
      | _, .waitRetire dst b =>
        if b == x.bslot && (s.blockStreams x.tile b).isEmpty then
          (s.retireBlock x.tile b).updTcu x.tile x.tcu fun c => { c.setReg dst 0 with state := .run }
        else s
      | _, _ => s)

/-- END_COMPLETE: once every placed block of a slot in END has exited and its streams are closed, each is retired, the blocks never
placed count as retired, and the slot is free (R315, R385). -/
def execEndComplete (tile slot : Nat) (s : State) : Out :=
  .next (
    let c := (s.tile tile).tcu slot
    if !s.clocked || c.state != .waitEnd || !s.live c.ctx then s else
    let own (s : State) : List Block := (s.tile tile).blocks.filter fun b =>
      b.tcu == some slot && b.launch == c.launch && !b.retired
    if !(own s).all (·.exited) then s else
    let s := s.each (own s) fun b s => s.closeBlock tile b.bslot
    if (own s).any fun b => !(s.blockStreams tile b.bslot).isEmpty then s else
    let s := s.each (own s) fun b s => s.retireBlock tile b.bslot
    let short := (c.entry.getD default).count - c.placed
    let s := s.updCm fun m => { m with launches := m.launches.map fun l =>
      if l.id == c.launch then { l with retired := l.retired + short } else l }
    let s := s.updTile tile fun t =>
      { t with tcuCnt := { t.tcuCnt with shortEnd := t.tcuCnt.shortEnd + short } }.updTcu slot fun _ => {}
    s.forgetLaunch c.launch)

end Sys2Proof.Machine
end

