-- ==== Sys2Proof/Machine/StreamWait.lean ====
section
/-! DEFINITION. SACQ and SREL (R278–R280, R390–R394), wait cycles and their escape (R409–R415), and the range register's
command. -/
namespace Sys2Proof.Machine

/-- The value of a SACQ on a stream that has ended (R392). -/
def sacqEnd : Word := 0xFFFFFFFF

/-- The local OFFSET of a slot (R278, R388). -/
def Stream.slotOffset (x : Stream) (b : Block) (i : Nat) : Word := BitVec.ofNat 32 (x.slotAddr i - b.base)

/-- SACQ: the next slot of a stream to DST in every active lane, or the group waits; 0xFFFF_FFFF at the end of the stream (R278,
R280, R391–R393). -/
def execSacq (tile : Nat) (f : SpcF) (s : State) : Out :=
  .next (runThread tile (encSpc 0xB0 f) (fun tc s =>
    if tc.act.isEmpty then tc.step (fun _ l => l) s else
    let num := bits f.spec 0 12
    match s.boundStream tile tc.b num with
    | none => tc.fault 0x05 0 s
    | some x =>
      if x.ended && x.acquired == x.produced then tc.step (fun _ l => l.setGr f.dst sacqEnd) s
      else if x.canAcquire && x.waiters.isEmpty then
        let s := (s.acquire num).updGroup tile tc.i.slot fun g => { g with acquired := g.acquired ++ [(x.id, x.acquired)] }
        tc.step (fun _ l => l.setGr f.dst (x.slotOffset tc.b x.acquired)) s
      else
        let s := s.updStream num fun x => { x with waiters := x.waiters ++ [(tc.i.slot, tc.act)] }
        tc.step (fun _ l => { l with wait := .sacq num f.dst }) s) s)

/-- Lanes waiting in SACQ on a stream resume with a value. -/
def Group.sacqResume (g : Group) (num : Nat) (lanes : Option (List Nat)) (v : Word) : Group :=
  { g with lanes := g.lanes.mapIdx fun i o => o.map fun l =>
      match l.wait with
      | .sacq n dst =>
        if n == num && (match lanes with | none => true | some ls => ls.contains i) then { l.setGr dst v with wait := .run } else l
      | _ => l }

/-- The streams that lanes of a group wait on in SACQ. -/
def Group.sacqNums (g : Group) : List Nat :=
  (g.lanes.filterMap fun o => match o with
    | some l => match l.wait with
      | .sacq n _ => some n
      | _ => none
    | none => none).eraseDups

/-- SACQ_WAKE: a group waiting in SACQ resumes: with a slot when one can be acquired and its wait is the oldest, or with 0xFFFF_FFFF
when the stream has ended or closed (R278, R391, R392). -/
def execSacqWake (tile slot : Nat) (s : State) : Out :=
  .next (if !s.clocked then s else
    match (s.tile tile).group? slot with
    | none => s
    | some g =>
      match (s.tile tile).block? g.bslot with
      | none => s
      | some b =>
        if !s.live b.ctx then s else
        s.each g.sacqNums fun num s =>
          match s.boundStream tile b num with
          | none => s.updGroup tile slot fun g => g.sacqResume num none sacqEnd
          | some x =>
            match x.waiters.find? (·.1 == slot) with
            | none => s.updGroup tile slot fun g => g.sacqResume num none sacqEnd
            | some (_, ls) =>
              if x.ended && x.acquired == x.produced then
                (s.updStream num fun x => { x with waiters := x.waiters.filter (·.1 != slot) }).updGroup tile slot fun g =>
                  g.sacqResume num none sacqEnd
              else if x.canAcquire && x.waiters.head? == some (slot, ls) then
                let s := (s.acquire num).updStream num fun x => { x with waiters := x.waiters.tail }
                s.updGroup tile slot fun g =>
                  { g.sacqResume num (some ls) (x.slotOffset b x.acquired) with acquired := g.acquired ++ [(x.id, x.acquired)] }
              else s)

/-- SREL: release the group's oldest acquired slot of a stream (R279, R280, R390, R393). -/
def execSrel (tile : Nat) (f : SpcF) (s : State) : Out :=
  .next (runThread tile (encSpc 0xB1 f) (fun tc s =>
    if tc.act.isEmpty then tc.step (fun _ l => l) s else
    let num := bits f.spec 0 12
    match s.boundStream tile tc.b num with
    | none => tc.fault 0x05 0 s
    | some x =>
      match tc.g.acquired.find? (·.1 == x.id) with
      | none => tc.fault 0x05 0 s
      | some h =>
        let s := (s.release num h.2).updGroup tile tc.i.slot fun g => { g with acquired := g.acquired.erase h }
        tc.step (fun _ l => l) s) s)

/-! ## Wait cycles (R409–R415) -/

/-- The streams on which the groups or Chisel operations of a block wait (R409, first row). -/
def State.blockWaits (s : State) (x : Stream) : List Nat :=
  (s.str.streams.filter fun y => y.tile == x.tile && ((y.bslot == x.bslot && y.groupWaits)
    || (s.tile x.tile).chs.ops.any fun o => o.bslot == x.bslot && o.waitsRing y)).map (·.num)

/-- The wait-for record of a blocked stream; none: it is not blocked (R409). -/
def State.waitFor (s : State) (x : Stream) : Option (List Nat) :=
  let sorted (l : List Nat) : List Nat := (List.range 4096).filter l.contains
  match x.kind with
  | 0 => if x.occ ≥ x.limit && !x.ended then some (sorted (s.blockWaits x)) else none
  | 3 =>
    if x.occ ≥ x.limit && !x.ended then some (sorted (s.blockWaits x))
    else
      match s.str.streams.find? fun y => y.kind == 2 && y.partner == x.num with
      | some y => if y.consumed == y.produced then some [y.num] else none
      | none => none
  | 2 =>
    if x.consumed < x.produced then
      match s.stream? x.partner with
      | some p => if p.occ ≥ p.limit then some [p.num] else none
      | none => none
    else if (s.blockWaits x).isEmpty then none else some (sorted (s.blockWaits x))
  | _ => none

/-- Stream engine cycles since the last progress, at 2.10 GHz (R410). -/
def State.quietCount (s : State) (x : Stream) : Nat := (s.now - x.progress) * 21 / 10

/-- A stream that can be a member of a wait cycle (R411). -/
def State.stuck (s : State) (num : Nat) : Bool :=
  match s.stream? num with
  | some x => (s.waitFor x).isSome && s.quietCount x ≥ 65536
  | none => false

/-- Follow wait-for records, the lowest number first at each branch, until a stream repeats or a member fails R411 (R412). -/
def State.follow (s : State) : Nat → List Nat → Nat → Option (List Nat)
  | 0, _, _ => none
  | fuel + 1, path, n =>
    if path.contains n then some (n :: path.takeWhile (· != n))
    else if !s.stuck n then none
    else
      match s.stream? n with
      | none => none
      | some x => ((s.waitFor x).getD []).findSome? fun m => s.follow fuel (n :: path) m

/-- Free escape tokens of a tile's port. -/
def State.freeTokens (s : State) (tile : Nat) : Nat := 4 - (s.str.streams.filter fun x => x.tile == tile && x.token).length

/-- Break a wait cycle: the oldest member without a token takes one of its port, or the context of the youngest gets
STREAM_DEADLOCK (R412, R414, R415). -/
def State.escape (s : State) (cyc : List Stream) : State :=
  let older (a b : Stream) : Bool := a.id < b.id
  let pick (p : Stream → Stream → Bool) (l : List Stream) : Option Stream :=
    l.foldl (fun m x => match m with
      | none => some x
      | some b => if p x b then some x else some b) none
  let kill (s : State) : State :=
    match pick (fun a b => older b a) cyc with
    | none => s
    | some y =>
      (s.updStr fun e => { e with deadlocks := e.deadlocks + 1 }).raise
        { code := 0x09, ctx := y.ctx, tile := y.tile, unit := 3, detail := y.num, unitId := y.num, tag := y.tag }
  match pick older (cyc.filter fun x => !x.token) with
  | none => kill s
  | some e =>
    if s.freeTokens e.tile == 0 then kill s
    else
      let s := s.updStream e.num fun x => { x with token := true }
      let s := s.updStrCnt e.num fun c => { c with escapes := c.escapes + 1 }
      let s := s.updTile e.tile fun t => { t with port := { t.port with escapes := t.port.escapes + 1 } }
      s.updStr fun g => { g with escapes := g.escapes + 1 }

/-- One pass over the streams in ascending number (R412). -/
def State.scan (s : State) : List Nat → List Nat → State
  | [], _ => s
  | n :: r, handled =>
    if handled.contains n || !s.stuck n || !(s.stream? n).any (fun x => s.live x.ctx) then s.scan r handled
    else
      match s.follow (s.str.streams.length + 1) [] n with
      | none => s.scan r handled
      | some c =>
        let s := s.updStr fun e => { e with found := e.found + 1 }
        (s.escape (c.filterMap s.stream?)).scan r (c ++ handled)

/-- WAIT_CYCLE_SCAN: the scan that the stream engine makes every 1,024 of its cycles (R412, R413). -/
def execWaitCycleScan (now : Nat) (s : State) : Out :=
  let s := s.at now
  .next (if !s.clocked then s else
    s.scan ((List.range 4096).filter fun n => s.str.streams.any (·.num == n)) [])

/-- STR_CTX_RANGE_WRITE (R377, R378, R418); the register is the PF's (R46). -/
def execStrCtxRangeWrite (fn c : Nat) (val : DWord) (s : State) : Out :=
  .next (if !s.clocked || fn != 0 || c ≥ 64 then s else (s.fullWrite 0).strRangeWrite c val.toNat)

end Sys2Proof.Machine
end

