-- ==== Sys2Proof/Machine/ThreadAlu.lean ====
section
/-! DEFINITION. Meanings of the thread engine's register instructions: moves, integer and floating-point arithmetic,
compares, predicates, conversions and lane operations (R215–R232). -/
namespace Sys2Proof.Machine

/-- MOV: DST = SRCA (R215). -/
def execMov (tile : Nat) (f : RegF) (s : State) : Out :=
  runLanes tile (encReg 0x03 f) (fun _ _ l => l.setGr f.dst (l.gr f.srca)) s

/-- MOVI: DST = IMM32 (R215). -/
def execMovi (tile : Nat) (f : ImmF) (s : State) : Out :=
  runLanes tile (encImm 0x02 f) (fun _ _ l => l.setGr f.dst f.imm) s

/-- SEL: SRCA if predicate MOD[2:0] is 1, otherwise SRCB (R215). -/
def execSel (tile : Nat) (f : RegF) (s : State) : Out :=
  runLanes tile (encReg 0x04 f) (fun _ _ l => l.setGr f.dst (if l.pr (bits f.mod 0 3) then l.gr f.srca else l.gr f.srcb)) s

/-- IADD: sum modulo 2^32 (R215, R217). -/
def execIadd (tile : Nat) (f : RegF) (s : State) : Out :=
  runLanes tile (encReg 0x10 f) (fun _ _ l => l.setGr f.dst ((l.gr f.srca) + (l.gr f.srcb))) s

/-- ISUB: difference modulo 2^32 (R215, R217). -/
def execIsub (tile : Nat) (f : RegF) (s : State) : Out :=
  runLanes tile (encReg 0x11 f) (fun _ _ l => l.setGr f.dst ((l.gr f.srca) - (l.gr f.srcb))) s

/-- IMUL: low 32 bits of the product (R215, R217). -/
def execImul (tile : Nat) (f : RegF) (s : State) : Out :=
  runLanes tile (encReg 0x12 f) (fun _ _ l => l.setGr f.dst ((l.gr f.srca) * (l.gr f.srcb))) s

/-- IMULHI: high 32 bits of the product, signed if the low modifier bit is 1 (R215, R217). -/
def execImulhi (tile : Nat) (f : RegF) (s : State) : Out :=
  runLanes tile (encReg 0x13 f) (fun _ _ l => l.setGr f.dst (mulHi (bitAt f.mod 0) (l.gr f.srca) (l.gr f.srcb))) s

/-- IMIN: minimum, signed if the low modifier bit is 1 (R215, R217). -/
def execImin (tile : Nat) (f : RegF) (s : State) : Out :=
  runLanes tile (encReg 0x15 f) (fun _ _ l => l.setGr f.dst (intMin (bitAt f.mod 0) (l.gr f.srca) (l.gr f.srcb))) s

/-- IMAX: maximum, signed if the low modifier bit is 1 (R215, R217). -/
def execImax (tile : Nat) (f : RegF) (s : State) : Out :=
  runLanes tile (encReg 0x16 f) (fun _ _ l => l.setGr f.dst (intMax (bitAt f.mod 0) (l.gr f.srca) (l.gr f.srcb))) s

/-- AND: bitwise and (R215, R217). -/
def execAnd (tile : Nat) (f : RegF) (s : State) : Out :=
  runLanes tile (encReg 0x17 f) (fun _ _ l => l.setGr f.dst ((l.gr f.srca) &&& (l.gr f.srcb))) s

/-- OR: bitwise or (R215, R217). -/
def execOr (tile : Nat) (f : RegF) (s : State) : Out :=
  runLanes tile (encReg 0x18 f) (fun _ _ l => l.setGr f.dst ((l.gr f.srca) ||| (l.gr f.srcb))) s

/-- XOR: bitwise exclusive or (R215, R217). -/
def execXor (tile : Nat) (f : RegF) (s : State) : Out :=
  runLanes tile (encReg 0x19 f) (fun _ _ l => l.setGr f.dst ((l.gr f.srca) ^^^ (l.gr f.srcb))) s

/-- SHL: left shift by the second operand mod 32 (R215, R217). -/
def execShl (tile : Nat) (f : RegF) (s : State) : Out :=
  runLanes tile (encReg 0x1A f) (fun _ _ l => l.setGr f.dst ((l.gr f.srca) <<< ((l.gr f.srcb).toNat % 32))) s

/-- SHR: logical right shift by the second operand mod 32 (R215, R217). -/
def execShr (tile : Nat) (f : RegF) (s : State) : Out :=
  runLanes tile (encReg 0x1B f) (fun _ _ l => l.setGr f.dst ((l.gr f.srca) >>> ((l.gr f.srcb).toNat % 32))) s

/-- SAR: arithmetic right shift by the second operand mod 32 (R215, R217). -/
def execSar (tile : Nat) (f : RegF) (s : State) : Out :=
  runLanes tile (encReg 0x1C f) (fun _ _ l => l.setGr f.dst ((l.gr f.srca).sshiftRight ((l.gr f.srcb).toNat % 32))) s

/-- IADDI: sum modulo 2^32, with IMM32 in place of SRCB (R215, R217). -/
def execIaddi (tile : Nat) (f : ImmF) (s : State) : Out :=
  runLanes tile (encImm 0x20 f) (fun _ _ l => l.setGr f.dst ((l.gr f.srca) + f.imm)) s

/-- ISUBI: difference modulo 2^32, with IMM32 in place of SRCB (R215, R217). -/
def execIsubi (tile : Nat) (f : ImmF) (s : State) : Out :=
  runLanes tile (encImm 0x21 f) (fun _ _ l => l.setGr f.dst ((l.gr f.srca) - f.imm)) s

/-- IMULI: low 32 bits of the product, with IMM32 in place of SRCB (R215, R217). -/
def execImuli (tile : Nat) (f : ImmF) (s : State) : Out :=
  runLanes tile (encImm 0x22 f) (fun _ _ l => l.setGr f.dst ((l.gr f.srca) * f.imm)) s

/-- IMULHII: high 32 bits of the product, signed if the low modifier bit is 1, with IMM32 in place of SRCB (R215, R217). -/
def execImulhii (tile : Nat) (f : ImmF) (s : State) : Out :=
  runLanes tile (encImm 0x23 f) (fun _ _ l => l.setGr f.dst (mulHi (bitAt f.mod4 0) (l.gr f.srca) f.imm)) s

/-- IMINI: minimum, signed if the low modifier bit is 1, with IMM32 in place of SRCB (R215, R217). -/
def execImini (tile : Nat) (f : ImmF) (s : State) : Out :=
  runLanes tile (encImm 0x25 f) (fun _ _ l => l.setGr f.dst (intMin (bitAt f.mod4 0) (l.gr f.srca) f.imm)) s

/-- IMAXI: maximum, signed if the low modifier bit is 1, with IMM32 in place of SRCB (R215, R217). -/
def execImaxi (tile : Nat) (f : ImmF) (s : State) : Out :=
  runLanes tile (encImm 0x26 f) (fun _ _ l => l.setGr f.dst (intMax (bitAt f.mod4 0) (l.gr f.srca) f.imm)) s

/-- ANDI: bitwise and, with IMM32 in place of SRCB (R215, R217). -/
def execAndi (tile : Nat) (f : ImmF) (s : State) : Out :=
  runLanes tile (encImm 0x27 f) (fun _ _ l => l.setGr f.dst ((l.gr f.srca) &&& f.imm)) s

/-- ORI: bitwise or, with IMM32 in place of SRCB (R215, R217). -/
def execOri (tile : Nat) (f : ImmF) (s : State) : Out :=
  runLanes tile (encImm 0x28 f) (fun _ _ l => l.setGr f.dst ((l.gr f.srca) ||| f.imm)) s

/-- XORI: bitwise exclusive or, with IMM32 in place of SRCB (R215, R217). -/
def execXori (tile : Nat) (f : ImmF) (s : State) : Out :=
  runLanes tile (encImm 0x29 f) (fun _ _ l => l.setGr f.dst ((l.gr f.srca) ^^^ f.imm)) s

/-- SHLI: left shift by the second operand mod 32, with IMM32 in place of SRCB (R215, R217). -/
def execShli (tile : Nat) (f : ImmF) (s : State) : Out :=
  runLanes tile (encImm 0x2A f) (fun _ _ l => l.setGr f.dst ((l.gr f.srca) <<< (f.imm.toNat % 32))) s

/-- SHRI: logical right shift by the second operand mod 32, with IMM32 in place of SRCB (R215, R217). -/
def execShri (tile : Nat) (f : ImmF) (s : State) : Out :=
  runLanes tile (encImm 0x2B f) (fun _ _ l => l.setGr f.dst ((l.gr f.srca) >>> (f.imm.toNat % 32))) s

/-- SARI: arithmetic right shift by the second operand mod 32, with IMM32 in place of SRCB (R215, R217). -/
def execSari (tile : Nat) (f : ImmF) (s : State) : Out :=
  runLanes tile (encImm 0x2C f) (fun _ _ l => l.setGr f.dst ((l.gr f.srca).sshiftRight (f.imm.toNat % 32))) s

/-- IMAD: low 32 bits of SRCA × SRCB + SRCC (R215). -/
def execImad (tile : Nat) (f : RegF) (s : State) : Out :=
  runLanes tile (encReg 0x14 f) (fun _ _ l => l.setGr f.dst (l.gr f.srca * l.gr f.srcb + l.gr f.srcc)) s

/-- POPC (R215). -/
def execPopc (tile : Nat) (f : RegF) (s : State) : Out :=
  runLanes tile (encReg 0x1D f) (fun _ _ l => l.setGr f.dst (popc (l.gr f.srca))) s

/-- CLZ (R215). -/
def execClz (tile : Nat) (f : RegF) (s : State) : Out :=
  runLanes tile (encReg 0x1E f) (fun _ _ l => l.setGr f.dst (clz (l.gr f.srca))) s

/-- BREV (R215). -/
def execBrev (tile : Nat) (f : RegF) (s : State) : Out :=
  runLanes tile (encReg 0x1F f) (fun _ _ l => l.setGr f.dst (brev (l.gr f.srca))) s

/-- ISETP: integer compare into a predicate (R218). -/
def execIsetp (tile : Nat) (f : RegF) (s : State) : Out :=
  runLanes tile (encReg 0x30 f) (fun _ _ l => l.setPr f.dst (intCmp (bits f.mod 0 4) (l.gr f.srca) (l.gr f.srcb))) s

/-- ISETPI: integer compare with IMM32 into a predicate (R218). -/
def execIsetpi (tile : Nat) (f : ImmF) (s : State) : Out :=
  runLanes tile (encImm 0x31 f) (fun _ _ l => l.setPr f.dst (intCmp f.mod4 (l.gr f.srca) f.imm)) s

/-- FSETP: FP32 compare into a predicate (R219). -/
def execFsetp (tile : Nat) (f : RegF) (s : State) : Out :=
  runLanes tile (encReg 0x32 f) (fun _ _ l => l.setPr f.dst (fpCmp (bits f.mod 0 4) (l.gr f.srca) (l.gr f.srcb))) s

/-- PLOP: predicate operation (R220). -/
def execPlop (tile : Nat) (f : RegF) (s : State) : Out :=
  runLanes tile (encReg 0x33 f) (fun _ _ l => l.setPr f.dst (plop (bits f.mod 0 2) (l.pr f.srca) (l.pr f.srcb))) s

/-- FADD: FP32 add (R221–R224). -/
def execFadd (tile : Nat) (f : RegF) (s : State) : Out :=
  runLanes tile (encReg 0x40 f) (fun _ _ l => l.setGr f.dst (BitVec.ofNat 32 (fAdd fp32 f.mod (l.gr f.srca).toNat (l.gr f.srcb).toNat))) s

/-- FMUL: FP32 multiply (R221–R224). -/
def execFmul (tile : Nat) (f : RegF) (s : State) : Out :=
  runLanes tile (encReg 0x41 f) (fun _ _ l => l.setGr f.dst (BitVec.ofNat 32 (fMul fp32 f.mod (l.gr f.srca).toNat (l.gr f.srcb).toNat))) s

/-- FFMA: FP32 fused multiply-add, one rounding (R221–R224). -/
def execFfma (tile : Nat) (f : RegF) (s : State) : Out :=
  runLanes tile (encReg 0x42 f) (fun _ _ l => l.setGr f.dst (BitVec.ofNat 32 (fFma fp32 f.mod (l.gr f.srca).toNat (l.gr f.srcb).toNat (l.gr f.srcc).toNat))) s

/-- FMIN: FP32 minimum (R221–R224). -/
def execFmin (tile : Nat) (f : RegF) (s : State) : Out :=
  runLanes tile (encReg 0x43 f) (fun _ _ l => l.setGr f.dst (BitVec.ofNat 32 (fMinMax false f.mod (l.gr f.srca).toNat (l.gr f.srcb).toNat))) s

/-- FMAX: FP32 maximum (R221–R224). -/
def execFmax (tile : Nat) (f : RegF) (s : State) : Out :=
  runLanes tile (encReg 0x44 f) (fun _ _ l => l.setGr f.dst (BitVec.ofNat 32 (fMinMax true f.mod (l.gr f.srca).toNat (l.gr f.srcb).toNat))) s

/-- HADD2: two FP16 operations on packed halves (R222, R223). -/
def execHadd2 (tile : Nat) (f : RegF) (s : State) : Out :=
  runLanes tile (encReg 0x4C f) (fun _ _ l => l.setGr f.dst (halves (fun a b _ => fAdd fp16 f.mod a b) (l.gr f.srca) (l.gr f.srcb) (l.gr f.srcc))) s

/-- HMUL2: two FP16 operations on packed halves (R222, R223). -/
def execHmul2 (tile : Nat) (f : RegF) (s : State) : Out :=
  runLanes tile (encReg 0x4D f) (fun _ _ l => l.setGr f.dst (halves (fun a b _ => fMul fp16 f.mod a b) (l.gr f.srca) (l.gr f.srcb) (l.gr f.srcc))) s

/-- HFMA2: two FP16 operations on packed halves (R222, R223); a word that issues has 0 in SRCC (R216, log 12). -/
def execHfma2 (tile : Nat) (f : RegF) (s : State) : Out :=
  runLanes tile (encReg 0x4E f) (fun _ _ l => l.setGr f.dst (halves (fun a b c => fFma fp16 f.mod a b c) (l.gr f.srca) (l.gr f.srcb) (l.gr f.srcc))) s

/-- CVT: format conversion (R225–R227). -/
def execCvt (tile : Nat) (f : RegF) (s : State) : Out :=
  runLanes tile (encReg 0x4F f) (fun _ _ l => l.setGr f.dst (cvt f.mod (l.gr f.srca))) s

/-- A unary FP32 result of an operand for which R222 bounds nothing (NaN, infinity, a zero or negative operand outside the function's
domain): any value, a NaN being canonical, flushed where the modifier says so (R221, R223; log 10). -/
def unaryFree (op m : Nat) (a : Word) : Nat :=
  let r := (Config.unary op m a).toNat
  fp32.round .nearest (fflush m) false (fp32.operand (fflush m) r)

/-- Whether an exact magnitude m × 2^e is below the smallest normal number when it is rounded to nearest even without a lower bound of the
exponent: below half an ulp under it (R221). -/
def roundsLow (m : Nat) (e : Int) : Bool := magLt m e (2 ^ 25 - 1) (-151)

/-- A drawn result as it leaves: with MOD[2] set the exact result decides, a low one is zero of the same sign and any other is no
subnormal (R221; log 10). -/
def unaryOut (flush low : Bool) (v : FVal) : Nat :=
  let r := fp32.round .nearest false false v
  if !flush then r
  else if low then fp32.sign v.isNeg
  else if bits r 23 8 == 0 then fp32.sign v.isNeg + 2 ^ 23
  else r

/-- A unary result within 2 ulp of the exact one, where the operand has a finite exact result; the distance is free (R222; log 10).
FEXP2 of 129 and above lies beyond the format, and of −200 and below under its least magnitude. -/
def unaryNear (op m : Nat) (free : Nat) (a : Word) : Nat :=
  match fp32.operand (fflush m) a.toNat with
  | .fin neg n e =>
    let fx (x : FxVal) : Nat := unaryOut (fflush m) (roundsLow x.mag x.scale) (x.near free)
    if op == 0x48 then
      let x := fxOf neg n e
      if x ≥ 129 * (fx1 : Int) then fp32.inf false
      else if x ≤ -200 * (fx1 : Int) then unaryOut (fflush m) true (.fin false (free % 3) (-149))
      else fx (fxExp2 x)
    else if op == 0x4A then fx (fxSin (fxOf neg n e))
    else if op == 0x4B then fx (fxSin (fxOf neg n e + (fx1 / 4 : Nat)))
    else if op == 0x47 && n == 0 then fx { mag := 0, exact := true }
    else if n == 0 || (neg && op != 0x45) then unaryFree op m a
    else if op == 0x49 then fx (fxLog2 n e)
    else
      let (k, h) : Nat × Int := if e % 2 == 0 then (n, e / 2) else (2 * n, (e - 1) / 2)
      let fl : Nat × Bool :=
        if op == 0x45 then fp32Floor 1 n (-e)
        else if op == 0x46 then
          let r := isqrt (2 ^ 200 / k)
          let c := fp32Floor r 1 (-100 - h)
          (c.1, c.2 && r * r * k == 2 ^ 200)
        else
          let r := isqrt (k * 2 ^ 100)
          let c := fp32Floor r 1 (h - 50)
          (c.1, c.2 && r * r == k * 2 ^ 100)
      let v := fp32.unpack (within2 fl free)
      unaryOut (fflush m) (op == 0x45 && magLt 1 (-e) (n * (2 ^ 25 - 1)) (-151)) (if neg then v.neg else v)
  | _ => unaryFree op m a

/-- A unary FP32 instruction: each active lane draws its own free value. -/
def runUnary (op tile : Nat) (f : RegF) (s : State) : Out :=
  .next (runThread tile (encReg op f) (fun tc s =>
    let n := s.freeCount
    let s := tc.step (fun k l => l.setGr f.dst (BitVec.ofNat 32 (unaryNear op f.mod (Config.nat (n + k)) (l.gr f.srca)))) s
    { s with freeCount := n + 64 }) s)

/-- FRCP (R222). -/
def execFrcp (tile : Nat) (f : RegF) (s : State) : Out := runUnary 0x45 tile f s

/-- FRSQ (R222). -/
def execFrsq (tile : Nat) (f : RegF) (s : State) : Out := runUnary 0x46 tile f s

/-- FSQRT (R222). -/
def execFsqrt (tile : Nat) (f : RegF) (s : State) : Out := runUnary 0x47 tile f s

/-- FEXP2 (R222). -/
def execFexp2 (tile : Nat) (f : RegF) (s : State) : Out := runUnary 0x48 tile f s

/-- FLOG2 (R222). -/
def execFlog2 (tile : Nat) (f : RegF) (s : State) : Out := runUnary 0x49 tile f s

/-- FSIN (R222). -/
def execFsin (tile : Nat) (f : RegF) (s : State) : Out := runUnary 0x4A tile f s

/-- FCOS (R222). -/
def execFcos (tile : Nat) (f : RegF) (s : State) : Out := runUnary 0x4B tile f s

/-- SHFL: SRCA of the lane that SRCB[5:0] names, or the lane's own where that lane is not active (R228). -/
def execShfl (tile : Nat) (f : RegF) (s : State) : Out :=
  runLanes tile (encReg 0x60 f) (fun tc _ l =>
    let k := (l.gr f.srcb).toNat % 64
    l.setGr f.dst (if tc.act.contains k then (tc.lane k).gr f.srca else l.gr f.srca)) s

/-- The reduction operations (R229). -/
def reduxOp (op : Nat) (a b : Word) : Word :=
  match op with
  | 0 => a + b
  | 1 => intMin true a b
  | 2 => intMax true a b
  | 3 => a &&& b
  | 4 => a ||| b
  | _ => a ^^^ b

/-- REDUX: the reduction of SRCA over the active lanes, in every active lane (R229). -/
def execRedux (tile : Nat) (f : RegF) (s : State) : Out :=
  runLanes tile (encReg 0x61 f) (fun tc _ l =>
    let r := match tc.act.map fun k => (tc.lane k).gr f.srca with
      | [] => 0
      | a :: r => r.foldl (reduxOp (bits f.mod 0 3)) a
    l.setGr f.dst r) s

/-- SCANX: the sum of SRCA over the active lanes of lower number (R230). -/
def execScanx (tile : Nat) (f : RegF) (s : State) : Out :=
  runLanes tile (encReg 0x62 f) (fun tc k l =>
    l.setGr f.dst ((tc.act.filter (· < k)).foldl (fun a j => a + (tc.lane j).gr f.srca) 0)) s

/-- The ballot mask: bit i is the predicate of active lane i (R231). -/
def ballot (tc : TC) (p : Nat) : Nat := tc.act.foldl (fun m k => m + place (b2n ((tc.lane k).pr p)) k 1) 0

/-- VOTE: ANY, ALL or BALLOT of a predicate over the active lanes (R231, R232). -/
def execVote (tile : Nat) (f : RegF) (s : State) : Out :=
  runLanes tile (encReg 0x34 f) (fun tc _ l =>
    match bits f.mod 0 2 with
    | 0 => l.setPr f.dst (tc.act.any fun k => (tc.lane k).pr f.srca)
    | 1 => l.setPr f.dst (tc.act.all fun k => (tc.lane k).pr f.srca)
    | _ => l.setN f.dst (if tc.g.width == 64 then 2 else 1) (ballot tc f.srca)) s

/-- NOP (R215). -/
def execNop (tile : Nat) (f : SpcF) (s : State) : Out := runLanes tile (encSpc 0x01 f) (fun _ _ l => l) s

/-- The value of a special register selector in a lane (R284). -/
def rdspec (s : State) (tc : TC) (k sel : Nat) : Nat :=
  let l := (s.launch? tc.b.launch).getD default
  let p := s.part (s.ctx tc.b.ctx).part
  match sel with
  | 0x00 => k
  | 0x01 => tc.g.width
  | 0x02 => tc.g.idx
  | 0x03 => tc.g.idx * tc.g.width + k
  | 0x04 => tc.b.blockId
  | 0x05 => l.blocks
  | 0x06 => tc.tile
  | 0x07 => if tc.b.cluster.isSome then tc.b.rank else 0xFFFFFFFF
  | 0x08 => tc.b.ctx
  | 0x09 => (s.ctx tc.b.ctx).part
  | 0x0A => p.phase
  | 0x0B => l.tag
  | 0x0C => s.now
  | 0x0D => p.epochT
  | 0x0E => l.args
  | 0x0F => p.frame
  | _ => tc.b.size

/-- RDSPEC: a special register into DST or a pair (R284). -/
def execRdspec (tile : Nat) (f : SpcF) (s : State) : Out :=
  .next (runThread tile (encSpc 0x05 f) (fun tc s =>
    let sel := bits f.spec 0 8
    let n := if 0x0C ≤ sel && sel ≤ 0x0E then 2 else 1
    tc.step (fun k l => l.setN f.dst n (rdspec s tc k sel)) s) s)

end Sys2Proof.Machine
end

