-- ==== Sys2Proof/Machine/Chisel.lean ====
section
/-! DEFINITION. The Chisel matrix engine: descriptors and their checks, the arithmetic of operations, the cycle-by-cycle run of
an operation and of a neural batch, the relay chain, and the neural weight cache (R335–R376). -/
namespace Sys2Proof.Machine

/-! ## Formats (R335, R336) -/

/-- K elements of a k-step of an input format code (R335, R341). -/
def kStep (f : Nat) : Nat := if f == 0 then 4 else if f == 3 || f == 4 then 1 else 2

/-- Bits of an element of an input format code. -/
def inBits (f : Nat) : Nat := if f == 0 then 4 else if f == 3 || f == 4 then 16 else 8

/-- Bits of an element of an output format code. -/
def outBits (f : Nat) : Nat :=
  match f with
  | 0 => 32 | 1 => 16 | 2 => 16 | 3 => 8 | 4 => 8 | 5 => 4 | _ => 8

/-- The floating-point format of an input format code. -/
def inFmt : Nat → Fmt
  | 0 => e2m1 | 1 => e4m3 | 2 => e5m2 | 3 => bf16 | _ => fp16

/-- The floating-point format of an output format code. -/
def outFmt : Nat → Fmt
  | 0 => fp32 | 1 => bf16 | 2 => fp16 | 3 => e4m3 | 4 => e5m2 | _ => e2m1

def ceilDiv (a b : Nat) : Nat := (a + b - 1) / b

/-- Element i of packed elements of n bits: two FP4 values share a byte, the lower-numbered in bits [3:0] (R336). -/
def elem (l : List Byte) (n i : Nat) : Nat :=
  if n == 4 then bits (field l (i / 2) 1) (4 * (i % 2)) 4 else field l (i * (n / 8)) (n / 8)

/-! ## The descriptor (R341, R342) -/

def parseChop (d : List Byte) : ChopDesc :=
  let fl := field d 3 1
  { afmt := field d 0 1, bfmt := field d 1 1, dfmt := field d 2 1, accum := bitAt fl 0, relu := bitAt fl 1, sat := bitAt fl 2
    m := field d 4 2, n := field d 6 2, k := field d 8 4, bsrc := field d 12 1, fwd := field d 13 1, relayId := field d 14 2
    aOff := field d 16 4, bOff := field d 20 4, cOff := field d 24 4, dOff := field d 28 4, lda := field d 32 4
    ldc := field d 36 4, ldd := field d 40 4, tag := field d 44 3, scale := field d 48 4, stream := field d 52 2 }

/-- INT8 inputs. -/
def ChopDesc.int (d : ChopDesc) : Bool := d.afmt == 5

/-- K elements of a slice (R341). -/
def ChopDesc.ks (d : ChopDesc) : Nat := 16 * kStep d.afmt

/-- Slices of the operation. -/
def ChopDesc.slices (d : ChopDesc) : Nat := d.k / d.ks

/-- Passes of A (R348). -/
def ChopDesc.passes (d : ChopDesc) : Nat := ceilDiv d.m 64

/-- Bytes of a row of A and of a row of D. -/
def ChopDesc.aRow (d : ChopDesc) : Nat := d.k * inBits d.afmt / 8
def ChopDesc.dRow (d : ChopDesc) : Nat := ceilDiv (d.n * outBits d.dfmt) 8

/-- The pairings of R335. -/
def pairOk (a b : Nat) : Bool :=
  (a == b && a ≤ 5) || ((a == 1 || a == 2) && (b == 1 || b == 2))

/-- FP32 1.0. -/
def one32 : Nat := 0x3F800000

/-- The field checks of R342 at a tile of column x: reserved bits and values, ranges, pairings, INT32 output, FWD and alignment. A BSRC that
names a neighbour off the row breaks none of them: its operation ends by relay timeout (R356). -/
def chopBad (raw : List Byte) (x : Nat) : Bool :=
  let d := parseChop raw
  let off := (d.fwd == 1 && x == 11) || (d.fwd == 2 && x == 0) || (d.fwd == 1 && d.bsrc == 3) || (d.fwd == 2 && d.bsrc == 2)
  d.afmt ≥ 6 || d.bfmt ≥ 6 || d.dfmt ≥ 7 || field raw 3 1 ≥ 8 || d.m < 1 || d.m > 256 || d.n < 1 || d.n > 64
    || d.k < 64 || d.k > 65536 || d.k % 64 != 0 || d.bsrc ≥ 4 || d.fwd ≥ 3 || (d.bsrc < 2 && d.fwd == 0 && d.relayId != 0)
    || d.aOff % 64 != 0 || d.dOff % 64 != 0 || (if d.bsrc == 0 then d.bOff % 64 != 0 else d.bOff != 0)
    || (if d.accum then d.cOff % 64 != 0 || d.ldc % 16 != 0 || d.ldc < 4 * d.n else d.cOff + d.ldc != 0)
    || d.lda % 16 != 0 || d.lda < d.aRow || d.ldd % 16 != 0 || d.ldd < d.dRow
    || (if d.bsrc == 1 then d.stream ≥ 4096 else d.stream != 0)
    || field raw 47 1 != 0 || field raw 54 2 != 0 || !((raw.drop 57).take 7).all (· == 0)
    || !pairOk d.afmt d.bfmt || (d.int && d.dfmt == 0 && (d.scale != one32 || d.relu)) || off

/-- The first of A, B, C, D whose range leaves an allocation of `size` bytes: the OFFSET where it begins (R342). -/
def ChopDesc.outside (d : ChopDesc) (size : Nat) : Option Nat :=
  let runs := [(d.aOff, (d.m - 1) * d.lda + d.aRow)] ++ (if d.bsrc == 0 then [(d.bOff, d.slices * 2048)] else [])
    ++ (if d.accum then [(d.cOff, (d.m - 1) * d.ldc + 4 * d.n)] else []) ++ [(d.dOff, (d.m - 1) * d.ldd + d.dRow)]
  (runs.find? fun (o, n) => o + n > size).map (·.1)

/-- A fault of a CHOP at issue at an OFFSET: VALID 0x0B (R342). -/
def TC.chopFault (tc : TC) (code addr : Nat) (s : State) : State :=
  (s.raise { code := code, ctx := tc.b.ctx, tile := tc.tile, unit := 0, group := tc.i.slot, pc := tc.i.pc, addr := addr
             insn := tc.i.word, valid := 0x0B, tag := s.launchTag tc.b.launch }).stopLanes tc.tile tc.i.slot tc.i.mask

/-- CHOP: read and check the descriptor, and queue the operation with STATUS 0xFF; without an active lane nothing is read
(R214, R281, R341–R344, R396). -/
def execChop (tile : Nat) (f : SpcF) (s : State) : Out :=
  .next (runThread tile (encSpc 0xB8 f) (fun tc s =>
    if tc.act.isEmpty then tc.step (fun _ l => l) s else
    let off := bits f.spec 15 13 * 64
    if off + 64 > tc.b.size then tc.chopFault 0x0A off s else
    let raw := s.localRead tile (tc.b.base + off) 64
    let d := parseChop raw
    if chopBad raw (tile % 12) then tc.chopFault 0x02 off s else
    match d.outside tc.b.size with
    | some o => tc.chopFault 0x0A o s
    | none =>
      let st := s.openOn tile tc.b.ctx d.stream
      if d.bsrc == 1 && st.isNone then tc.chopFault 0x05 off s
      else if d.bsrc == 1 && (st.map (·.slotBytes)).getD 0 % 2048 != 0 then tc.chopFault 0x02 off s
      else
        let (id, s) := s.fresh
        let o : ChiselOp :=
          { id := id, ctx := tc.b.ctx, launch := tc.b.launch, bslot := tc.b.bslot, base := tc.b.base, group := tc.i.slot
            gid := tc.g.since, desc := tc.b.base + off, d := d, deadline := s.deadline (s.ctx tc.b.ctx).part d.tag, progress := s.now
            arr := s.now }
        let s := (s.localWrite tile (o.desc + 56) [0xFF]).updTile tile fun t => { t with chs := { t.chs with ops := t.chs.ops ++ [o] } }
        tc.step (fun _ l => l) s) s)

/-- Operations of a group that have not completed (R282). -/
def Tile.groupOps (t : Tile) (g : Group) : List ChiselOp := t.chs.ops.filter fun o => o.group == g.slot && o.gid == g.since

/-- CHWAIT: wait until every CHOP of the group has completed (R282). -/
def execChwait (tile : Nat) (f : SpcF) (s : State) : Out :=
  .next (runThread tile (encSpc 0xB9 f) (fun tc s =>
    let busy := !((s.tile tile).groupOps tc.g).isEmpty
    tc.step (fun _ l => if busy then { l with wait := .chwait } else l) s) s)

/-- CHWAIT_RETURN: every CHOP of the group has completed (R282). -/
def execChwaitReturn (tile slot : Nat) (s : State) : Out :=
  .next (if !s.clocked then s else
    match (s.tile tile).group? slot with
    | none => s
    | some g =>
      if !((s.tile tile).groupOps g).isEmpty then s
      else s.updGroup tile slot fun g =>
        { g with lanes := g.lanes.map (Option.map fun l => if l.wait == .chwait then { l with wait := .run } else l) })

/-! ## Arithmetic (R337–R340) -/

/-- The exact value of an input element. -/
def inVal (f v : Nat) : FVal := (inFmt f).unpack v

/-- The sum that starts without a zero of its own when there are products: −0 + −0 keeps its sign. -/
def exactSum : List FVal → FVal
  | [] => .fin false 0 0
  | a :: r => r.foldl (FVal.add .nearest) a

/-- One output after one slice: its k-steps in ascending K (R337). `a` gives A's elements and `b` the slice's, by k in the slice. -/
def sliceAcc (d : ChopDesc) (a b : Nat → Nat) (acc : Word) : Word :=
  let ks := kStep d.afmt
  if d.int then
    (List.range 32).foldl (fun acc k => acc + BitVec.ofInt 32 (byteInt (a k) * byteInt (b k))) acc
  else
    BitVec.ofNat 32 ((List.range 16).foldl (fun acc t =>
      let prods := (List.range ks).map fun j => FVal.mul (inVal d.afmt (a (t * ks + j))) (inVal d.bfmt (b (t * ks + j)))
      fp32.round .nearest false false (FVal.add .nearest (exactSum prods) (fp32.unpack acc))) acc.toNat)
where
  /-- A signed byte. -/
  byteInt (v : Nat) : Int := (BitVec.ofNat 8 v).toInt

/-- The accumulators after a slice: row m of A from its local memory, all columns below N (R337, R341). -/
def sliceAll (d : ChopDesc) (row : Nat → List Byte) (slice : List Byte) (acc : List Word) : List Word :=
  (List.range d.m).flatMap fun m =>
    let r := row m
    (List.range d.n).map fun n =>
      sliceAcc d (fun k => elem r (inBits d.afmt) k) (fun k => elem slice (inBits d.bfmt) (k * 64 + n))
        (acc.getD (m * d.n + n) 0)

/-- ReLU (R340): NaN stays NaN, and −0 gives +0 as by R224. -/
def relu32 (v : Nat) : Nat := if (fp32.unpack v).isNan then v else fMinMax true 0 v 0

/-- An output element at drain (R339, R340): C added if ACCUM, SCALE, ReLU, conversion. -/
def drainElem (d : ChopDesc) (acc c : Word) : Nat :=
  let conv (v : Nat) : Nat :=
    let r := if d.relu then relu32 v else v
    if d.dfmt == 6 then (BitVec.ofInt 8 (toInteger .nearest (-128) 127 (fp32.unpack r))).toNat
    else (outFmt d.dfmt).round .nearest false d.sat (fp32.unpack r)
  if d.int then
    let sum := if d.accum then acc + c else acc
    if d.dfmt == 0 then sum.toNat
    else conv (fMul fp32 0 (fp32.round .nearest false false (.fin (sum.toInt < 0) sum.toInt.natAbs 0)) d.scale)
  else
    let sum := if d.accum then fAdd fp32 0 acc.toNat c.toNat else acc.toNat
    conv (fMul fp32 0 sum d.scale)

/-- Pack elements of n bits; in an odd last byte of FP4 elements `pad` is the high half. -/
def packElems (n pad : Nat) : List Nat → List Byte
  | [] => []
  | [a] => if n == 4 then [BitVec.ofNat 8 (a + 16 * pad)] else toLe (n / 8) a
  | a :: b :: r => if n == 4 then BitVec.ofNat 8 (a + 16 * b) :: packElems n pad r else toLe (n / 8) a ++ packElems n pad (b :: r)

/-- Two rows share a byte. -/
def rowsMeet (a na b nb : Nat) : Bool := a < b + nb && b < a + na

/-- D overlaps A: the result is undefined (At the edges of 07_chisel.md). -/
def ChopDesc.overlaps (d : ChopDesc) : Bool :=
  (List.range d.m).any fun i => (List.range d.m).any fun j =>
    rowsMeet (d.dOff + i * d.ldd) d.dRow (d.aOff + j * d.lda) d.aRow

/-- The rows of D as the drain writes them; where D overlaps A their bytes are free values. -/
def State.drainRows (s : State) (tile : Nat) (o : ChiselOp) : State :=
  let d := o.d
  let rows := (List.range d.m).map fun m =>
    let c (n : Nat) : Word := BitVec.ofNat 32 (leNat (s.localRead tile (o.base + d.cOff + m * d.ldc + 4 * n) 4))
    let bytes := packElems (outBits d.dfmt) (Config.nat (s.freeCount + m) % 16)
      ((List.range d.n).map fun n => drainElem d (o.acc.getD (m * d.n + n) 0) (c n))
    if d.overlaps then bytes.mapIdx fun i _ => Config.noise (s.freeCount + m) 0 i else bytes
  let s := { s with freeCount := s.freeCount + d.m }
  s.each ((List.range d.m).zip rows) fun (m, r) s => s.localWrite tile (o.base + d.dOff + m * d.ldd) r

/-! ## The run of an operation (R347–R350, R354, R357–R363) -/

def State.updChs (s : State) (tile : Nat) (f : Chisel → Chisel) : State := s.updTile tile fun t => { t with chs := f t.chs }
def State.updOp (s : State) (tile id : Nat) (f : ChiselOp → ChiselOp) : State :=
  s.updChs tile fun c => { c with ops := c.ops.map fun o => if o.id == id then f o else o }
def State.chsCount (s : State) (tile i : Nat) : State := s.updChs tile fun c => { c with cnt := c.cnt.modify i (· + 1) }

/-- An operation that holds the engine: chosen, and not complete until its drain is over and every slice to forward is accepted downstream
(R355, R357, R358). -/
def ChiselOp.running (o : ChiselOp) : Bool :=
  match o.stage with
  | .queued => false
  | .drained => o.d.fwd != 0 && o.accepted < o.d.slices
  | _ => true

/-- The ring slot in which slice i lies (R396). -/
def ringIdx (slotBytes i : Nat) : Nat := i / (slotBytes / 2048)

/-- Whether an operation holds, or has at hand, its next slice (R353, R357, R358). -/
def State.sliceReady (s : State) (tile : Nat) (o : ChiselOp) : Bool :=
  match o.d.bsrc with
  | 0 => true
  | 1 => o.ringSlot.isSome || (s.openOn tile o.ctx o.d.stream).any Stream.canAcquire
  | _ => (s.tile tile).chs.inBuf.any (·.op == o.id)

/-- The bytes of the operation's next slice. -/
def State.sliceData (s : State) (tile : Nat) (o : ChiselOp) : List Byte :=
  match o.d.bsrc with
  | 0 => s.localRead tile (o.base + o.d.bOff + 2048 * o.slice) 2048
  | 1 =>
    match s.stream? o.d.stream, o.ringSlot with
    | some x, some i => s.localRead tile (x.slotAddr i + 2048 * (o.slice % (x.slotBytes / 2048))) 2048
    | _, _ => []
  | _ => ((((s.tile tile).chs.inBuf.find? (·.op == o.id)).map (·.data)).getD [])

/-- A RING operation acquires the slot of its next slice (R396). -/
def State.takeSlot (s : State) (tile : Nat) (o : ChiselOp) : State :=
  if o.d.bsrc == 1 && o.ringSlot.isNone then
    match s.openOn tile o.ctx o.d.stream with
    | none => s
    | some x => (s.acquire x.num).updOp tile o.id fun o => { o with ringSlot := some x.acquired }
  else s

/-- Room in the output buffers towards an operation's downstream neighbour (R353, R354). -/
def State.outRoom (s : State) (tile : Nat) (o : ChiselOp) : Bool :=
  o.d.fwd == 0 || ((s.tile tile).chs.outBuf.filter (·.plus == (o.d.fwd == 1))).length < 4

/-- Put the next slice into the output buffers, once, if there is room (R354). -/
def State.offer (s : State) (tile : Nat) (id : Nat) : State :=
  match (s.tile tile).chs.ops.find? (·.id == id) with
  | none => s
  | some o =>
    if o.d.fwd == 0 || o.offered > o.slice || !s.outRoom tile o then s
    else
      let b : RelayBuf := { op := id, plus := o.d.fwd == 1, data := s.sliceData tile o }
      (s.updChs tile fun c => { c with outBuf := c.outBuf ++ [b] }).updOp tile id fun o => { o with offered := o.offered + 1 }

/-- Cycles of the accumulator fill and of the drain (R347). -/
def ChopDesc.accCycles (d : ChopDesc) : Nat := 24 + (if d.accum then ceilDiv (4 * d.m * d.n) 256 else 0)
def ChopDesc.drainCycles (d : ChopDesc) : Nat := 8 + ceilDiv (d.m * d.dRow) 256

/-- The last pass of a slice has used it: the accumulators take it, its buffer or ring slot goes back, and after the last slice the
drain begins (R348, R396). -/
def State.sliceUsed (s : State) (tile : Nat) (o : ChiselOp) : State :=
  let acc := sliceAll o.d (fun m => s.localRead tile
      (o.base + o.d.aOff + m * o.d.lda + o.slice * o.d.ks * inBits o.d.afmt / 8) (o.d.ks * inBits o.d.afmt / 8))
    (s.sliceData tile o) o.acc
  let last := o.slice + 1 == o.d.slices
  let s := s.act tile o.ctx 6 (ceilDiv (o.d.m * (o.d.ks * inBits o.d.afmt / 8)) 256 + (if o.d.bsrc < 2 then 8 else 0))
  let s :=
    if o.d.bsrc == 1 then
      match s.stream? o.d.stream, o.ringSlot with
      | some x, some i =>
        if last || (o.slice + 1) % (x.slotBytes / 2048) == 0 then
          (s.release x.num i).updOp tile o.id fun o => { o with ringSlot := none }
        else s
      | _, _ => s
    else if o.d.bsrc ≥ 2 then
      s.updChs tile fun c => match c.inBuf.find? (·.op == o.id) with
        | some b => { c with inBuf := c.inBuf.erase b }
        | none => c
    else s
  s.updOp tile o.id fun o =>
    { o with acc := acc, slice := o.slice + 1, mac := 0, stage := if last then .drain o.d.drainCycles else .compute }

/-- The activity that a MAC cycle of an input format is (R560): FP4, FP8 and INT8, BF16 and FP16. -/
def macAct (f : Nat) : Nat := if inBits f == 4 then 1 else if inBits f == 8 then 2 else 3

/-- One cycle of the running operation; `mac`: the limiter allows a MAC cycle (R347, R348, R354, R361, R374). The first slice goes into the
output buffer when it is ready (the worked case of 07_chisel.md), a later one in the cycle of its first use (R354). DESIGN CHOICE (log 148):
a cycle in which an operation that has drained waits for the acceptance of a slice counts as CHS_SOURCE_WAIT. -/
def State.opCycle (s : State) (tile : Nat) (o : ChiselOp) (mac : Bool) : State :=
  match o.stage with
  | .sourceFill n =>
    let s := s.updOp tile o.id fun o => { o with stage := if n ≤ 1 then .accFill o.d.accCycles else .sourceFill (n - 1) }
    (if n ≤ 1 then s.offer tile o.id else s).chsCount tile 1
  | .accFill n =>
    let s := if n ≤ 1 then s.act tile o.ctx 6 (o.d.accCycles - 24) else s
    (s.updOp tile o.id fun o => { o with stage := if n ≤ 1 then .compute else .accFill (n - 1) }).chsCount tile 1
  | .resume n => (s.updOp tile o.id fun o => { o with stage := if n ≤ 1 then .compute else .resume (n - 1) }).chsCount tile 1
  | .drain n =>
    let s := if n ≤ 1 then (s.drainRows tile o).act tile o.ctx 6 (o.d.drainCycles - 8) else s
    (s.updOp tile o.id fun o => { o with stage := if n ≤ 1 then .drained else .drain (n - 1) }).chsCount tile 2
  | .compute =>
    if o.mac == 0 && (!s.sliceReady tile o || (o.offered ≤ o.slice && !s.outRoom tile o)) then s.chsCount tile 4
    else
      let s := if o.mac == 0 then s.takeSlot tile o else s
      let s := if o.mac == 0 && mac then s.offer tile o.id else s
      match (s.tile tile).chs.ops.find? (·.id == o.id) with
      | none => s
      | some o =>
        if !mac then (s.updOp tile o.id fun o => { o with limited := true }).chsCount tile 3
        else
          let s := (s.chsCount tile 0).act tile o.ctx (macAct o.d.afmt) 1
          if o.mac + 1 == 16 * o.d.passes then s.sliceUsed tile o else s.updOp tile o.id fun o => { o with mac := o.mac + 1 }
  | .drained => s.chsCount tile 4
  | .queued => s

/-- One cycle of a running batch (R361, R370). -/
def RunBatch.cycle (r : RunBatch) (mac : Bool) : RunBatch :=
  match r.phases with
  | [] => r
  | p :: rest =>
    if p.mac && !mac then r
    else if p.left ≤ 1 then { r with phases := rest } else { r with phases := { p with left := p.left - 1 } :: rest }

/-- One tile cycle of Chisel: the limiter's window (R361, R362), then exactly one of the seven cycle counters (R374). -/
def State.chiselCycle (s : State) (tile : Nat) : State :=
  let s := s.updChs tile fun c =>
    { c with limit := if c.cycle % 16 == 0 then c.nextLimit else c.limit, ops := c.ops.map fun o => { o with limited := false } }
  let c := (s.tile tile).chs
  let mac := c.cycle % 16 < c.limit
  let s :=
    match c.run with
    | some r =>
      ((s.updChs tile fun c => { c with run := some (r.cycle mac) }).chsCount tile 5).act tile r.batch.ctx 4
        (b2n (mac && (r.phases.head?.any fun (p : BatchPhase) => p.mac)))
    | none =>
      match c.ops.find? ChiselOp.running with
      | some o => s.opCycle tile o mac
      | none => s.chsCount tile 6
  s.updChs tile fun c => { c with cycle := c.cycle + 1 }

/-! ## Start and end of operations -/

/-- A neural batch that may start when the engine is free: its context is live and its block is in the weight cache. -/
def State.batchReady (s : State) (tile : Nat) (b : Batch) : Bool :=
  s.live b.ctx && (s.tile tile).chs.nwc.any fun w => w.part == (s.ctx b.ctx).part && w.va == b.va

/-- What a batch and an operation rank by (R35, R36). -/
def Batch.rank (b : Batch) : Rank := ⟨b.deadline, b.arr, b.ctx⟩
def ChiselOp.rank (o : ChiselOp) : Rank := ⟨o.deadline, o.arr, o.ctx⟩

/-- The batch to run next: earliest deadline, then arrival (R371). -/
def State.nextBatch (s : State) (tile : Nat) : Option Batch :=
  earliest Batch.rank ((s.tile tile).chs.batches.filter fun b => s.live b.ctx)

/-- The operation to start next: of those eligible, the earliest deadline, then arrival (R357, R359). -/
def State.nextOp (s : State) (tile : Nat) : Option ChiselOp :=
  let c := (s.tile tile).chs
  let first (o : ChiselOp) : Bool :=
    match c.ops.find? fun x => x.stage == .queued && x.group == o.group && x.gid == o.gid with
    | some x => x.id == o.id
    | none => false
  earliest ChiselOp.rank (c.ops.filter fun o => o.stage == .queued && s.live o.ctx && s.sliceReady tile o && first o)

/-- CHISEL_OP_START: the free engine takes the eligible operation of earliest deadline, then first arrival, unless a batch that may start
ranks before it (R35, R349, R357–R359, R371). -/
def execChiselOpStart (tile : Nat) (s : State) : Out :=
  .next (if !s.clocked then s else
    let c := (s.tile tile).chs
    if c.run.isSome || c.ops.any ChiselOp.running then s else
    match s.nextOp tile with
    | none => s
    | some o =>
      if (s.nextBatch tile).any (fun b => s.batchReady tile b && b.rank.lt o.rank) then s else
      let s := (s.takeSlot tile o).updOp tile o.id fun o =>
        { o with stage := if o.d.bsrc ≥ 2 then .accFill o.d.accCycles else .sourceFill 16, acc := List.replicate (o.d.m * o.d.n) 0 }
      if o.d.bsrc ≥ 2 then s.offer tile o.id else s)

/-- An operation leaves the queue with a STATUS (R344). -/
def State.opEnd (s : State) (tile : Nat) (o : ChiselOp) (status : Byte) : State :=
  (s.localWrite tile (o.desc + 56) [status]).updChs tile fun c =>
    { c with
      ops := c.ops.filter (·.id != o.id), inBuf := c.inBuf.filter (·.op != o.id), outBuf := c.outBuf.filter (·.op != o.id) }

/-- CHISEL_OP_COMPLETE: the drain has completed and every slice to forward has been accepted downstream (R344, R355). -/
def execChiselOpComplete (tile op : Nat) (s : State) : Out :=
  .next (if !s.clocked then s else
    match (s.tile tile).chs.ops.find? (·.id == op) with
    | none => s
    | some o =>
      if o.stage != .drained || (o.d.fwd != 0 && o.accepted < o.d.slices) || !s.live o.ctx then s
      else (s.opEnd tile o 0).chsCount tile 7)

/-! ## The relay chain (R351–R356) -/

/-- The queued operation of a tile that a slice travelling in a direction belongs to: the first issued that still needs one (R353). -/
def Tile.relayMatch (t : Tile) (up : ChiselOp) (plus : Bool) : Option ChiselOp :=
  t.chs.ops.find? fun o =>
    o.ctx == up.ctx && o.d.relayId == up.d.relayId && o.d.bfmt == up.d.bfmt && o.d.k == up.d.k
      && o.d.bsrc == (if plus then 2 else 3) && o.received < o.d.slices

/-- The upstream tile of a tile for slices that travel towards +x or −x. -/
def upstream (tile : Nat) (plus : Bool) : Option Nat :=
  if plus then (if tile % 12 == 0 then none else some (tile - 1)) else (if tile % 12 == 11 then none else some (tile + 1))

/-- RELAY_SLICE_ARRIVAL: the oldest slice in the upstream neighbour's output buffer enters this tile's input buffer for its
matching operation, if there is one and a buffer is free (R351, R353, R356). -/
def execRelaySliceArrival (tile : Nat) (plus : Bool) (s : State) : Out :=
  .next (if !s.clocked then s else
    match upstream tile plus with
    | none => s
    | some u =>
      match (s.tile u).chs.outBuf.find? (·.plus == plus) with
      | none => s
      | some b =>
        match (s.tile u).chs.ops.find? (·.id == b.op) with
        | none => s
        | some up =>
          match (s.tile tile).relayMatch up plus with
          | none => s
          | some o =>
            if ((s.tile tile).chs.inBuf.filter (·.plus == plus)).length ≥ 4 || !s.live o.ctx then s
            else
              let s := (s.updChs u fun c => { c with outBuf := c.outBuf.erase b }).updOp u up.id fun x =>
                { x with accepted := x.accepted + 1, progress := s.now }
              let s := (s.chsCount u 11).act u up.ctx 10 1
              (s.updChs tile fun c => { c with inBuf := c.inBuf ++ [{ b with op := o.id }] }).updOp tile o.id fun x =>
                { x with received := x.received + 1, progress := s.now })

/-- RELAY_TIMEOUT: an operation of a chain without relay progress for 100 µs, which still needs or forwards slices, ends with
STATUS 1 (R356). -/
def execRelayTimeout (now tile op : Nat) (s : State) : Out :=
  let s := s.at now
  .next (if !s.clocked then s else
    match (s.tile tile).chs.ops.find? (·.id == op) with
    | none => s
    | some o =>
      let waits := (o.d.bsrc ≥ 2 && o.received < o.d.slices) || (o.d.fwd != 0 && o.accepted < o.d.slices)
      if !waits || o.progress + 100000 > s.now || !s.live o.ctx then s
      else
        let s := match s.stream? o.d.stream, o.ringSlot with
          | some x, some i => s.release x.num i
          | _, _ => s
        (s.opEnd tile o 1).chsCount tile 10)

/-! ## Neural batches (R364–R372) -/

/-- NEURAL_BATCH_ARRIVAL: the n-th batch under way reaches its tile: queued, refused by a full queue, or discarded and counted when
its context is no longer live (R73, R366). -/
def execNeuralBatchArrival (n : Nat) (s : State) : Out :=
  .next (if !s.clocked then s else
    match s.bus.flight[n]? with
    | none => s
    | some f =>
      let s := { s with bus := { s.bus with flight := s.bus.flight.eraseIdx n } }
      if !s.live f.batch.ctx then s.updCm fun m => { m with lateArrivals := m.lateArrivals + 1 }
      else if (s.tile f.tile).chs.batches.length ≥ 16 then { s with bus := { s.bus with refused := s.bus.refused ++ [f.batch] } }
      else s.updChs f.tile fun c => { c with batches := c.batches ++ [{ f.batch with arr := s.now }] })

/-- The layers of a network block (R367): input width, output width, activation, first byte of its weights. -/
structure Layer where
  inW : Nat
  outW : Nat
  act : Nat
  at_ : Nat

/-- Bytes of an element of a network format. -/
def netBytes (fmt : Nat) : Nat := if fmt == 2 then 1 else 2

/-- The floating-point format of a network. -/
def netFmt : Nat → Fmt
  | 0 => bf16 | 1 => fp16 | _ => e4m3

/-- The layers that a header names, one after another from byte 64 (R367). -/
def netLayers (h : List Byte) : Nat → Nat → Nat → Nat → List Layer
  | 0, _, _, _ => []
  | n + 1, i, inW, at_ =>
    let w := field h (4 + i) 1
    let size := roundUp (inW * w * netBytes (field h 1 1) + 4 * w) 64
    ⟨inW, w, field h (8 + i) 1, at_⟩ :: netLayers h n (i + 1) w (at_ + size)

/-- The size of a block as its header gives it (R367). -/
def netSize (h : List Byte) : Nat :=
  (netLayers h (field h 0 1) 0 3 64).foldl (fun _ l => l.at_ + roundUp (l.inW * l.outW * netBytes (field h 1 1) + 4 * l.outW) 64) 64

/-- The check of a network block's header (R368): NEURAL_LEAF_LIMIT, TREE_FORMAT, or none. -/
def netCheck (h : List Byte) : Option Nat :=
  let n := field h 0 1
  let w (i : Nat) : Nat := field h (4 + i) 1
  let a (i : Nat) : Nat := field h (8 + i) 1
  let used := List.range n
  let unused := (List.range 4).filter (· ≥ n)
  if n > 4 || (List.range 4).any (w · > 64) then some 0x0D
  else if n == 0 || field h 1 1 ≥ 3 || field h 2 1 != 3 || field h 3 1 != 0 || used.any (w · == 0) || (w (n - 1) != 1 && w (n - 1) != 4)
    || unused.any (fun i => w i != 0 || a i != 0) || used.any (a · ≥ 3) || a (n - 1) != 0
    || !((h.drop 16).take 48).all (· == 0) || field h 12 4 != netSize h then some 0x0C
  else none

/-- Read n bytes of DEVICE memory of a context through the device cache. -/
def State.readDevice (s : State) (ag : Agent) (c va n : Nat) (eff : Option Nat) : State × Except XErr (List Byte) :=
  match s.translate ag c va with
  | (s, .error e) => (s, .error e)
  | (s, .ok l) =>
    if l.typ != 0 then (s, .error .permission)
    else
      match s.readVa ag c [] .load eff (n / 128 + 2) va n with
      | (s, .error (e, _)) => (s, .error e)
      | (s, .ok b) => (s, .ok b)

/-- A block enters the neural weight cache; the least recently used blocks leave (R372). -/
def nwcPut (l : List NwcBlock) (b : NwcBlock) : List NwcBlock :=
  let all := b :: l.filter fun x => !(x.part == b.part && x.va == b.va)
  (all.foldl (fun (acc : List NwcBlock × Nat) x =>
    if acc.2 + x.data.length ≤ 65536 then (acc.1 ++ [x], acc.2 + x.data.length) else (acc.1, 65536)) ([], 0)).1

/-- The fault of a batch's network block (R368). -/
def State.netFault (s : State) (tile : Nat) (b : Batch) (code detail : Nat) : State :=
  (s.raise { code := code, ctx := b.ctx, tile := tile, unit := 2, addr := b.va, detail := detail, unitId := b.armature, valid := 0x01 }).updChs
    tile fun c => { c with batches := c.batches.erase b }

/-- NEURAL_WEIGHT_CACHE_FILL: the block of the first queued batch that misses it is loaded and checked; a fault discards the
batch (R368, R372). -/
def execNeuralWeightCacheFill (tile : Nat) (s : State) : Out :=
  .next (if !s.clocked then s else
    match (s.tile tile).chs.batches.find? fun b => s.live b.ctx && !s.batchReady tile b with
    | none => s
    | some b =>
      let s := s.chsCount tile 9
      let err (s : State) (e : XErr) : State := s.netFault tile b e.code (match e with | .poison st => st | _ => 0)
      match s.readDevice (.tile tile) b.ctx b.va 64 b.deadline with
      | (s, .error e) => err s e
      | (s, .ok h) =>
        match netCheck h with
        | some code => s.netFault tile b code 0
        | none =>
          match s.readDevice (.tile tile) b.ctx b.va (field h 12 4) b.deadline with
          | (s, .error e) => err s e
          | (s, .ok d) => s.updChs tile fun c => { c with nwc := nwcPut c.nwc ⟨(s.ctx b.ctx).part, b.va, d⟩ })

/-- The phases of a batch of n points (R370). -/
def netPhases (d : List Byte) (n : Nat) : List BatchPhase :=
  let rate := if field d 1 1 == 2 then 8192 else 4096
  (netLayers d (field d 0 1) 0 3 64).flatMap fun l =>
    [⟨false, 8⟩, ⟨true, max 1 (ceilDiv (n * l.inW * l.outW) rate)⟩, ⟨false, 4⟩]

/-- NEURAL_BATCH_START: the earliest-deadline batch starts on the free engine, unless an operation that may start ranks before it, or at a
slice boundary of an operation with a later deadline, which resumes after 4 cycles of fill (R35, R371). An operation that has drained has no
slice boundary left: it gives way to such a batch at once. -/
def execNeuralBatchStart (tile : Nat) (s : State) : Out :=
  .next (if !s.clocked || (s.tile tile).chs.run.isSome then s else
    match s.nextBatch tile with
    | none => s
    | some b =>
      if !s.batchReady tile b then s else
      let free := match (s.tile tile).chs.ops.find? ChiselOp.running with
        | none => !(s.nextOp tile).any fun o => o.rank.lt b.rank
        | some o => ((o.stage == .compute && o.mac == 0) || o.stage == .drained) && dlLt b.deadline o.deadline
      if !free then s else
      s.updChs tile fun c =>
        match c.nwc.find? fun w => w.part == (s.ctx b.ctx).part && w.va == b.va with
        | none => c
        | some w =>
          { c with batches := c.batches.erase b, nwc := nwcPut c.nwc w
                   ops := c.ops.map fun o => if o.stage == .compute then { o with stage := .resume 4 } else o
                   run := some { batch := b, block := w.data, phases := netPhases w.data b.points.length } })

/-- One layer on one point (R337, R369): inputs in the block's format; bias and activation in FP32. -/
def netLayer (d : List Byte) (l : Layer) (x : List Nat) : List Nat :=
  let fmt := netFmt (field d 1 1)
  let nb := netBytes (field d 1 1)
  let ks := if field d 1 1 == 2 then 2 else 1
  (List.range l.outW).map fun o =>
    let w (i : Nat) : Nat := field d (l.at_ + (i * l.outW + o) * nb) nb
    let acc := (List.range (ceilDiv l.inW ks)).foldl (fun acc t =>
      let prods := (List.range ks).filterMap fun j =>
        if t * ks + j < l.inW then some (FVal.mul (fmt.unpack (x.getD (t * ks + j) 0)) (fmt.unpack (w (t * ks + j)))) else none
      fp32.round .nearest false false (FVal.add .nearest (exactSum prods) (fp32.unpack acc))) 0
    let v := fAdd fp32 0 acc (field d (l.at_ + l.inW * l.outW * nb + 4 * o) 4)
    match l.act with
    | 0 => v
    | 1 => relu32 v
    | _ => unaryFree 0x4A 0 (BitVec.ofNat 32 v)

/-- The outputs of a network on a point (R365, R369). -/
def netEval (d : List Byte) (p : List Word) : List Word :=
  let fmt := netFmt (field d 1 1)
  let conv (v : Nat) : Nat := fmt.round .nearest false false (fp32.unpack v)
  let ls := netLayers d (field d 0 1) 0 3 64
  let outs := ls.foldl (fun x l => netLayer d l (x.map conv)) (p.map (·.toNat))
  outs.map (BitVec.ofNat 32)

/-- NEURAL_BATCH_COMPLETE: the batch's last layer has drained: its reply goes back to the Armature, and the engine is free for the operation
it interrupted (R365, R371). -/
def execNeuralBatchComplete (tile : Nat) (s : State) : Out :=
  .next (if !s.clocked then s else
    match (s.tile tile).chs.run with
    | none => s
    | some r =>
      if !r.phases.isEmpty then s else
      let reply : BatchReply :=
        { armature := r.batch.armature, req := r.batch.req, ctx := r.batch.ctx, outs := r.batch.points.map (netEval r.block) }
      let s := (s.updChs tile fun c => { c with run := none }).chsCount tile 8
      if s.live r.batch.ctx then { s with bus := { s.bus with replies := s.bus.replies ++ [reply] } } else s)

end Sys2Proof.Machine
end

