-- ==== Sys2Proof/Machine/RayMath.lean ====
section
/-! DEFINITION. Intersection arithmetic on exact values: slabs and boxes (R427, R445, R469), triangles (R470–R472), instance
transforms (R435), octahedral normals (R477). -/
namespace Sys2Proof.Machine

/-- The value of an FP32 code. -/
def fv (c : Nat) : FVal := fp32.unpack c

def FVal.sub (a b : FVal) : FVal := FVal.add .nearest a b.neg
def FVal.plus (a b : FVal) : FVal := FVal.add .nearest a b
def FVal.zero : FVal := .fin false 0 0
/-- a ≤ b and a < b on values; false where either is NaN. -/
def FVal.le (a b : FVal) : Bool := !a.isNan && !b.isNan && FVal.cmp a b != .gt
def FVal.lt (a b : FVal) : Bool := !a.isNan && !b.isNan && FVal.cmp a b == .lt
def FVal.abs : FVal → FVal
  | .nan => .nan
  | .inf _ => .inf false
  | .fin _ m e => .fin false m e

/-- The quotient of two values to more than 60 bits, a nonzero rest kept as a last bit, so that one rounding of it is the rounding
of the exact quotient. -/
def FVal.div (a b : FVal) : FVal :=
  match a, b with
  | .nan, _ => .nan
  | _, .nan => .nan
  | .inf _, .inf _ => .nan
  | .inf x, .fin n _ _ => .inf (x != n)
  | .fin n _ _, .inf m => .fin (n != m) 0 0
  | .fin na ma ea, .fin nb mb eb =>
    if mb == 0 then (if ma == 0 then .nan else .inf (na != nb))
    else
      let sh := 64 + Nat.log2 mb
      let q := ma * 2 ^ sh / mb
      .fin (na != nb) (2 * q + b2n (ma * 2 ^ sh % mb != 0)) (ea - eb - sh - 1)

/-- One rounding into FP32. -/
def FVal.to32 (mode : RMode) (v : FVal) : Nat := fp32.round mode false false v

def maxCode (a b : Nat) : Nat := if (fv a).lt (fv b) then b else a
def minCode (a b : Nat) : Nat := if (fv b).lt (fv a) then b else a

/-- Origin and direction of a ray in the space of a tree. -/
structure RaySp where
  o : List FVal
  d : List FVal

def v3 (l : List FVal) (i : Nat) : FVal := l.getD i .zero

/-- The ray in the child tree of an instance: XFORM on the origin and, without translation, on the direction (R435). -/
def transformRay (m : List Nat) (r : RaySp) : RaySp :=
  let e (i j : Nat) : FVal := fv (m.getD (4 * i + j) 0)
  let row (i : Nat) (v : List FVal) : FVal :=
    FVal.plus (FVal.plus (FVal.mul (e i 0) (v3 v 0)) (FVal.mul (e i 1) (v3 v 1))) (FVal.mul (e i 2) (v3 v 2))
  { o := (List.range 3).map fun i => FVal.plus (row i r.o) (e i 3), d := (List.range 3).map fun i => row i r.d }

/-- A slab [lo, hi]: its entry distance rounded down and its exit distance rounded up; none: the ray misses it (R469). -/
def slab (o d lo hi : FVal) : Option (Nat × Nat) :=
  let zero := match d with
    | .fin _ m _ => m == 0
    | _ => false
  if zero then (if lo.le o && o.le hi then some (fp32.inf true, fp32.inf false) else none)
  else
    let a := FVal.div (FVal.sub lo o) d
    let b := FVal.div (FVal.sub hi o) d
    let (n, f) := if d.isNeg then (b, a) else (a, b)
    some (n.to32 .down, f.to32 .up)

/-- A box [lo, hi] per axis against a ray within [tmin, tcur]: the entry distance, clamped below at tmin, and the exit distance taken
with tmax; none: it is rejected (R469, R479). -/
def boxTest (r : RaySp) (lo hi : List FVal) (tmin tcur tmax : Nat) : Option (Nat × Nat) :=
  match (List.range 3).mapM fun i => slab (v3 r.o i) (v3 r.d i) (v3 lo i) (v3 hi i) with
  | none => none
  | some l =>
    let entry := l.foldl (fun m x => maxCode m x.1) tmin
    let exit_ := l.foldl (fun m x => minCode m x.2) tmax
    if (fv entry).le (fv (minCode exit_ tcur)) then some (entry, exit_) else none

/-- A free FP32 code if it meets a condition, else the given one. -/
def freeNear (free : Nat) (ok : FVal → Bool) (code : Nat) : Nat :=
  if ok (fv (free % 2 ^ 32)) then free % 2 ^ 32 else code

def cross (a b : List FVal) : List FVal :=
  let c (i j : Nat) : FVal := FVal.sub (FVal.mul (v3 a i) (v3 b j)) (FVal.mul (v3 a j) (v3 b i))
  [c 1 2, c 2 0, c 0 1]
def dot (a b : List FVal) : FVal :=
  FVal.plus (FVal.plus (FVal.mul (v3 a 0) (v3 b 0)) (FVal.mul (v3 a 1) (v3 b 1))) (FVal.mul (v3 a 2) (v3 b 2))
def sub3 (a b : List FVal) : List FVal := (List.range 3).map fun i => FVal.sub (v3 a i) (v3 b i)

/-- A triangle's hit: T, U and V as FP32 codes and whether the back face is met. -/
structure TriHit where
  t : Nat
  u : Nat
  v : Nat
  back : Bool

/-- The ray meets the back face of a triangle (R433), in the space of its vertices (R472). -/
def triBack (r : RaySp) (vs : List (List FVal)) : Bool :=
  let v0 := vs.getD 0 []
  (dot (sub3 (vs.getD 1 []) v0) (cross r.d (sub3 (vs.getD 2 []) v0))).isNeg

/-- A triangle against a ray: T within 4 ulp of the exact distance, U and V within 2^−20 of the exact weights, U + V ≤ 1, the choice
within those bounds being free; a zero edge value counts as inside, a zero area or a culled back face is no hit (R433,
R470–R472). -/
def triTest (r : RaySp) (vs : List (List FVal)) (cull : Bool) (f0 f1 f2 : Nat) : Option TriHit :=
  let v0 := vs.getD 0 []
  let e1 := sub3 (vs.getD 1 []) v0
  let e2 := sub3 (vs.getD 2 []) v0
  let p := cross r.d e2
  let det := dot e1 p
  let c := sub3 r.o v0
  let q := cross c e1
  let neg := det.isNeg
  let s (x : FVal) : FVal := if neg then x.neg else x
  let d := s det
  let un := s (dot c p)
  let vn := s (dot r.d q)
  let tn := s (dot e2 q)
  let back := neg
  if !FVal.zero.lt d || !FVal.zero.le un || !FVal.zero.le vn || !(FVal.plus un vn).le d || !FVal.zero.le tn || (cull && back) then none
  else
    match d, tn with
    | .fin _ _ _, .fin _ _ _ =>
      let t := (FVal.div tn d).to32 .nearest
      let ulp := match fv t with
        | .fin _ _ e => FVal.fin false 4 e
        | _ => .zero
      let near (num tol : FVal) (w : FVal) : Bool := (FVal.sub (FVal.mul w d) num).abs.le (FVal.mul tol d)
      let one := FVal.fin false 1 0
      let okT (w : FVal) : Bool := FVal.zero.le w && near tn ulp w
      let ok1 (num : FVal) (w : FVal) : Bool := FVal.zero.le w && w.le one && near num (.fin false 1 (-20)) w
      let v0 := (FVal.div vn d).to32 .zero
      let u := freeNear f1 (fun w => ok1 un w && (FVal.plus w (fv v0)).le one) ((FVal.div un d).to32 .zero)
      let v := freeNear f2 (fun w => ok1 vn w && (FVal.plus (fv u) w).le one) v0
      some { t := freeNear f0 okT t, u := u, v := v, back := back }
    | _, _ => none

/-- The octahedral form of a normal (R477); the form of a zero normal is free. -/
def octahedral (n : List FVal) (free : Nat) : Nat × Nat :=
  let x := v3 n 0
  let y := v3 n 1
  let z := v3 n 2
  let sum := FVal.plus (FVal.plus x.abs y.abs) z.abs
  if !FVal.zero.lt sum then (free % 2 ^ 32, free / 2 ^ 32 % 2 ^ 32)
  else
    let code (v : FVal) : Nat := (FVal.div v sum).to32 .nearest
    if FVal.zero.le z then (code x, code y)
    else
      let sg (a v : FVal) : FVal := if a.lt .zero then v.neg else v
      (code (sg x (FVal.sub sum y.abs)), code (sg y (FVal.sub sum x.abs)))

/-- The square root of a nonnegative finite value to more than 60 bits. -/
def FVal.sqrt (v : FVal) : FVal :=
  match v with
  | .fin _ m e =>
    let e' := e - 2 * 70 - (e % 2)
    let k := (e - e').toNat
    .fin false (isqrt (m * 2 ^ k)) (e' / 2)
  | x => x

end Sys2Proof.Machine
end

