-- ==== Sys2Proof/Machine/Armature.lean ====
section
/-! DEFINITION. The Armatures: nodes and leaves and their checks, the path of a ray from its home through visits, sphere tracing
and speculative fetches (R422–R440, R457–R483). -/
namespace Sys2Proof.Machine

def State.armCount (s : State) (a i n : Nat) : State := s.updArm a fun x => { x with cnt := x.cnt.modify i (· + n) }

/-- Box tests (i = 1) or triangle tests (i = 2) of an Armature for a context (R484, R597). -/
def State.armTests (s : State) (a i c n : Nat) : State :=
  (s.armCount a i n).updArm a fun x => { x with acts := addAct x.acts c n }

/-! ## Residency and images -/

def State.armPart (s : State) (p : Nat) : ArmPart := s.arm.parts.getD p {}
def State.updArmPart (s : State) (p : Nat) (f : ArmPart → ArmPart) : State :=
  s.updArms fun e => { e with parts := e.parts.modify p f }

/-- The owner of a subtree of a partition; none: its residency entry is not valid (R452, R488). -/
def State.owner (s : State) (p sub : Nat) : Option Nat := ((s.armPart p).res.find? (·.sub == sub)).map (·.owner)

def State.image? (s : State) (id : Nat) : Option Image_ := s.arm.images.find? (·.id == id)

/-- SRAM entries of an Armature that images hold (R443). -/
def State.imageEntries (s : State) (a : Nat) : Nat :=
  ((s.arm.images.filter (·.homes.contains a)).map fun i => i.budget + 1).foldl (· + ·) 0

/-- Partitions that own subtrees at an Armature, in ascending order (R458). -/
def State.storeParts (s : State) (a : Nat) : List Nat :=
  (List.range 32).filter fun p => (s.armPart p).res.any (·.owner == a)

/-- A partition's share of an Armature's node store in 64-byte entries (R458). -/
def State.storeShare (s : State) (a p : Nat) : Nat :=
  let ps := s.storeParts a
  let i := ps.findIdx (· == p)
  let room := 12288 - s.imageEntries a
  if i ≥ ps.length then 0 else room / ps.length + b2n (i < room % ps.length)

/-- The lines of a partition that its share holds, newest first, and those of the others (R458). -/
def storeFit (l : List StoreLine) (part share : Nat) : List StoreLine :=
  (l.foldl (fun (acc : List StoreLine × Nat) x =>
    if x.part != part then (acc.1 ++ [x], acc.2)
    else if acc.2 + x.size ≤ share then (acc.1 ++ [x], acc.2 + x.size) else (acc.1, share)) ([], 0)).1

/-- Put a node or leaf at the front of the store; the partition's oldest leave when its share is full (R458, R482). -/
def storePut (l : List StoreLine) (n : StoreLine) (share : Nat) : List StoreLine :=
  storeFit (n :: l.filter fun x => !(x.part == n.part && x.pa == n.pa)) n.part share

/-- A node store keeps what its partitions' shares hold, after images, a move or a RELOAD have changed them (R458). -/
def State.storeTrim (s : State) (a : Nat) : State :=
  s.updArm a fun y => { y with store := (List.range 32).foldl (fun l p => storeFit l p (s.storeShare a p)) y.store }

/-- Bytes at a physical address as they stand at the device cache or HBM, without an access being counted. -/
def MemSys.peek (m : MemSys) (slot pa n : Nat) : List Byte :=
  (List.range n).flatMap fun i =>
    match m.dc.find? fun e => e.info.line == (pa + i) / 128 && e.key == slot with
    | some e => readCells e.info m.dcData (pa + i) 1
    | none => (m.readHbm slot (pa + i) 1).1

/-- The subtree ID of a node. -/
def nodeSelf (d : List Byte) : Nat := field d 58 2 % 4096

/-- Where the bytes of a node or leaf lie: runs of physical addresses, one for each page it touches, each of DEVICE memory with READ permission
(R439). -/
def State.nodeRuns (s : State) (a c va n : Nat) : State × Except XErr (List (Nat × Nat)) :=
  let one (s : State) (va n : Nat) : State × Except XErr (Nat × Nat) :=
    match s.resolve (.armature a) c va n .load with
    | (s, .error e) => (s, .error e)
    | (s, .ok (l, pa)) => (s, if l.typ != 0 then .error .permission else .ok (pa, n))
  let k := min n (4096 - va % 4096)
  match one s va k with
  | (s, .error e) => (s, .error e)
  | (s, .ok r) =>
    if k == n then (s, .ok [r])
    else match one s (va + k) (n - k) with
      | (s, .error e) => (s, .error e)
      | (s, .ok q) => (s, .ok [r, q])

/-- Read runs through the device cache under a key slot: the bytes, and the DETAIL of a poisoned one. -/
def State.readRuns (s : State) (c key : Nat) (eff : Option Nat) : List (Nat × Nat) → State × Except XErr (List Byte)
  | [] => (s, .ok [])
  | (pa, n) :: rest =>
    let s := s.each ((List.range ((pa % 128 + n + 127) / 128)).map (pa / 128 + ·)) fun l s => s.pcNow 0 key l eff c
    let (m, b, bad) := s.mem.readMany key (n / 128 + 2) pa n
    let s := { s with mem := m }
    if bad then (s, .error (.poison (m.poisonUnit key pa n)))
    else match s.readRuns c key eff rest with
      | (s, .error e) => (s, .error e)
      | (s, .ok r) => (s, .ok (b ++ r))

/-- Read a node (of 128 bytes) or a leaf of n bytes for an Armature: from its node store, or through the device cache, after which the store
of the owner of its subtree holds it (R439, R458). `sub`: the subtree of a leaf; that of a node is its SELF. -/
def State.nodeRead (s : State) (a c va n sub : Nat) (eff : Option Nat) : State × Except XErr (List Byte) :=
  match s.nodeRuns a c va n with
  | (s, .error e) => (s, .error e)
  | (s, .ok runs) =>
    let p := (s.ctx c).part
    let pa := (runs.headD (0, 0)).1
    match (s.armOf a).store.find? fun x => x.part == p && x.pa == pa && x.size == ceilDiv n 64 with
    | some x =>
      let s := if x.spec then s.armCount a 10 1 else s
      let s := s.updArm a fun y => { y with store := y.store.map fun z => if z == x then { z with spec := false } else z }
      (s.armCount a 8 1, .ok (runs.flatMap fun r => s.mem.peek p r.1 r.2))
    | none =>
      match (s.armCount a 7 1).readRuns c p eff runs with
      | (s, .error e) => (s, .error e)
      | (s, .ok b) =>
        let sub := if n == 128 then nodeSelf b else sub
        if s.owner p sub != some a then (s, .ok b)
        else
          let line : StoreLine := { part := p, sub := sub, pa := pa, size := ceilDiv n 64, spec := false }
          (s.updArm a fun y => { y with store := storePut y.store line (s.storeShare a p) }, .ok b)

/-! ## Nodes and leaves (R426–R438) -/

/-- A child of a node: its kind, triangle count, VA, subtree and box as six FP32 codes (lo x y z, hi x y z). -/
structure Kid where
  idx : Nat
  kind : Nat
  tris : Nat
  va : Nat
  sub : Nat
  box : List Nat

/-- A bound of a child's box on an axis, one rounding (R427). -/
def boxBound (up : Bool) (origin exp code : Nat) : Nat :=
  (FVal.plus (fv origin) (.fin false code ((exp : Int) - 127))).to32 (if up then .up else .down)

/-- The used children of a node (R426–R428). -/
def nodeKids (d : List Byte) : List Kid :=
  (List.range (field d 15 1 % 8)).map fun i =>
    let k := field d (52 + i) 1
    let bound (up : Bool) (a : Nat) : Nat :=
      boxBound up (field d (4 * a) 4) (field d (12 + a) 1) (field d (16 + 6 * i + a + 3 * b2n up) 1)
    { idx := i, kind := k % 8, tris := bits k 3 3 + 1, va := field d (64 + 8 * i) 8, sub := field d (112 + 2 * i) 2 % 4096
      box := (List.range 3).map (bound false) ++ (List.range 3).map (bound true) }

/-- A node that breaks R426–R430: reserved bits and values, COUNT, boxes, alignment, unused children, subtree IDs. -/
def nodeBad (d : List Byte) : Bool :=
  let count := field d 15 1
  let kid (i : Nat) : Bool :=
    let k := field d (52 + i) 1
    let kind := k % 8
    let va := field d (64 + 8 * i) 8
    let sub := field d (112 + 2 * i) 2
    kind ≥ 5 || bits k 6 2 != 0 || (kind != 1 && bits k 3 3 != 0) || va % (if kind == 0 then 128 else 64) != 0 || sub ≥ 4096
      || (kind != 0 && sub != nodeSelf d)
      || (List.range 3).any fun a => field d (16 + 6 * i + a) 1 > field d (19 + 6 * i + a) 1
  let unused (i : Nat) : Bool :=
    field d (16 + 6 * i) 6 != 0 || field d (52 + i) 1 != 0 || field d (64 + 8 * i) 8 != 0 || field d (112 + 2 * i) 2 != 0
  (List.range 3).any (fun a => field d (12 + a) 1 == 0 || field d (12 + a) 1 == 255) || count < 1 || count > 6
    || field d 58 2 ≥ 4096 || field d 60 4 != 0 || field d 124 4 != 0
    || (List.range 6).any fun i => if i < count then kid i else unused i

/-- Bytes of a leaf of a kind (R432, R434, R436, R437). -/
def leafBytes (kind tris : Nat) : Nat := if kind == 1 then 16 + 36 * tris else 64

/-- A field is finite and above 0. -/
def positive (v : Nat) : Bool := match fv v with
  | .fin n m _ => !n && m != 0
  | _ => false

/-- A leaf that breaks R432–R437, subtree validity apart. -/
def leafBad (kind : Nat) (d : List Byte) : Bool :=
  match kind with
  | 1 => !zeroBytes d 6 10
  | 2 => field d 48 8 % 128 != 0 || field d 61 2 ≥ 4096 || field d 63 1 != 0
  | 3 => !positive (field d 12 4) || field d 16 8 % 64 != 0 || !zeroBytes d 30 2 || !positive (field d 32 4)
      || !(fv (field d 32 4)).le (.fin false 1 (-1)) || !positive (field d 36 4) || !(fv (field d 36 4)).le (.fin false 1 0)
      || !zeroBytes d 40 24
  | _ => !zeroBytes d 6 58

/-- The fault of a traversal; the ray's context is killed (R440). -/
def State.rayFault (s : State) (a : Nat) (r : Ray) (code va detail : Nat) : State :=
  s.raise { code := code, ctx := r.ctx, unit := 4, unitId := a, addr := va, detail := detail, valid := 0x01, tag := r.d.tag }

def State.rayErr (s : State) (a : Nat) (r : Ray) (va : Nat) (e : XErr) : State :=
  s.rayFault a r e.code va (match e with | .poison st => st | _ => 0)

/-! ## Candidates (R465, R466) -/

/-- a comes before b among candidates: T, INSTANCE, PRIM, then status (R465). -/
def Cand.before (a b : Cand) : Bool :=
  (fv a.t).lt (fv b.t)
    || (!(fv b.t).lt (fv a.t) && [a.inst, a.prim, a.status] < [b.inst, b.prim, b.status])

/-- The T up to which a ray still looks. -/
def tcurOf (r : Ray) (best : Option Cand) : Nat := (best.map (·.t)).getD r.tmax

/-- A candidate within [tmin, tcur] replaces the best one if it comes before it; in any-hit mode the first stays (R465, R466). -/
def Visit.offer (v : Visit) (c : Cand) : Visit :=
  if !(fv v.ray.tmin).le (fv c.t) || !(fv c.t).le (fv (tcurOf v.ray v.best)) then v
  else
    match v.best with
    | none => { v with best := some c }
    | some b => if !v.ray.d.anyHit && c.before b then { v with best := some c } else v

/-- A ray in its world or in a child tree. -/
def Ray.space (r : Ray) (inst : Option InstRef) : RaySp :=
  let w : RaySp := { o := r.org.map fv, d := r.dir.map fv }
  match inst with
  | none => w
  | some i => transformRay i.xform w

def instId (i : Option InstRef) : Nat := (i.map (·.id)).getD 0xFFFFFFFF

/-- A child box against a visit's ray. -/
def Visit.box (v : Visit) (inst : Option InstRef) (b : List Nat) : Option (Nat × Nat) :=
  boxTest (v.ray.space inst) ((b.take 3).map fv) ((b.drop 3).map fv) v.ray.tmin (tcurOf v.ray v.best) v.ray.tmax

/-- Sort entries by distance, ties to the lower child index, which is their order (R462). -/
def byDist (l : List PEntry) : List PEntry :=
  l.foldl (fun out x =>
    (out.takeWhile fun y => (fv y.dist).le (fv x.dist)) ++ [x] ++ out.dropWhile fun y => (fv y.dist).le (fv x.dist)) []

/-! ## The steps of a visit (R461–R464) -/

/-- Whether an Armature holds an entry: the image, the subtree, or a root whose owner is not yet known (R460–R462). -/
def State.holds (s : State) (a : Nat) (r : Ray) (e : PEntry) : Bool :=
  match e.image with
  | some (i, _) => (s.image? i).any (·.homes.contains a)
  | none => e.sub == 4096 || s.owner (s.ctx r.ctx).part e.sub == some a

/-- Where the home sends an entry: the subtree's owner, or the first home of the image (R461). -/
def State.destOf (s : State) (r : Ray) (e : PEntry) : Option Nat :=
  match e.image with
  | some (i, _) => (s.image? i).bind (·.homes.head?)
  | none => s.owner (s.ctx r.ctx).part e.sub

/-- Whether an Armature holds an entry for a visit: as above, or it is of a subtree that the Armature owned when the visit began there, which
runs to completion (R457). -/
def State.visitHolds (s : State) (a : Nat) (v : Visit) (e : PEntry) : Bool :=
  s.holds a v.ray e || (e.image.isNone && v.keep.contains e.sub)

/-- The decoded image box of a child in its entry's grid box (R445). Where a bound of the grid box is infinite, so that its step is, the sum
of R445 has no value for some codes: the box then decodes to one that encloses everything on that side, as R446 asks. -/
def gridBox (grid codes : List Nat) : List Nat :=
  let step (a : Nat) : FVal :=
    fv ((FVal.div (FVal.sub (fv (grid.getD (3 + a) 0)) (fv (grid.getD a 0))) (.fin false 255 0)).to32 .up)
  let at_ (up : Bool) (a q : Nat) : Nat :=
    let l := fv (grid.getD a 0)
    match if q == 0 then l else FVal.plus l (FVal.mul (.fin false q 0) (step a)) with
    | .nan => fp32.inf (!up)
    | x => x.to32 (if up then .up else .down)
  ((List.range 3).map fun a => at_ false a (codes.getD a 0)) ++ (List.range 3).map fun a => at_ true a (codes.getD (3 + a) 0)

/-- Visit an entry of an image: test the masked children, push the entries that pass and one frontier entry (R462, R463). -/
def Visit.imageStep (v : Visit) (img : Nat) (x : ImgEntry) (e : PEntry) : Visit × Nat × Bool :=
  let kids := x.kids.filter fun k => bitAt e.mask k.idx
  let pass := kids.filterMap fun k => (v.box e.inst (gridBox x.grid k.codes)).map fun d => (k, d.1)
  let inner := pass.filterMap fun (k, d) => k.entry.map fun n =>
    ({ va := 0, sub := 4096, image := some (img, n), dist := d, inst := e.inst, depth := e.depth + 1 } : PEntry)
  let front := pass.filter fun (k, _) => k.entry.isNone
  let fe := match front with
    | [] => []
    | (_, d) :: r =>
      [({ va := x.va, sub := x.sub, image := none, dist := r.foldl (fun m y => minCode m y.2) d
          mask := front.foldl (fun m y => m + 2 ^ y.1.idx) 0, inst := e.inst, depth := e.depth, front := true } : PEntry)]
  ({ v with stack := byDist (fe ++ inner) ++ v.stack, found := v.found || !front.isEmpty }, kids.length, !front.isEmpty)

/-- A visit that has found its hit in any-hit mode looks no further (R466). -/
def Visit.isOver (v : Visit) : Bool := v.ray.d.anyHit && v.best.isSome && v.neural.isNone

/-- Walk the images that an Armature holds until a node or leaf must be read, a sample is awaited, or the visit is over; at most
`fuel` entries. Answers whether it is over (R462). -/
def State.walkImages (s : State) (a : Nat) : Nat → Visit → State × Visit × Bool
  | 0, v => (s, v, true)
  | fuel + 1, v =>
    if v.neural.isSome then (s, v, false)
    else if v.isOver then (s, { v with stack := [], leaves := [] }, true)
    else if !v.leaves.isEmpty then (s, v, false)
    else
      match v.stack with
      | [] => (s, v, true)
      | e :: rest =>
        if !s.visitHolds a v e then (s, v, true)
        else
          match e.image with
          | none => (s, v, false)
          | some (i, n) =>
            match (s.image? i).bind (·.entries[n]?) with
            | none => s.walkImages a fuel { v with stack := rest }
            | some x =>
              let (v, tests, front) := { v with stack := rest }.imageStep i x e
              ((s.armTests a 1 v.ray.ctx tests).armCount a 12 (b2n front)).walkImages a fuel v

def State.visit? (s : State) (a ray : Nat) : Option Visit := (s.armOf a).visits.find? (·.ray.id == ray)

/-- Images that are in no slot and that no ray walks lose their SRAM (R448). -/
def State.gcImages (s : State) : State :=
  let entries : List PEntry := s.arm.arms.flatMap fun a =>
    a.homes.flatMap (·.stack) ++ (a.waiting ++ a.visits).flatMap (·.stack)
  let flying := (s.arm.visitFlight ++ s.arm.returns).flatMap (·.visit.stack)
  let used (i : Image_) : Bool := (entries ++ flying).any fun e => e.image.any (·.1 == i.id)
  s.updArms fun e => { e with images := e.images.filter fun i => i.live || used i }

/-- A visit that is over leaves its slot, and its candidate and local stack return to the home (R462); else it stays. -/
def State.settleVisit (s : State) (a : Nat) (v : Visit) : State :=
  match s.walkImages a 16384 v with
  | (s, v, true) =>
    ((s.updArm a fun x => { x with visits := x.visits.filter (·.ray.id != v.ray.id) }).updArms fun e =>
      { e with returns := e.returns ++ [⟨v.home, v⟩] }).gcImages
  | (s, v, false) =>
    (s.updArm a fun x => { x with visits := x.visits.map fun y => if y.ray.id == v.ray.id then v else y }).gcImages

/-- An entry whose node is read to learn its subtree, and which is no visit yet (R460). -/
def PEntry.unknown (e : PEntry) : Bool := e.image.isNone && e.sub == 4096

/-- A visit takes a visit slot and begins. -/
def State.startVisit (s : State) (a : Nat) (v : Visit) : State :=
  ((s.updArm a fun x => { x with visits := x.visits ++ [v] }).armCount a 4 (b2n !(v.stack.head?.any PEntry.unknown))).settleVisit a v

/-- A visit for a subtree or image that the Armature no longer holds goes on to its present holder (R457). -/
def State.forward (s : State) (a : Nat) (v : Visit) : State :=
  let s := s.armCount a 6 1
  match v.stack.head?.bind (s.destOf v.ray) with
  | some o => s.updArms fun e => { e with visitFlight := e.visitFlight ++ [⟨o, v⟩] }
  | none => s.updArms fun e => { e with returns := e.returns ++ [⟨v.home, v⟩] }

/-- Visits that wait take free visit slots by deadline (R425, R457, R468). -/
def State.fillVisits (s : State) (a : Nat) : Nat → State
  | 0 => s
  | fuel + 1 =>
    let x := s.armOf a
    if x.visits.length ≥ 256 then s
    else
      match earliest (fun (v : Visit) => ⟨v.ray.deadline, v.arr, v.ray.ctx⟩) x.waiting with
      | none => s
      | some v =>
        let s := s.updArm a fun x => { x with waiting := x.waiting.filter (·.ray.id != v.ray.id) }
        let s := if v.stack.head?.any (s.holds a v.ray) then s.startVisit a v else s.forward a v
        s.fillVisits a fuel

/-- A visit joins an Armature's queue (R425). -/
def State.queueVisit (s : State) (a : Nat) (v : Visit) : State :=
  s.updArm a fun x => { x with waiting := x.waiting ++ [{ v with arr := s.now }] }

/-- What can start of an Armature's queue starts (R425, R468). -/
def State.startWaiting (s : State) (a : Nat) : State := s.fillVisits a ((s.armOf a).waiting.length)

/-! ## Homes (R459–R461, R467) -/

/-- A ray ends: its hit record leaves for the sorter and its home slot is free (R463, R467). -/
def State.endRay (s : State) (a : Nat) (h : HomeRay) : State :=
  let hit : Hit := match h.best with
    | some c => ⟨h.ray, c⟩
    | none => h.ray.missRec 0
  let s := (s.updArm a fun x => { x with homes := x.homes.filter (·.ray.id != h.ray.id) }).armCount a 3 1
  let s := if h.best.isNone && !h.found then s.armCount a 11 1 else s
  (s.updArms fun e => { e with hits := e.hits ++ [hit] }).gcImages

/-- The entry of smallest distance and the other entries; the top one on a tie (R461). -/
def popNearest : List PEntry → Option (PEntry × List PEntry)
  | [] => none
  | e :: r =>
    match popNearest r with
    | none => some (e, [])
    | some (b, rest) => if (fv b.dist).lt (fv e.dist) then some (b, e :: rest) else some (e, r)

/-- Entries whose distance exceeds tcur are discarded when they are popped (R461). -/
def dropFar (tcur : Nat) : Nat → List PEntry → Option (PEntry × List PEntry)
  | 0, _ => none
  | n + 1, l =>
    match popNearest l with
    | none => none
    | some (e, r) => if (fv tcur).lt (fv e.dist) then dropFar tcur n r else some (e, r)

/-- The home goes on with a ray: its nearest entry joins the Armature's queue or is sent away, or the ray ends (R461, R466, R467). The
subtree of a frontier that is no longer valid is that of the node as it is now, which its home learns as that of a root (R450). -/
def State.homeNext (s : State) (a ray : Nat) : State :=
  match (s.armOf a).homes.find? (·.ray.id == ray) with
  | none => s
  | some h =>
    if h.ray.d.anyHit && h.best.isSome then s.endRay a h
    else
      match dropFar (tcurOf h.ray h.best) h.stack.length h.stack with
      | none => s.endRay a h
      | some (e, rest) =>
        let e := if e.front && (s.destOf h.ray e).isNone then { e with sub := 4096 } else e
        let v : Visit := { ray := h.ray, home := a, best := h.best, stack := [e], found := h.found }
        let s := s.updArm a fun x => { x with homes := x.homes.map fun y =>
          if y.ray.id == ray then { y with stack := rest, out_ := true } else y }
        if s.holds a h.ray e then s.queueVisit a v
        else
          match s.destOf h.ray e with
          | some o => (s.armCount a 5 1).updArms fun e => { e with visitFlight := e.visitFlight ++ [⟨o, v⟩] }
          | none => s.rayFault a h.ray 0x0C e.va 0

/-- A new ray's first entry: the image root, or the root node of TREE (R460). -/
def firstEntry (r : Ray) (image : Option Nat) : PEntry :=
  { va := r.d.tree, sub := 4096, image := image.map fun i => (i, 0), dist := r.tmin, inst := none, depth := 1 }

/-- RAY_PACKET_ARRIVAL: the n-th packet under way reaches its home: its rays take home slots and begin their walk by deadline, each on the image
that its tree has now (R425, R448, R459, R460). -/
def execRayPacketArrival (n : Nat) (s : State) : Out :=
  .next (if !s.clocked then s else
    match s.arm.rayFlight[n]? with
    | none => s
    | some f =>
      let s := s.updArms fun e => { e with rayFlight := e.rayFlight.eraseIdx n }
      let rays := f.rays.filter fun r => s.live r.ctx
      let s := s.updArm f.arm fun x => { x with homes := x.homes ++ rays.map fun r =>
        let i := (s.imageFor r.ctx r.d.tree).map (·.id)
        { ray := r, stack := [firstEntry r i], found := i.isNone } }
      (s.each rays fun r s => s.homeNext f.arm r.id).startWaiting f.arm)

/-- VISIT_ARRIVAL: the n-th visit under way reaches its Armature: it queues for a visit slot there, or is forwarded when its subtree
has moved (R457, R461, R462). -/
def execVisitArrival (n : Nat) (s : State) : Out :=
  .next (if !s.clocked then s else
    match s.arm.visitFlight[n]? with
    | none => s
    | some f =>
      let s := s.updArms fun e => { e with visitFlight := e.visitFlight.eraseIdx n }
      if !s.live f.visit.ray.ctx then s
      else if f.visit.stack.head?.any (s.holds f.arm f.visit.ray) then (s.queueVisit f.arm f.visit).startWaiting f.arm
      else s.forward f.arm f.visit)

/-- VISIT_RETURN: the n-th return reaches the home, whose best candidate and pending stack take it in; the ray goes on or ends
(R73, R462, R465–R467). -/
def execVisitReturn (n : Nat) (s : State) : Out :=
  .next (if !s.clocked then s else
    match s.arm.returns[n]? with
    | none => s
    | some f =>
      let s := s.updArms fun e => { e with returns := e.returns.eraseIdx n }
      let v := f.visit
      if !s.live v.ray.ctx then s.updCm fun m => { m with lateArrivals := m.lateArrivals + 1 }
      else
        match (s.armOf f.arm).homes.find? (·.ray.id == v.ray.id) with
        | none => s
        | some h =>
          let best := match h.best, v.best with
            | some a, some b => if b.before a then some b else some a
            | some a, none => some a
            | none, b => b
          let s := s.updArm f.arm fun x => { x with homes := x.homes.map fun y =>
            if y.ray.id == v.ray.id then { y with best := best, stack := v.stack ++ h.stack, out_ := false, found := v.found } else y }
          (s.homeNext f.arm v.ray.id).startWaiting f.arm)

/-! ## Node and leaf reads (R438–R440, R462, R479) -/

/-- A visit ends without a return: its ray faulted (R440). -/
def State.dropVisit (s : State) (a ray : Nat) : State :=
  s.updArm a fun x => { x with visits := x.visits.filter (·.ray.id != ray) }

/-- Visit a full-precision node that has been read: test the masked children; leaves that pass are tested next, nodes are pushed
(R462), and of these the two nearest of its subtree may be fetched ahead of need (R480). -/
def Visit.nodeStep (v : Visit) (d : List Byte) (e : PEntry) : Visit × Nat :=
  let kids := (nodeKids d).filter fun k => bitAt e.mask k.idx
  let pass := kids.filterMap fun k => (v.box e.inst k.box).map fun t => (k, t)
  let nodes := (pass.filter fun (k, _) => k.kind == 0).map fun (k, t) =>
    ({ va := k.va, sub := k.sub, image := none, dist := t.1, inst := e.inst, depth := e.depth + 1 } : PEntry)
  let leaves := (pass.filter fun (k, _) => k.kind != 0).map fun (k, t) =>
    ({ va := k.va, kind := k.kind, count := k.tris, dist := t.1, exit_ := t.2, inst := e.inst, depth := e.depth, sub := k.sub } : LeafTask)
  ({ v with stack := byDist nodes ++ v.stack, leaves := leaves, found := true, sub := nodeSelf d
            spec := (((byDist nodes).filter (·.sub == nodeSelf d)).take 2).map (·.va) }, kids.length)

/-- A node at an entry breaks a rule when an Armature visits it (R430, R431, R435, R438). -/
def State.nodeFormatBad (s : State) (p : Nat) (d : List Byte) (e : PEntry) : Bool :=
  let valid (sub : Nat) : Bool := (s.owner p sub).isSome
  nodeBad d || !valid (nodeSelf d) || (e.sub != 4096 && !e.front && e.sub != nodeSelf d) || e.depth > 12
    || (nodeKids d).any fun k => (k.kind == 0 && !valid k.sub) || (k.kind == 2 && e.inst.isSome)

/-- The point of a sphere trace in leaf coordinates, rounded once (R473). -/
def neuralPoint (r : RaySp) (leaf : List Byte) (t : Nat) : List Nat :=
  (List.range 3).map fun i =>
    let p := FVal.plus (v3 r.o i) (FVal.mul (fv t) (v3 r.d i))
    (FVal.div (FVal.sub p (fv (field leaf (4 * i) 4))) (fv (field leaf 12 4))).to32 .nearest

/-- A point joins the batch that forms for its network (R474). -/
def State.addPoint (s : State) (a : Nat) (r : Ray) (va : Nat) (pts : List (List Nat)) : State :=
  let ws := pts.map fun p => (r.id, p.map (BitVec.ofNat 32))
  let solo := pts.length != 1
  s.updArm a fun x =>
    match x.forming.find? fun f => !solo && !f.solo && f.ctx == r.ctx && f.va == va && f.points.length < 32 with
    | some f => { x with forming := x.forming.map fun g => if g == f then { f with points := f.points ++ ws } else g }
    | none => { x with forming := x.forming ++ [{ ctx := r.ctx, va := va, since := x.cycle, solo := solo, points := ws, arr := s.now }] }

/-- The points of the normal of a network of width 1: the tetrahedral offsets with an even number of minus signs (R476). -/
def normalPoints (p : List Nat) (eps : Nat) : List (List Nat) :=
  let sg (n : Bool) : FVal := if n then (fv eps).neg else fv eps
  [[false, false, false], [false, true, true], [true, false, true], [true, true, false]].map fun ns =>
    (List.range 3).map fun i => (FVal.plus (fv (p.getD i 0)) (sg (ns.getD i false))).to32 .nearest

/-- The normal that four samples at those offsets give. -/
def normalOf (d : List Nat) : List FVal :=
  let v (i : Nat) : FVal := fv (d.getD i 0)
  let axis (a b c e : FVal) : FVal := FVal.plus (FVal.plus a b) (FVal.plus c e)
  [axis (v 0) (v 1) (v 2).neg (v 3).neg, axis (v 0) (v 1).neg (v 2) (v 3).neg, axis (v 0) (v 1).neg (v 2).neg (v 3)]

/-- A neural candidate (R475, R478). -/
def neuralCand (r : NeuralRun) (limit : Bool) : Cand :=
  { t := r.t, status := 2, prim := field r.leaf 24 4, inst := instId r.inst, material := field r.leaf 28 2, flags := 2 * b2n limit, u := 0, v := 0 }

/-- A sphere trace has a candidate: its normal comes from the last sample, or from one more batch (R476, R477). -/
def State.neuralHit (s : State) (a : Nat) (v : Visit) (r : NeuralRun) (limit : Bool) : State :=
  let c := neuralCand r limit
  let s := if limit then (s.armCount a 14 1).updArms fun e => { e with stepLimits := e.stepLimits + 1 } else s
  if r.last.length == 4 then
    let (u, w) := octahedral ((r.last.drop 1).map fv) (Config.nat s.freeCount)
    s.draw.settleVisit a ({ v with neural := none }.offer { c with u := u, v := w })
  else
    let v := { v with neural := some { r with hit := some c } }
    let p := neuralPoint (v.ray.space r.inst) r.leaf r.t
    (s.addPoint a v.ray (field r.leaf 16 8) (normalPoints p (field r.leaf 32 4))).settleVisit a v

/-- The loop of R473 up to the next sample: a sample is asked for, or the leaf yields no candidate, or the step limit is reached. -/
def State.neuralGo (s : State) (a : Nat) (v : Visit) (r : NeuralRun) : State :=
  if !(fv r.t).le (fv r.out_) then s.settleVisit a { v with neural := none }
  else if r.n == 32 then s.neuralHit a v r true
  else
    (s.addPoint a v.ray (field r.leaf 16 8) [neuralPoint (v.ray.space r.inst) r.leaf r.t]).settleVisit a
      { v with neural := some r }

/-- A sample's outputs advance a sphere trace (R473, R476). -/
def State.neuralStep (s : State) (a : Nat) (v : Visit) (r : NeuralRun) (outs : List (List Nat)) : State :=
  match r.hit with
  | some c =>
    let (u, w) := octahedral (normalOf (outs.map fun o => o.getD 0 0)) (Config.nat s.freeCount)
    s.draw.settleVisit a ({ v with neural := none }.offer { c with u := u, v := w })
  | none =>
    let o := outs.getD 0 []
    let d := fv (o.getD 0 0)
    let r := { r with n := r.n + 1, last := o }
    if d.le (fv (field r.leaf 32 4)) then s.neuralHit a v r false
    else
      let dir := (v.ray.space r.inst).d
      let step := FVal.div (FVal.mul (FVal.mul (fv (field r.leaf 36 4)) d) (fv (field r.leaf 12 4))) (dot dir dir).sqrt
      s.neuralGo a v { r with t := (FVal.plus (fv r.t) step).to32 .nearest }

/-- Triangles of a leaf in order; those that are culled are not tested (R432, R470–R472, R484). -/
def State.triLeaf (s : State) (a : Nat) (d : List Byte) (l : LeafTask) : Nat → Nat → Visit → State × Visit
  | 0, _, v => (s, v)
  | n + 1, i, v =>
    let vs := (List.range 3).map fun j => (List.range 3).map fun k => fv (field d (16 + 36 * i + 12 * j + 4 * k) 4)
    let f (j : Nat) : Nat := Config.nat (s.freeCount + j)
    let v := match triTest (v.ray.space l.inst) vs v.ray.d.cull (f 0) (f 1) (f 2) with
      | none => v
      | some h => v.offer { t := h.t, status := 1, prim := (field d 0 4 + i) % 2 ^ 32, inst := instId l.inst, material := field d 4 2
                            flags := b2n h.back, u := h.u, v := h.v }
    let s := s.armTests a 2 v.ray.ctx (b2n !(v.ray.d.cull && triBack (v.ray.space l.inst) vs))
    ({ s with freeCount := s.freeCount + 3 }).triLeaf a d l n (i + 1) v

/-- A leaf that has been read is tested (R432–R437, R462, R464, R473, R479). -/
def State.leafStep (s : State) (a : Nat) (v : Visit) (l : LeafTask) (d : List Byte) : State :=
  match l.kind with
  | 1 =>
    let (s, v) := s.triLeaf a d l l.count 0 v
    s.settleVisit a v
  | 2 =>
    if Nat.land (field d 60 1) v.ray.d.mask == 0 then s.settleVisit a v
    else
      let root := field d 48 8
      let e : PEntry :=
        { va := root, sub := field d 61 2, image := (s.imageFor v.ray.ctx root).map fun i => (i.id, 0), dist := l.dist
          inst := some { id := field d 56 4, xform := (List.range 12).map fun i => field d (4 * i) 4 }, depth := l.depth + 1 }
      s.settleVisit a { v with stack := e :: v.stack }
  | 3 =>
    if v.ray.d.noNeural then s.settleVisit a v
    else
      let h := fv (field d 12 4)
      let c := (List.range 3).map fun i => fv (field d (4 * i) 4)
      match boxTest (v.ray.space l.inst) (c.map fun x => FVal.sub x h) (c.map fun x => FVal.plus x h) v.ray.tmin
          (tcurOf v.ray v.best) v.ray.tmax with
      | none => s.settleVisit a v
      | some (t0, t1) =>
        s.neuralGo a v { leaf := d, inst := l.inst, t := t0, out_ := minCode t1 (tcurOf v.ray v.best), n := 0 }
  | _ =>
    let c : Cand := { t := l.dist, status := 3, prim := field d 0 4, inst := instId l.inst, material := field d 4 2, flags := 0
                      u := l.exit_, v := 0 }
    (s.armCount a 15 1).settleVisit a (v.offer c)

/-- NODE_FETCH: the next demand read of a ray's visit returns: a leaf that passed its box test, the node on top of its stack, or the
root whose owner is sought; or it faults, and the ray ends without a hit (R438–R440, R460, R462). -/
def execNodeFetch (arm ray : Nat) (s : State) : Out :=
  .next (if !s.clocked then s else
    match s.visit? arm ray with
    | none => s
    | some v =>
      if !s.live v.ray.ctx || v.neural.isSome then s else
      let p := (s.ctx v.ray.ctx).part
      let fail (s : State) (code va detail : Nat) : State :=
        let s := (s.rayFault arm v.ray code va detail).dropVisit arm ray
        s.startWaiting arm
      let err (s : State) (va : Nat) (e : XErr) : State := fail s e.code va (match e with | .poison st => st | _ => 0)
      let done (s : State) : State := s.startWaiting arm
      match v.leaves, v.stack with
      | l :: rest, _ =>
        match s.nodeRead arm v.ray.ctx l.va (leafBytes l.kind l.count) l.sub v.ray.deadline with
        | (s, .error e) => err s l.va e
        | (s, .ok d) =>
          if leafBad l.kind d || (l.kind == 2 && (s.owner p (field d 61 2)).isNone) then fail s 0x0C l.va 0
          else done (s.leafStep arm { v with leaves := rest } l d)
      | [], e :: rest =>
        match s.nodeRead arm v.ray.ctx e.va 128 e.sub v.ray.deadline with
        | (s, .error x) => err s e.va x
        | (s, .ok d) =>
          let sub := nodeSelf d
          if (e.sub == 4096 || (e.front && e.sub != sub)) && (s.owner p sub).isSome && s.owner p sub != some arm && !v.keep.contains sub then
            done (s.settleVisit arm { v with stack := { e with sub := sub, front := false } :: rest })
          else if s.nodeFormatBad p d e then fail s 0x0C e.va 0
          else
            let (v, n) := { v with stack := rest }.nodeStep d e
            done (((s.armTests arm 1 v.ray.ctx n).armCount arm 4 (b2n e.unknown)).settleVisit arm v)
      | [], [] => done (s.settleVisit arm v))

/-- SPECULATIVE_NODE_FETCH: one of the two nearest children, of its subtree, of the node that a ray's visit has just visited is fetched ahead
of need, the nearer first; it is dropped without effect when its translation fails, lacks READ or is not DEVICE (R480–R483). -/
def execSpeculativeNodeFetch (arm ray va : Nat) (s : State) : Out :=
  .next (if !s.clocked then s else
    match s.visit? arm ray with
    | none => s
    | some v =>
      if !s.live v.ray.ctx || !v.spec.contains va then s
      else
        match (s.resolve (.armature arm) v.ray.ctx va 128 .load).2 with
        | .error _ => s
        | .ok (l, pa) =>
          let p := (s.ctx v.ray.ctx).part
          if l.typ != 0 || (s.armOf arm).store.any (fun x => x.part == p && x.pa == pa) then s
          else
            let s := (s.updArm arm fun x => { x with visits := x.visits.map fun y =>
              if y.ray.id == ray then { y with spec := (y.spec.dropWhile (· != va)).drop 1 } else y }).pcNow 0 p (pa / 128) none v.ray.ctx
            let (m, _, bad) := s.mem.read p pa 128
            let s := ({ s with mem := m }).armCount arm 9 1
            if bad || s.owner p v.sub != some arm then s
            else
              let line : StoreLine := { part := p, sub := v.sub, pa := pa, size := 2, spec := true }
              s.updArm arm fun y => { y with store := storePut y.store line (s.storeShare arm p) })

/-! ## Neural batches (R364, R473–R476) -/

/-- The tile an Armature sends a batch to: of its three the one with the fewest queued, then x = 3k + 1, then lower x (R364). -/
def State.batchTile (s : State) (a : Nat) : Nat :=
  let t0 := a / 4 * 12 + a % 4 * 3
  let n (t : Nat) : Nat := (s.tile t).chs.batches.length
  (oldest (fun (x : Nat × Nat) => (n x.1, x.2)) [(t0 + 1, 0), (t0, 1), (t0 + 2, 2)]).map (·.1) |>.getD t0

/-- Send a batch to a tile's queue. -/
def State.sendBatch (s : State) (a : Nat) (b : Batch) : State :=
  { s with bus := { s.bus with flight := s.bus.flight ++ [⟨s.batchTile a, b⟩] } }

/-- The deadline of a batch that forms: the earliest of its rays (R425). -/
def State.formingDl (s : State) (a : Nat) (f : Forming) : Option Nat :=
  f.points.foldl (fun d x =>
    let e := (s.visit? a x.1).bind (·.ray.deadline)
    if dlLt e d then e else d) none

/-- A batch is to be sent: it has 32 points, or 32 Armature cycles have passed since its first point, or it holds the points of a normal
(R423, R474, R476). -/
def Arm.due (x : Arm) (f : Forming) : Bool := f.solo || f.points.length ≥ 32 || x.cycle ≥ f.since + 32

/-- NEURAL_BATCH_SEND: of the batches that are due and those that a full queue refused, the Armature sends the one of earliest deadline
(R364–R366, R425, R474, R476). -/
def execNeuralBatchSend (arm : Nat) (s : State) : Out :=
  .next (if !s.clocked then s else
    let x := s.armOf arm
    let due := x.forming.filter fun f => x.due f && s.live f.ctx
    let held := s.bus.refused.filter (·.armature == arm)
    let rank (f : Forming) : Rank := ⟨s.formingDl arm f, f.arr, f.ctx⟩
    let send (f : Forming) : State :=
      let (req, s) := s.fresh
      let b : Batch :=
        { armature := arm, req := req, ctx := f.ctx, deadline := s.formingDl arm f, va := f.va, points := f.points.map (·.2), arr := f.arr }
      let s := s.updArm arm fun x => { x with forming := x.forming.erase f, sent := x.sent ++ [⟨req, f.points.map (·.1)⟩] }
      (s.armCount arm 13 f.points.length).sendBatch arm b
    let again (b : Batch) : State := { s with bus := { s.bus with refused := s.bus.refused.erase b } }.sendBatch arm b
    match earliest rank due, earliest Batch.rank held with
    | none, none => s
    | some f, none => send f
    | none, some b => again b
    | some f, some b => if (rank f).lt b.rank then send f else again b)

/-- NEURAL_REPLY: the n-th reply reaches its Armature and advances each ray's sphere trace (R473, R476). -/
def execNeuralReply (n : Nat) (s : State) : Out :=
  .next (if !s.clocked then s else
    match s.bus.replies[n]? with
    | none => s
    | some r =>
      let s := { s with bus := { s.bus with replies := s.bus.replies.eraseIdx n } }
      match (s.armOf r.armature).sent.find? (·.req == r.req) with
      | none => s
      | some b =>
        let s := s.updArm r.armature fun x => { x with sent := x.sent.erase b }
        let outs (ray : Nat) : List (List Nat) :=
          ((b.rays.zip r.outs).filter (·.1 == ray)).map fun x => x.2.map (·.toNat)
        let s := s.each b.rays.eraseDups fun ray s =>
          match s.visit? r.armature ray with
          | some v => match v.neural with
            | some nr => s.neuralStep r.armature v nr (outs ray)
            | none => s
          | none => s
        s.startWaiting r.armature)

end Sys2Proof.Machine
end

