-- ==== Sys2Proof/Machine/Maquette.lean ====
section
/-! DEFINITION. Maquette images: builds and releases (R441–R451, R486–R493); the residency table and subtree placement (R452–R457). -/
namespace Sys2Proof.Machine

/-! ## Commands (R442, R489–R493) -/

def mqSlot (param : Nat) : Nat := bits param 0 4
def mqCtx (param : Nat) : Nat := bits param 4 6

/-- Parameters that a command refuses (R443, R489, R490, R493). -/
def mqBad (root param : Nat) : Bool :=
  let depth := bits param 10 4
  let budget := bits param 14 14
  let home := bits param 28 6
  let reps := bits param 34 3
  bits root 0 7 != 0 || bits root 52 12 != 0 || bits param 37 27 != 0 || depth < 1 || depth > 8 || budget < 1 || budget > 12287
    || (home ≥ 48 && home != 63) || reps < 1 || reps > 4

/-- The result of a command, also of one that is dropped: kept with the slot the command names (R492). DESIGN CHOICE (log 149): when the build
that was in progress ends, RESULT and SLOT are that build's. -/
def State.mqResult (s : State) (p r : Nat) : State :=
  s.updArmPart p fun x => { x with result := r, slot := mqSlot x.mqParam }

/-- The result with which a command is refused (R449, R493): BUSY, BAD_PARAM or CONTEXT_STATE, in that order. -/
def State.mqRefused (s : State) (p : Nat) : Option Nat :=
  let x := s.armPart p
  if x.build.isSome then some 5
  else if mqBad x.mqRoot x.mqParam then some 1
  else if (s.ctx (mqCtx x.mqParam)).part != p || !s.live (mqCtx x.mqParam) then some 6
  else none

/-- BUILD written to ARM_MQ_CMD of a partition (R442, R449, R493). -/
def State.mqBuild (s : State) (p : Nat) : State :=
  let x := s.armPart p
  match s.mqRefused p with
  | some r => s.mqResult p r
  | none =>
    let b : MqBuild :=
      { ctx := mqCtx x.mqParam, root := x.mqRoot, slot := mqSlot x.mqParam, depth := bits x.mqParam 10 4, budget := bits x.mqParam 14 14
        home := bits x.mqParam 28 6, replicas := bits x.mqParam 34 3 }
    (s.mqResult p 0).updArmPart p fun x => { x with build := some b }

/-- The images that meet a condition leave their slots; each is freed when no ray walks it (R448). -/
def State.releaseImages (s : State) (f : Image_ → Bool) : State :=
  (s.updArms fun e => { e with images := e.images.map fun i => if f i then { i with live := false } else i }).gcImages

/-- RELEASE written to ARM_MQ_CMD of a partition, with the checks that R493 gives every command (R448, R491, R493). -/
def State.mqRelease (s : State) (p : Nat) : State :=
  let x := s.armPart p
  match s.mqRefused p with
  | some r => s.mqResult p r
  | none => (s.releaseImages fun i => i.part == p && i.slot == mqSlot x.mqParam).mqResult p 0

/-- ARM_MQ_CMD of a partition is written (R491, R493). -/
def State.mqCmd (s : State) (p v : Nat) : State :=
  if bits v 0 2 == 0 || bits v 0 2 == 3 then s.mqResult p (if (s.armPart p).build.isSome then 5 else 1)
  else if bits v 0 2 == 1 then s.mqBuild p
  else s.mqRelease p

/-- MAQUETTE_BUILD: the PF writes BUILD (R442, R449, R491, R493). -/
def execMaquetteBuild (fn p : Nat) (val : DWord) (s : State) : Out :=
  .next (if !s.clocked || fn != 0 || p ≥ 32 || bits val.toNat 0 2 != 1 then s else (s.fullWrite 0).mqCmd p val.toNat)

/-- MAQUETTE_RELEASE: the PF writes RELEASE (R448, R491). -/
def execMaquetteRelease (fn p : Nat) (val : DWord) (s : State) : Out :=
  .next (if !s.clocked || fn != 0 || p ≥ 32 || bits val.toNat 0 2 != 2 then s else (s.fullWrite 0).mqCmd p val.toNat)

/-! ## The build (R442–R447) -/

/-- Free SRAM of an Armature in entries. -/
def State.sramFree (s : State) (a : Nat) : Nat := 12288 - s.imageEntries a

/-- The Armature with the most free SRAM that does not yet hold the image; the lower number on a tie (R443). -/
def State.mostFree (s : State) (taken : List Nat) : Option Nat :=
  ((List.range 48).filter fun a => !taken.contains a).foldl (fun b a =>
    match b with
    | some x => if s.sramFree a > s.sramFree x then some a else some x
    | none => some a) none

/-- The image homes of a build; none: not every replica has room (R443). -/
def State.imageHomes (s : State) (need home : Nat) : Nat → List Nat → Option (List Nat)
  | 0, taken => some taken
  | n + 1, taken =>
    match (if taken.isEmpty && home != 63 then some home else s.mostFree taken) with
    | none => none
    | some a => if s.sramFree a < need then none else s.imageHomes need home n (taken ++ [a])

/-- A demand read of a node for a build: no fault is raised (R442, R447). -/
def State.buildRead (s : State) (a c va : Nat) : State × Option (List Byte) :=
  match s.readDevice (.armature a) c va 128 none with
  | (s, .error _) => (s, none)
  | (s, .ok d) => (s.armCount a 7 1, some d)

/-- The code of a bound: as a lower code the largest whose lower decode is at most the bound, as an upper code the smallest whose
upper decode is at least it (R445). -/
def imgCode (grid : List Nat) (a : Nat) (up : Bool) (bound : Nat) : Nat :=
  let dec (q : Nat) : FVal := fv ((gridBox grid (List.replicate 6 q)).getD (a + 3 * b2n up) 0)
  if up then ((List.range 256).find? fun q => (fv bound).le (dec q)).getD 255
  else ((List.range 256).reverse.find? fun q => (dec q).le (fv bound)).getD 0

/-- The codes of a full-precision box in a grid box: lower x y z, upper x y z. -/
def imgCodes (grid box : List Nat) : List Nat :=
  (List.range 6).map fun i => imgCode grid (i % 3) (i ≥ 3) (box.getD i 0)

/-- The union of boxes per axis: the grid box of the root entry (R444). -/
def unionBox : List (List Nat) → List Nat
  | [] => List.replicate 6 0
  | b :: r => r.foldl (fun m x => (List.range 6).map fun i =>
      if i < 3 then minCode (m.getD i 0) (x.getD i 0) else maxCode (m.getD i 0) (x.getD i 0)) b

/-- An entry that has been given and is still to be read: VA, subtree, depth, grid box (none: the root). -/
structure BuildTask where
  va : Nat
  sub : Nat
  depth : Nat
  grid : Option (List Nat)

/-- The children of an entry: NODE children at most at depth DEPTH get entries in order while BUDGET lasts; the others are frontiers
(R442, R445). -/
def buildKids (grid : List Nat) (b : MqBuild) (depth : Nat) : List Kid → Nat → List ImgChild × List BuildTask
  | [], _ => ([], [])
  | k :: rest, given =>
    let codes := imgCodes grid k.box
    let gets := k.kind == 0 && depth < b.depth && given < b.budget
    let (ks, ts) := buildKids grid b depth rest (given + b2n gets)
    let t : BuildTask := { va := k.va, sub := k.sub, depth := depth + 1, grid := some (gridBox grid codes) }
    ({ idx := k.idx, codes := codes, entry := if gets then some given else none } :: ks, if gets then t :: ts else ts)

/-- Read the tree breadth first: the entries, or the RESULT that ends the build (R442, R447). -/
def State.buildTree (s : State) (a : Nat) (b : MqBuild) : Nat → List BuildTask → List ImgEntry → Nat → State × Except Nat (List ImgEntry)
  | 0, _, out, _ => (s, .ok out)
  | _, [], out, _ => (s, .ok out)
  | fuel + 1, t :: rest, out, given =>
    match s.buildRead a b.ctx t.va with
    | (s, none) => (s, .error 4)
    | (s, some d) =>
      if nodeBad d || (t.sub != 4096 && t.sub != nodeSelf d) || t.depth > 12 then (s, .error 3)
      else
        let kids := nodeKids d
        let grid := t.grid.getD (unionBox (kids.map (·.box)))
        let (ks, ts) := buildKids grid b t.depth kids given
        let e : ImgEntry := { va := t.va, sub := nodeSelf d, depth := t.depth, grid := grid, kids := ks }
        s.buildTree a b fuel (rest ++ ts) (out ++ [e]) (given + ts.length)

/-- A build ends with a result: the slot has its new image, or keeps what it had (R443, R447, R448). -/
def State.buildEnd (s : State) (p : Nat) (b : MqBuild) : State :=
  let fin (s : State) (r : Nat) : State := s.updArmPart p fun x => { x with build := none, result := r, slot := b.slot, entries := 0 }
  if (s.ctx b.ctx).part != p || !s.live b.ctx then fin s 6
  else
    match s.imageHomes (b.budget + 1) b.home b.replicas [] with
    | none => fin s 2
    | some homes =>
      match s.buildTree (homes.headD 0) b b.budget [⟨b.root, 4096, 1, none⟩] [] 1 with
      | (s, .error r) => fin s r
      | (s, .ok es) =>
        let s := s.releaseImages fun i => i.part == p && i.slot == b.slot
        let i : Image_ := { id := s.arm.nextId, part := p, slot := b.slot, ctx := b.ctx, root := b.root, homes := homes
                            budget := b.budget, entries := es }
        let s := s.updArms fun e => { e with images := e.images ++ [i], nextId := e.nextId + 1, builds := e.builds + 1 }
        let s := (fin s 0).updArmPart p fun x => { x with entries := es.length }
        s.each homes fun a s => s.storeTrim a

/-- MAQUETTE_BUILD_COMPLETE: a partition's build has read its tree and ends (R443, R447–R449). -/
def execMaquetteBuildComplete (p : Nat) (s : State) : Out :=
  .next (if !s.clocked then s else
    match (s.armPart p).build with
    | none => s
    | some b => s.buildEnd p b)

/-! ## The residency table (R452–R454, R488) -/

/-- A valid entry of the table that breaks R452. -/
def resBad (e : List Byte) : Bool :=
  bitAt (field e 1 1) 0 && (field e 0 1 ≥ 48 || bits (field e 1 1) 2 6 != 0 || bits (field e 2 1) 0 4 == 0 || bits (field e 2 1) 4 4 != 0
    || !zeroBytes e 3 5)

/-- Take the entries of the table from an index on: the valid ones, or the lowest that breaks R452. -/
def resTake (d : List Byte) : Nat → Nat → Except Nat (List ResEnt)
  | 0, _ => .ok []
  | n + 1, i =>
    let e := (d.drop (8 * i)).take 8
    if resBad e then .error i
    else
      match resTake d n (i + 1) with
      | .error x => .error x
      | .ok r =>
        .ok (if bitAt (field e 1 1) 0 then ⟨i, field e 0 1, bitAt (field e 1 1) 1, bits (field e 2 1) 0 4⟩ :: r else r)

/-- The RELOAD of a partition applies: the table is read and taken, or refused whole; whether it was taken (R453). -/
def State.reload (s : State) (p : Nat) : State × Bool :=
  let (m, d, _) := s.mem.readMany 32 256 (s.armPart p).resBase 32768
  let s := { s with mem := m }
  match resTake d 4096 0 with
  | .error i => (s.updArmPart p fun x => { x with badIndex := i }, false)
  | .ok l =>
    -- a node store keeps only the subtrees that its Armature owns
    let s := s.updArmPart p fun x => { x with res := l }
    let s := s.updArms fun e => { e with arms := e.arms.mapIdx fun a x =>
      { x with store := x.store.filter fun y => y.part != p || l.any fun r => r.sub == y.sub && r.owner == a } }
    (s.each (List.range 48) fun a s => s.storeTrim a, true)

/-! ## Placement (R455–R457) -/

/-- Where an Armature sits (R422). -/
def armPos (a : Nat) : Nat × Nat := (3 * (a % 4) + 1, a / 4)

def armHops (a b : Nat) : Nat :=
  let (x, y) := armPos a
  let (u, v) := armPos b
  (x - u) + (u - x) + (y - v) + (v - y)

/-- The quadrant an Armature lies in (R10). -/
def armQuadrant (a : Nat) : Nat := quadrant ((armPos a).2 * 12 + (armPos a).1)

def Arm.loadOf (x : Arm) (p sub : Nat) : Nat := ((x.load.find? (·.1 == (p, sub))).map (·.2)).getD 0

/-- The number with the highest load; the lower one on a tie. -/
def hottest (load : List Nat) : Nat :=
  (List.range load.length).foldl (fun b i => if load.getD i 0 > load.getD b 0 then i else b) 0

/-- A started visit of a partition is in a subtree: it visits it, or comes to it next. -/
def State.inSub (s : State) (p sub : Nat) (v : Visit) : Bool :=
  (s.ctx v.ray.ctx).part == p && (v.sub == sub || v.stack.head?.any fun e => e.image.isNone && e.sub == sub)

/-- Move a subtree from h to c: OWNER is written back, the old owner's lines of it are dropped, and visits that it has started go on there
(R454, R457). -/
def State.moveSubtree (s : State) (p sub h c : Nat) : State :=
  let s := s.updArmPart p fun x => { x with res := x.res.map fun r => if r.sub == sub then { r with owner := c } else r }
  let s := s.updArm h fun x =>
    { x with store := x.store.filter fun y => !(y.part == p && y.sub == sub)
             visits := x.visits.map fun v => if s.inSub p sub v then { v with keep := sub :: v.keep } else v }
  let s := s.updMem fun m => m.writeMany 32 1 ((s.armPart p).resBase + 8 * sub) [BitVec.ofNat 8 c]
  ((((s.updArms fun e => { e with moves := e.moves + 1 }).armCount c 16 1).armCount h 17 1).storeTrim h).storeTrim c

/-- The placement loop of one partition, with the loads of the Armatures (R455, R456). -/
def State.placePart (s : State) (p : Nat) (load : List Nat) : State × List Nat :=
  let h := hottest load
  let own := (s.armPart p).res.filter (·.owner == h)
  let vl (r : ResEnt) : Nat := s.arm.arms.foldl (fun n x => n + x.loadOf p r.sub) 0
  match own.foldl (fun (b : Option ResEnt) r =>
      match b with
      | some x => if vl r > vl x then some r else some x
      | none => some r) none with
  | none => (s, load)
  | some r =>
    let near := (List.range 48).filter fun a => r.pin || bitAt r.region (armQuadrant a)
    let c := near.foldl (fun (b : Option Nat) a =>
      match b with
      | some x => if [load.getD a 0, armHops h a] < [load.getD x 0, armHops h x] then some a else some x
      | none => some a) none
    let small := c.any fun c => load.getD h 0 - load.getD c 0 ≤ 2 * vl r
    if small then (s, load)
    else
      match r.pin, c with
      | false, some c =>
        (s.moveSubtree p r.sub h c, (load.modify h (· - vl r)).modify c (· + vl r))
      | pin, _ =>
        let s := s.policyClamp { time := s.now, loop := 4, part := p, unit := h, winner := if pin then 0x40 else 0x41, loser := 0x80
                                 winQual := r.sub, loseQual := 0 }
        ((s.updArms fun e => { e with placeClamps := e.placeClamps + 1 }).armCount h 18 1, load)

/-- PLACEMENT_PERIOD: the placement loop runs for each partition with ADAPT, and a new period begins (R455–R457). -/
def execPlacementPeriod (now : Nat) (s : State) : Out :=
  let s := s.at now
  .next (if !s.clocked then s else
    let load := s.arm.arms.map fun x => x.load.foldl (fun n y => n + y.2) 0
    let ps := (List.range 32).filter fun p => (s.armPart p).adapt
    let (s, _) := ps.foldl (fun (x : State × List Nat) p => x.1.placePart p x.2) (s, load)
    s.updArms fun e => { e with arms := e.arms.map fun x => { x with load := [] } })

end Sys2Proof.Machine
end

