-- ==== Sys2Proof/Machine/Pcs.lean ====
section
/-! DEFINITION. The physical coding of Ngua ports: PAM4 levels, the RS(544,514) code, and frames (R660–R662). -/
namespace Sys2Proof.Machine

/-! ## GF(2^10) of IEEE 802.3 Clause 91 (PRESUMED, log 150) -/

/-- The product of two polynomials of degree below 10 over GF(2). -/
def polyMul (a b : Nat) : Nat :=
  a % 2 * b ^^^ a / 2 % 2 * (2 * b) ^^^ a / 4 % 2 * (4 * b) ^^^ a / 8 % 2 * (8 * b) ^^^ a / 16 % 2 * (16 * b) ^^^ a / 32 % 2 * (32 * b)
    ^^^ a / 64 % 2 * (64 * b) ^^^ a / 128 % 2 * (128 * b) ^^^ a / 256 % 2 * (256 * b) ^^^ a / 512 % 2 * (512 * b)

/-- A polynomial with x^10 replaced by x^3 + 1. -/
def polyFold (p : Nat) : Nat := p % 1024 ^^^ p / 1024 ^^^ 8 * (p / 1024)

/-- A product modulo x^10 + x^3 + 1. -/
def gfMul (a b : Nat) : Nat := polyFold (polyFold (polyMul a b))

/-- α to the n. -/
def gfExp (n : Nat) : Nat := (List.range n).foldl (fun x _ => gfMul 2 x) 1

/-- The inverse of a: its power 1,022. -/
def gfInv (a : Nat) : Nat :=
  ((List.range 9).foldl (fun (r : Nat × Nat) _ => let q := gfMul r.2 r.2; (gfMul r.1 q, q)) (1, a)).1

/-- A polynomial's value, its coefficients from the highest down. -/
def gfEval (p : List Nat) (x : Nat) : Nat := p.foldl (fun v c => gfMul v x ^^^ c) 0

/-! ## RS(544,514) (R660) -/

/-- The generator: the product of x − α^j for j = 0–29; its coefficients from the highest down, without the first, which is 1. -/
def rsGenerator : List Nat :=
  ((List.range 30).foldl (fun (r : List Nat × Nat) _ =>
    (List.zipWith (· ^^^ ·) (r.1 ++ [0]) (0 :: r.1.map (gfMul r.2)), gfMul 2 r.2)) ([1], 1)).1.drop 1

/-- The 30 parity symbols of a message of 514 symbols: the remainder of its division by the generator. -/
def rsParity (m : List Nat) : List Nat :=
  m.foldl (fun r s =>
    let f := s ^^^ r.headD 0
    List.zipWith (· ^^^ ·) (r.drop 1 ++ [0]) (rsGenerator.map (gfMul f))) (List.replicate 30 0)

/-- The codeword of a message, the message first (R661). -/
def rsEncode (m : List Nat) : List Nat := m ++ rsParity m

/-- The syndromes of a word: its values at α^0 to α^29. -/
def rsSyndromes (w : List Nat) : List Nat := (List.range 30).map fun j => gfEval w (gfExp j)

/-- The error locator of syndromes, its coefficients from the lowest up, and its degree (Berlekamp and Massey). -/
def rsLocator (syn : List Nat) : List Nat × Nat :=
  let at_ (l : List Nat) (i : Nat) : Nat := l.getD i 0
  let r := (List.range 30).foldl (fun (r : List Nat × List Nat × Nat × Nat × Nat) n =>
    let (c, b, l, m, bd) := r
    let d := (List.range (l + 1)).foldl (fun v i => v ^^^ gfMul (at_ c i) (at_ syn (n - i))) 0
    if d == 0 then (c, b, l, m + 1, bd)
    else
      let k := gfMul d (gfInv bd)
      let sub := List.replicate m 0 ++ b.map (gfMul k)
      let c' := (List.range 31).map fun i => at_ c i ^^^ at_ sub i
      if 2 * l ≤ n then (c', c, n + 1 - l, 1, d) else (c', b, l, m + 1, bd)) ([1], [1], 0, 1, 1)
  (r.1, r.2.2.1)

/-- The errors of a word, as positions and values, where a codeword lies within 15 symbols of it; `none` where none does (R660). -/
def rsErrors (w : List Nat) : Option (List (Nat × Nat)) :=
  let syn := rsSyndromes w
  if syn.all (· == 0) then some []
  else
    let (loc, deg) := rsLocator syn
    let omega := (List.range 30).map fun i => (List.range (i + 1)).foldl (fun v j => v ^^^ gfMul (loc.getD j 0) (syn.getD (i - j) 0)) 0
    let slope := (List.range 30).map fun i => if i % 2 == 0 then loc.getD (i + 1) 0 else 0
    let low (p : List Nat) (x : Nat) : Nat := gfEval p.reverse x
    let errs := ((List.range 544).foldl (fun (r : List (Nat × Nat) × Nat) e =>
      let x := r.2
      let inv := gfInv x
      (if low loc inv == 0 then (543 - e, gfMul x (gfMul (low omega inv) (gfInv (low slope inv)))) :: r.1 else r.1, gfMul 2 x))
      ([], 1)).1
    let fixed := errs.foldl (fun w e => w.modify e.1 (· ^^^ e.2)) w
    if deg ≤ 15 && errs.length == deg && (rsSyndromes fixed).all (· == 0) then some errs else none

/-! ## Levels and lanes (R660, R661) -/

/-- The PAM4 level of two bits, the one sent first first, with Gray mapping, and back (R660; log 150). -/
def pamLevel (first second : Bool) : Nat := match first, second with
  | false, false => 0
  | false, true => 1
  | true, true => 2
  | true, false => 3

def pamBits (v : Nat) : Nat := match v % 4 with
  | 0 => 0
  | 1 => 2
  | 2 => 3
  | _ => 1

/-- The five levels of a symbol, least significant bit first, and the symbol of five levels. -/
def symLevels (v : Nat) : List Nat := (List.range 5).map fun i => pamLevel (v.testBit (2 * i)) (v.testBit (2 * i + 1))
def levelsSym (l : List Nat) : Nat := l.foldr (fun v r => pamBits v + 4 * r) 0

/-- The four messages of a frame's 2,570 data bytes: symbol j of codeword c is bits 5,140 c + 10 j and up (R661). -/
def frameMessages (data : List Byte) : List (List Nat) :=
  let n := leNat data
  (List.range 4).map fun c => (List.range 514).map fun j => bits n (5140 * c + 10 * j) 10

/-- A frame as the levels of its lanes: symbol i of codeword c is symbol 4 × (i div L) + c of lane i mod L (R661). -/
def frameLanes (lanes : Nat) (data : List Byte) : List (List Nat) :=
  let cw := (frameMessages data).map rsEncode
  (List.range lanes).map fun l => (List.range (4 * 544 / lanes)).flatMap fun k => symLevels ((cw.getD (k % 4) []).getD (k / 4 * lanes + l) 0)

/-- What the PCS makes of a frame received: its data, which codewords decoded, and by lane the symbols and bits that were corrected. -/
structure FrameView where
  data : List Byte
  decoded : List Bool
  syms : List Nat
  bitErrs : List Nat

/-- Bits set in a symbol. -/
def popBits (v : Nat) : Nat := ((List.range 10).filter v.testBit).length

/-- The frame of the levels of L lanes, the first of them lane `first` of the port; a codeword that does not decode is taken as received
(R660, R661). -/
def frameView (lanes : List (List Nat)) (first : Nat) : FrameView :=
  let l := lanes.length
  let sym (lane k : Nat) : Nat := levelsSym (((lanes.getD lane []).drop (5 * k)).take 5)
  let words := (List.range 4).map fun c => (List.range 544).map fun i => sym (i % l) (4 * (i / l) + c)
  let errs := words.map rsErrors
  let all := errs.flatMap (·.getD [])
  let on (f : Nat × Nat → Nat) : List Nat :=
    (List.range 8).map fun i => ((all.filter fun e => first + e.1 % l == i).map f).foldl (· + ·) 0
  let fixed := List.zipWith (fun (w : List Nat) (e : Option (List (Nat × Nat))) => (e.getD []).foldl (fun w x => w.modify x.1 (· ^^^ x.2)) w) words errs
  let n := (fixed.flatMap (·.take 514)).foldr (fun v r => v + 1024 * r) 0
  { data := toLe 2570 n, decoded := errs.map (·.isSome), syms := on fun _ => 1, bitErrs := on fun e => popBits e.2 }

/-- The header of a frame: its mark, the frame count, the width, and zeros (R662). -/
def frameHeader (count lanes : Nat) : List Byte := toLe 4 0x5A3CC3A5 ++ toLe 1 count ++ toLe 1 (b2n (lanes != 8)) ++ toLe 4 0

/-- A frame of some lanes begins with its header (R662). -/
def headerOk (data : List Byte) (lanes : Nat) : Bool :=
  field data 0 4 == 0x5A3CC3A5 && field data 5 1 == b2n (lanes != 8) && field data 6 4 == 0

/-- Flit i of a frame, and whether every codeword that holds any of its bytes decoded (R661, R667). -/
def FrameView.flit (v : FrameView) (i : Nat) : List Byte × Bool :=
  let from_ := 8 * (10 + 256 * i)
  ((v.data.drop (10 + 256 * i)).take 256, v.decoded.getD (from_ / 5140) false && v.decoded.getD ((from_ + 2047) / 5140) false)

end Sys2Proof.Machine
end

