-- ==== Sys2Proof/Machine/FabLink.lean ====
section
/-! DEFINITION. Ngua ports: frames and training, the link layer and replay, virtual channels and routing (R657–R676, R689–R691,
R697, R698). -/
namespace Sys2Proof.Machine

def State.updFab (s : State) (f : Fabric → Fabric) : State := { s with fab := f s.fab }
def State.port (s : State) (p : Nat) : Port := s.fab.ports.getD p {}
def State.updPort (s : State) (p : Nat) (f : Port → Port) : State := s.updFab fun x => { x with ports := x.ports.modify p f }

/-- A port that takes new flits: UP, and AdminDown is not written (R673). -/
def State.portUp (s : State) (p : Nat) : Bool := (s.port p).state == 2 && !(s.port p).adminDown

/-! ## Identity (R657–R659) -/

/-- A chip ID is valid: rack, a slot of 0–23, position (R657). -/
def chipIdOk (v : Nat) : Bool := v < 1024 && bits v 2 5 < 24
def trayOf (id : Nat) : Nat := id / 4
/-- Positions of the tray peers, ascending (R659). -/
def peersOf (id : Nat) : List Nat := (List.range 4).filter (· != id % 4)
/-- The ports to a tray peer (R659). -/
def peerPorts (id pos : Nat) : List Nat :=
  let i := (peersOf id).findIdx (· == pos)
  [2 * i, 2 * i + 1]
def switchPorts (tray : Nat) : List Nat := (List.range 3).map fun j => 6 + 3 * tray + j
/-- The ports of the group that a port belongs to (R673). -/
def groupOf (p : Nat) : List Nat := if p < 6 then [p / 2 * 2, p / 2 * 2 + 1] else switchPorts ((p - 6) / 3)

/-- The partner that the wiring requires at a port (R664): role, chip ID or plane, and for a chip its port. -/
def wiringOk (id p role partner partnerPort : Nat) : Bool :=
  if p < 6 then
    let pos := (peersOf id).getD (p / 2) 0
    let peer := trayOf id * 4 + pos
    role == 0 && partner == peer && partnerPort == 2 * (peersOf peer).findIdx (· == id % 4) + p % 2
  else role == 1 && partner == (p - 6) / 3

/-! ## Packets (R676) -/

def FPkt.units (k : FPkt) : Nat := k.data.length / 16 + 2

/-- The bytes of a packet. -/
def FPkt.bytes (k : FPkt) : List Byte :=
  toLe 1 k.typ ++ toLe 1 (k.cls + 8 * b2n k.signal + 16 * b2n k.last) ++ toLe 2 k.data.length ++ toLe 2 k.dst ++ toLe 2 k.src
    ++ toLe 1 k.dctx ++ toLe 1 k.sctx ++ toLe 2 k.aux ++ toLe 4 k.tid ++ toLe 8 k.deadline ++ toLe 8 k.addr ++ k.data

/-- A packet of 32 header bytes and its payload. -/
def parsePkt (d : List Byte) : FPkt :=
  let fl := field d 1 1
  { typ := field d 0 1, cls := bits fl 0 3, signal := bitAt fl 3, last := bitAt fl 4, dst := field d 4 2, src := field d 6 2
    dctx := field d 8 1, sctx := field d 9 1, aux := field d 10 2, tid := field d 12 4, deadline := field d 16 8, addr := field d 24 8
    data := d.drop 32 }

/-- A reserved TYPE or a nonzero reserved field (R676). -/
def pktBad (d : List Byte) : Bool :=
  let k := parsePkt d
  let len := field d 2 2
  k.typ ≥ 6 || field d 1 1 ≥ 32 || k.cls ≥ 6 || len % 16 != 0 || len > 256 || k.dst ≥ 1024 || k.src ≥ 1024 || k.dctx ≥ 64 || k.sctx ≥ 64
    || (match k.typ with
      | 1 => (if k.signal then k.aux ≥ 8 else k.aux != 0) || len == 0
      | 2 => k.aux < 16 || k.aux > 256 || k.aux % 16 != 0 || len != 0 || k.signal
      | 3 => k.aux ≥ 6 || k.addr != 0 || k.signal
      | 4 => k.aux ≥ 6 || k.addr != 0 || len != 0 || k.signal
      | _ => k.aux ≥ 8 || k.addr == 0 || k.addr ≥ 65536 || len != 0 || k.signal)

/-- Whole packets at the front of a stream of units, those that are discarded as their bytes' class and units, and the rest (R676). -/
def takePkts : Nat → List Byte → List (Except (Nat × Nat) FPkt) × List Byte
  | 0, d => ([], d)
  | n + 1, d =>
    if d.length < 16 then ([], d)
    else if field d 0 1 == 0 then takePkts n (d.drop 16)
    else if d.length < 32 then ([], d)
    else
      let len := field d 2 2
      let total := if len % 16 != 0 || len > 256 then 32 else 32 + len
      if d.length < total then ([], d)
      else
        let one := d.take total
        let r : Except (Nat × Nat) FPkt := if pktBad one then .error (field one 1 1 % 8, total / 16) else .ok (parsePkt one)
        let (l, rest) := takePkts n (d.drop total)
        (r :: l, rest)

/-! ## Flits (R665–R669) -/

/-- A flit as its fields. -/
structure FlitView where
  typ : Nat
  seq : Nat
  ack : Nat
  ackv : Bool
  nak : Bool
  cvc : Nat
  ccnt : Nat
  payload : List Byte

def viewFlit (l : List Byte) : FlitView :=
  let k := field l 0 4
  let c := field l 4 4
  { typ := bits k 0 4, seq := bits k 4 10, ack := bits k 14 10, ackv := bitAt k 24, nak := bitAt k 25, cvc := bits c 0 3
    ccnt := bits c 3 13, payload := (l.drop 12).take 240 }

/-- A flit whose CRC is good and whose reserved bits are 0 (R665, R667). -/
def flitOk (l : List Byte) : Bool :=
  l.length == 256 && field l 252 4 == crc32 (l.take 252) && bits (field l 0 4) 26 6 == 0 && field l 0 1 % 16 < 3
    && bits (field l 4 4) 16 16 == 0 && (viewFlit l).cvc < 6 && field l 8 4 == 0

def flitBytes (typ seq ack : Nat) (nak : Bool) (cvc ccnt : Nat) (payload : List Byte) : List Byte :=
  let body := toLe 4 (typ + seq * 2 ^ 4 + ack * 2 ^ 14 + 2 ^ 24 + b2n nak * 2 ^ 25) ++ toLe 4 (cvc + ccnt * 8) ++ toLe 4 0
    ++ payload ++ List.replicate (240 - payload.length) 0
  body ++ toLe 4 (crc32 body)

/-- A port sends a flit, with the latest accepted SEQ and one class's credit return (R665, R668, R675). -/
def State.sendFlit (s : State) (p typ seq : Nat) (nak : Bool) (payload : List Byte) : State :=
  let x := s.port p
  let c := (List.range 6).find? fun c => x.owed.getD c 0 > 0
  let n := min ((c.map fun c => x.owed.getD c 0).getD 0) 8191
  let f := flitBytes typ seq ((x.expect + 1023) % 1024) nak (c.getD 0) n payload
  let s := match c with
    | some c => s.updPort p fun x => { x with owed := x.owed.modify c (· - n) }
    | none => s
  (s.updPort p fun x => { x with tx := x.tx ++ [f] }).updFab fun b => { b with sent := b.sent ++ [(p, f)] }

/-- DATA flits of payloads leave with the next sequence numbers and enter the replay buffer (R666). -/
def State.sendData (s : State) (p : Nat) (l : List (List Byte)) : State :=
  s.each l fun d s =>
    let q := (s.port p).seq
    (s.sendFlit p 1 q false d).updPort p fun x =>
      { x with seq := (q + 1) % 1024, unacked := x.unacked ++ [⟨q, d, s.now⟩], flitsTx := x.flitsTx + 1 }

/-- Every unacknowledged DATA flit is sent again (R669). -/
def State.resend (s : State) (p : Nat) : State :=
  let l := (s.port p).unacked
  let s := s.each l fun u s => s.sendFlit p 1 u.seq false u.payload
  s.updPort p fun x =>
    { x with unacked := x.unacked.map fun u => { u with sent := s.now }, progress := s.now, flitsTx := x.flitsTx + l.length }

/-- The ACK and CREDIT of a flit received: acknowledged flits leave the replay buffer, credit returns (R665, R668). -/
def State.flitAck (s : State) (p : Nat) (f : FlitView) : State :=
  s.updPort p fun x =>
    let n := match x.unacked.head? with
      | some u => (f.ack + 1024 - u.seq) % 1024 + 1
      | none => 0
    let x := if f.ackv && 0 < n && n ≤ x.unacked.length then { x with unacked := x.unacked.drop n, progress := s.now } else x
    { x with credits := x.credits.modify f.cvc (· + f.ccnt) }

/-- What every accepted flit brings besides its payload: its ACK and CREDIT, and a NAK, on which every unacknowledged flit from ACK + 1 is sent
again (R665, R668, R669). -/
def State.flitLink (s : State) (p : Nat) (f : FlitView) : State :=
  let s := s.flitAck p f
  if f.nak then s.resend p else s

/-- The flit that a row receives: the oldest of the port's received frames that is not yet taken, where it is of the row's kind. -/
def State.onFlit (s : State) (p : Nat) (kind : RxFlit → Bool) (f : RxFlit → State → State) : State :=
  if !s.clocked then s
  else
    match (s.port p).flits with
    | [] => s
    | x :: rest => if kind x then f x (s.updPort p fun y => { y with flits := rest }) else s

/-- The kind of a flit received: 0 one without a CTRL or DATA content, 1 DATA, 2 one with NAK, 3 TRAIN, 4 TIME, 5 LOOPBACK. One whose codewords did
not decode, or whose CRC fails, counts by its TYPE as it was received. -/
def RxFlit.kind (x : RxFlit) : Nat :=
  let v := viewFlit x.bytes
  let c := field x.bytes 12 1
  if v.typ == 1 then 1 else if v.nak then 2 else if v.typ == 2 && 1 ≤ c && c ≤ 3 then c + 2 else 0

/-- A flit received whole: it decoded and passes its checks (R665, R667, R668). -/
def RxFlit.good (x : RxFlit) : Bool := x.decoded && flitOk x.bytes

/-! ## Routing (R689, R690) -/

/-- The UP ports among some, and the one that an index picks. -/
def State.upPorts (s : State) (l : List Nat) : List Nat := l.filter s.portUp
def pick (l : List Nat) (i : Nat) : Option Nat := if l.isEmpty then none else l[i % l.length]?

/-- The route of an attempt through a switch tray (R689). -/
def State.switchRoute (s : State) (k : FPkt) (attempt : Nat) : Option Nat :=
  (List.range 4).findSome? fun i => pick (s.upPorts (switchPorts ((k.src + k.dst + attempt + i) % 4))) (k.sctx + k.dctx)

/-- The direct route to a chip of the own tray (R689). -/
def State.directRoute (s : State) (k : FPkt) : Option Nat :=
  if trayOf k.dst == trayOf s.fab.chipId && k.dst != s.fab.chipId then
    pick (s.upPorts (peerPorts s.fab.chipId (k.dst % 4))) (k.sctx ^^^ k.dctx)
  else none

/-- The detour: the lowest-positioned tray peer that has an UP port to a switch tray. Whether a peer has one is not known to this
chip and is a free choice (R689). -/
def State.detourRoute (s : State) (k : FPkt) : Option Nat :=
  (peersOf s.fab.chipId).findSome? fun pos =>
    if Config.choice (s.freeCount + pos) then pick (s.upPorts (peerPorts s.fab.chipId pos)) (k.sctx ^^^ k.dctx) else none

/-- A packet joins the queue of an output. -/
def State.outPut (s : State) (p : Nat) (k : FPkt) : State := s.updPort p fun x => { x with out := x.out ++ [{ k with arr := s.now }] }

/-- A packet of this chip takes its route; one to the chip itself is performed inside; one with no route is lost and recovered under
R680 (R688, R689). -/
def State.route (s : State) (k : FPkt) (attempt : Nat) : State :=
  if k.dst == s.fab.chipId then (s.stir k.dctx).updFab fun b => { b with self := b.self ++ [{ k with arr := s.now }] }
  else
    match s.directRoute k with
    | some p => s.outPut p k
    | none =>
      match s.switchRoute k attempt with
      | some p => s.outPut p k
      | none =>
        let r := s.detourRoute k
        let s := { s with freeCount := s.freeCount + 4 }
        match r with
        | some p => (s.outPut p { k with cls := 4 }).updFab fun b => { b with detours := b.detours + 1 }
        | none => s

/-- What waits at a port moves to the other ports of its group, in order (R673). -/
def State.moveFlows (s : State) (p : Nat) : State :=
  let l := (s.port p).out
  let s := s.updPort p fun x => { x with out := [] }
  s.each l fun k s =>
    match pick (s.upPorts (groupOf p)) (if p < 6 then k.sctx ^^^ k.dctx else k.sctx + k.dctx) with
    | some q => s.outPut q k
    | none => s.route k 0

/-! ## Arbitration (R35, R674) -/

/-- The flow of a packet. -/
def FPkt.flow (k : FPkt) : Nat × Nat × Nat × Nat := (k.src, k.sctx, k.dst, k.cls)

/-- All ones: background (R676). -/
def bgRack : Nat := 2 ^ 64 - 1

/-- The device time at which a packet's deadline falls at this chip, counted from 2^64 ns before device time 0, so that one that has passed keeps its
place (R37, R694). -/
def State.rankOf (s : State) (k : FPkt) : Option Nat :=
  if k.deadline == bgRack then none else some ((k.deadline : Int) - s.fab.offset + 2 ^ 64).toNat

/-- The device time at which a packet's deadline falls at this chip (R694). -/
def State.deadlineOf (s : State) (k : FPkt) : Option Nat :=
  if k.deadline == bgRack then none else some ((k.deadline : Int) - s.fab.offset).toNat

def minDl (a b : Option Nat) : Option Nat := if dlLt b a then b else a

/-- The first packet of each flow among some packets, ranked by the earliest deadline of the flow's queued packets, then by arrival, source
context and source chip (R36, R674, R689). -/
def State.flowHeads (s : State) (l : List FPkt) : List (FPkt × Rank) :=
  (l.map FPkt.flow).eraseDups.filterMap fun f =>
    let mine := l.filter fun k => k.flow == f
    mine.head?.map fun h => (h, { dl := mine.foldl (fun d k => minDl d (s.rankOf k)) none, arr := h.arr, ctx := 65536 * h.sctx + h.src })

/-- The next packet an output starts: ESC_D, ESC_U, RSP, in order of arrival, then REQ, RAY and EVENT by deadline; credit for all its units is needed
(R674). -/
def State.nextPkt (s : State) (x : Port) : Option FPkt :=
  let heads (cs : List Nat) : List (FPkt × Rank) :=
    (s.flowHeads (x.out.filter fun k => cs.contains k.cls)).filter fun y => y.1.units ≤ x.credits.getD y.1.cls 0
  let one (c : Nat) : Option FPkt := (earliest (fun (y : FPkt × Rank) => { y.2 with dl := none }) (heads [c])).map (·.1)
  match one 5 with
  | some k => some k
  | none =>
    match one 4 with
    | some k => some k
    | none =>
      match one 1 with
      | some k => some k
      | none => (earliest (fun (y : FPkt × Rank) => y.2) (heads [0, 2, 3])).map (·.1)

/-- Payloads of 15 units, the last filled with PAD. -/
def flitPayloads : Nat → List Byte → List (List Byte)
  | 0, _ => []
  | n + 1, d => if d.isEmpty then [] else d.take 240 :: flitPayloads n (d.drop 240)

/-- PACKET_START: an output starts its next packet: its credit is spent and its units leave in DATA flits (R665, R666, R674). -/
def execPacketStart (now port : Nat) (s : State) : Out :=
  let s := s.at now
  .next (if !s.clocked || !s.portUp port then s else
    match s.nextPkt (s.port port) with
    | none => s
    | some k =>
      let l := flitPayloads 2 k.bytes
      if (s.port port).unacked.length + l.length > 512 then s
      else
        (s.updPort port fun x => { x with out := x.out.erase k, credits := x.credits.modify k.cls (· - k.units) }).sendData port l)

/-! ## Training (R662–R664, R672) -/

/-- The receive buffers that a TRAIN flit advertises (R671). -/
def rxCredits : List Nat := [2048, 2048, 1024, 256, 128, 128]

/-- A TRAIN flit leaves (R663, R664). -/
def State.sendTrain (s : State) (p : Nat) (t : Training) : State :=
  let d := toLe 1 1 ++ toLe 1 0 ++ toLe 2 s.fab.chipId ++ toLe 1 p ++ toLe 1 t.lanes ++ toLe 1 (b2n t.seen) ++ toLe 1 0
    ++ rxCredits.flatMap (toLe 2)
  (s.sendFlit p 2 0 false d).updPort p fun x => { x with training := x.training.map fun t => { t with trainAt := s.now } }

/-- A port begins to train at a width; DATA flits that no frame has taken go with the resend (R663, R672). -/
def State.train (s : State) (p lanes : Nat) (only cold : Bool) : State :=
  s.updPort p fun x =>
    { x with state := 1, lanes := 0, run := 0, flits := [], tx := if cold then [] else x.tx.filter fun f => (viewFlit f).typ != 1
             training := some { lanes := lanes, only := only, start := s.now, cold := cold } }

def State.portDown (s : State) (p : Nat) : State :=
  s.updPort p fun x => { x with state := 0, lanes := 0, training := none, since := s.now, flits := [], tx := [] }

/-- A try at a width has failed: the width is tried three times, then lanes 0–3 and lanes 4–7; then the port is DOWN (R663). -/
def State.trainFail (s : State) (p : Nat) (t : Training) : State :=
  if t.fails < 2 then
    s.updPort p fun x => { x with training := some { t with fails := t.fails + 1, start := s.now, run := 0, seen := false } }
  else if t.only || t.lanes == 0xF0 then s.portDown p
  else s.train p (if t.lanes == 0xFF then 0x0F else 0xF0) false t.cold

/-- A port that has trained is UP. From DOWN it starts with SEQ 0, the partner's credits and an empty replay buffer; else both ends
keep theirs and resend (R663, R672, R681). -/
def State.trained (s : State) (p : Nat) (t : Training) (credits : List Nat) : State :=
  if t.cold then
    let src := (s.port p).partnerId
    let s := s.updPort p fun x =>
      { x with state := 2, lanes := t.lanes, training := none, seq := 0, expect := 0, unacked := [], credits := credits
               owed := List.replicate 6 0, rx := [], fails := 0, failErr := List.replicate 8 0, nakAt := none, progress := s.now }
    if (s.port p).partnerSw then s else s.updFab fun b => { b with dups := b.dups.filter (·.src != src) }
  else (s.updPort p fun x => { x with state := 2, lanes := t.lanes, training := none, progress := s.now }).resend p

/-- Bits per lane of a frame (R662). -/
def frameBits (lanes : Nat) : Nat := if lanes == 8 then 2720 else 5440

/-- The counters that a frame brings (R699, R703): FEC counts, and the bit-error ratio over each 1 s. -/
def Port.frameCount (x : Port) (now lanes : Nat) (v : FrameView) : Port :=
  let x := if now ≥ x.berFrom + 10 ^ 9 then
      let worst := x.berErr.foldl max 0 * 10 ^ 15 / max x.berBits 1
      { x with worstBer := min worst (2 ^ 32 - 1), berErr := List.replicate 8 0, berBits := 0, berFrom := now }
    else x
  let add (l m : List Nat) : List Nat := l.mapIdx fun i v => v + m.getD i 0
  { x with fecCorr := x.fecCorr + v.syms.foldl (· + ·) 0, fecUnc := x.fecUnc + (v.decoded.filter (!·)).length
           laneErr := add x.laneErr v.syms, berErr := add x.berErr v.bitErrs, berBits := x.berBits + frameBits lanes
           frame := some (field v.data 4 1) }

/-- The lanes that a port receives on, as a mask; a port that is ADMIN_DOWN or in loopback takes its partner's 8 lanes. -/
def Port.lanesIn (x : Port) : Nat :=
  match x.training with
  | some t => t.lanes
  | none => if x.lanes == 0 then 0xFF else x.lanes

def lanesOf (mask : Nat) : Nat := if mask == 0xFF then 8 else 4

/-- A port sends its next frame: the ten flits that have waited longest, filled up with IDLE flits (R661–R663, R668; log 151). -/
def State.sendFrame (s : State) (p : Nat) : State :=
  let n := 10 - (s.port p).tx.length
  let s := s.each (List.range n) fun _ s => s.sendFlit p 0 0 false []
  let x := s.port p
  let l := lanesOf x.lanesIn
  (s.updPort p fun x => { x with tx := x.tx.drop 10, txCount := (x.txCount + 1) % 256 }).updFab fun b =>
    { b with frames := b.frames ++ [(p, frameLanes l (frameHeader x.txCount l ++ (x.tx.take 10).flatten))] }

/-- FRAME_RECEIVE: a PCS frame is received, as the levels of its lanes: its codewords are decoded and its flits wait to be taken; a port that trains is
locked after eight headers in a row, and sends TRAIN every 1 µs. The port sends a frame of its own in the same frame time; one that its partner has put into
far-end PMA loopback returns the received symbols (R660–R663, R697; log 151). -/
def execFrameReceive (now port : Nat) (lanes : List (List Nat)) (s : State) : Out :=
  let s := s.at now
  .next (if !s.clocked || port ≥ 18 || [0, 4, 5].contains (s.port port).state then s else
    let x := s.port port
    let v := frameView lanes (if x.lanesIn == 0xF0 then 4 else 0)
    let ok := lanes.length == lanesOf x.lanesIn && headerOk v.data lanes.length
    let run := if ok then x.run + 1 else 0
    let s := s.updPort port fun x => { x.frameCount s.now lanes.length v with run := run }
    let s := match x.training with
      | none => s
      | some t =>
        if run == 8 && t.run < 8 then
          let t := { t with run := 8, start := s.now }
          (s.updPort port fun x => { x with training := some t }).sendTrain port t
        else
          let t := { t with run := if ok then max t.run run else 0 }
          let s := s.updPort port fun x => { x with training := some t }
          if t.run ≥ 8 && t.trainAt + 1000 ≤ s.now then s.sendTrain port t else s
    let s := if ((s.port port).training.any (·.run < 8)) then s
      else s.updPort port fun x => { x with flits := x.flits ++ (List.range 10).map fun i => ⟨(v.flit i).1, (v.flit i).2, v.syms⟩ }
    if (s.port port).partnerLoop == 2 then s.updFab fun b => { b with frames := b.frames ++ [(port, lanes)] } else s.sendFrame port)

/-- TRAIN_FLIT_RECEIVE: a TRAIN from the partner: the wiring is checked, and once the partner has seen a TRAIN the port is UP (R663,
R664). -/
def execTrainFlitReceive (now port : Nat) (s : State) : Out :=
  .next ((s.at now).onFlit port (·.kind == 3) fun y s =>
    let flit := y.bytes
    match (s.port port).training with
    | none => s
    | some t =>
      if !y.good then s else
      let role := field flit 13 1
      let id := field flit 14 2
      let s := s.updPort port fun x => { x with partnerSw := role == 1, partnerId := id, partnerPort := field flit 16 1 }
      if !wiringOk s.fab.chipId port role id (field flit 16 1) then
        (s.updPort port fun x => { x with state := 4, lanes := 0, training := none, flits := [], tx := [] }).logEvent 0x0042 9 2
          (toLe 1 port ++ toLe 1 0 ++ toLe 2 id)
      else
        let t := { t with seen := true }
        let s := (s.updPort port fun x => { x with training := some t }).sendTrain port t
        if bitAt (field flit 18 1) 0 then s.trained port t ((List.range 6).map fun i => field flit (20 + 2 * i) 2) else s)

/-- TRAINING_TIMEOUT: lock has taken 1 ms, or the exchange of TRAIN flits 100 µs (R663). -/
def execTrainingTimeout (now port : Nat) (s : State) : Out :=
  let s := s.at now
  .next (if !s.clocked then s else
    match (s.port port).training with
    | none => s
    | some t => if s.now < t.start + (if t.run ≥ 8 then 100000 else 1000000) then s else s.trainFail port t)

/-- PORT_TRAIN_RETRY: a port that is DOWN trains again, every 1 s, once the chip has its ID (R658, R663). -/
def execPortTrainRetry (now port : Nat) (s : State) : Out :=
  let s := s.at now
  .next (if !s.clocked || s.fab.chipId == 0xFFFF || port ≥ 18 || (s.port port).state != 0 || (s.port port).adminDown
      || s.now < (s.port port).since + 10 ^ 9 then s
    else s.train port 0xFF false true)

/-- FRAME_LOCK_LOSS: the partner has stopped sending frames: the port goes DOWN and retrains; this is no lasting error (R793). -/
def execFrameLockLoss (now port : Nat) (s : State) : Out :=
  let s := s.at now
  .next (if !s.clocked || (s.port port).state != 2 then s else (s.portDown port).train port 0xFF false true)

/-- Every port trains anew: the chip ID has changed (R658). -/
def State.retrainAll (s : State) : State :=
  s.each (List.range 18) fun p s => if (s.port p).adminDown then s else s.train p 0xFF false true

/-! ## Receiving flits (R667–R670) -/

/-- A port is disabled: its replay buffer is lost (R670, R672). -/
def State.disable (s : State) (p : Nat) : State :=
  let s := (s.updPort p fun x => { x with state := 5, lanes := 0, training := none, unacked := [], flits := [], tx := [] }).logEvent 0x0041 9 2 (toLe 1 p)
  s.moveFlows p

/-- A lasting error: the port degrades to the half without the lane named, retrains, or is disabled (R670). -/
def State.lastingError (s : State) (p : Nat) : State :=
  let x := s.port p
  let again := x.lasting.any fun t => s.now < t + 10 ^ 9
  let s := s.updPort p fun x => { x with lastingCnt := x.lastingCnt + 1, lasting := some s.now, fails := 0, failErr := List.replicate 8 0 }
  if x.lanes != 0xFF then s.disable p
  else
    let worst := (List.range 8).foldl (fun b i => if x.failErr.getD i 0 > x.failErr.getD b 0 then i else b) 0
    if x.failErr.getD worst 0 > 0 then
      (s.train p (if worst < 4 then 0xF0 else 0x0F) true false).logEvent 0x0040 9 1 (toLe 1 p ++ toLe 1 worst)
    else if again then s.disable p
    else s.train p 0xFF true false

/-- A NAK leaves unless one is outstanding and less than 2 µs old (R667). -/
def State.sendNak (s : State) (p : Nat) : State :=
  if (s.port p).nakAt.any fun t => s.now < t + 2000 then s
  else (s.sendFlit p 0 0 true []).updPort p fun x => { x with nakAt := some s.now }

/-- A DATA flit is discarded (R667, R670). The SEQ it carries tells whether it is the expected one. -/
def State.dataBad (s : State) (p : Nat) (flit : List Byte) (laneErr : List Nat) : State :=
  let x := s.port p
  if (viewFlit flit).seq != x.expect then s.sendNak p
  else
    let s := s.updPort p fun x =>
      { x with fails := x.fails + 1, failErr := x.failErr.mapIdx fun i v => v + laneErr.getD i 0 }
    if x.fails + 1 ≥ 2 then s.lastingError p else s.sendNak p

/-- A DATA flit is accepted: whole packets of its units are received; an IDLE acknowledges it (R667, R668, R670, R676). -/
def State.dataGood (s : State) (p : Nat) (f : FlitView) : State :=
  let x := s.port p
  let (l, rest) := takePkts 64 (x.rx ++ f.payload)
  let good := l.filterMap fun r => match r with
    | .ok k => some k
    | .error _ => none
  let badOnes := l.filterMap fun r => match r with
    | .ok _ => none
    | .error e => some e
  let s := s.updPort p fun x =>
    { x with expect := (x.expect + 1) % 1024, transient := x.transient + b2n (x.fails == 1), fails := 0
             failErr := List.replicate 8 0, nakAt := none, rx := rest, inq := x.inq ++ good.map fun k => { k with arr := s.now }
             bad := x.bad + badOnes.length, owed := badOnes.foldl (fun o e => o.modify e.1 (· + e.2)) x.owed }
  let s := s.each (good.filter fun k => k.dst == s.fab.chipId) fun k s => s.stir k.dctx
  s.sendFlit p 0 0 false []

/-- A port runs the link layer: it is UP, or its partner has put it into link-layer loopback (R697). -/
def State.linked (s : State) (p : Nat) : Bool := (s.port p).state == 2 || ((s.port p).state == 6 && (s.port p).partnerLoop == 3)

/-- A DATA flit reaches a port in its partner's link-layer loopback: its payload returns in a new DATA flit, or it is NAKed (R697). -/
def State.dataLoop (s : State) (p : Nat) (y : RxFlit) : State :=
  let f := viewFlit y.bytes
  let s := if y.good then s.flitLink p f else s
  if y.good && f.seq == (s.port p).expect then
    (s.updPort p fun x => { x with expect := (x.expect + 1) % 1024, nakAt := none }).sendData p [f.payload]
  else s.sendNak p

/-- DATA_FLIT_RECEIVE: a DATA flit is accepted, or discarded and NAKed (R667–R670). -/
def execDataFlitReceive (now port : Nat) (s : State) : Out :=
  .next ((s.at now).onFlit port (·.kind == 1) fun y s =>
    if !s.linked port then s
    else if (s.port port).state == 6 then s.dataLoop port y
    else
      let f := viewFlit y.bytes
      let s := if y.good then s.flitLink port f else s
      if y.good && f.seq == (s.port port).expect then s.dataGood port f else s.dataBad port y.bytes y.laneErr)

/-- IDLE_FLIT_RECEIVE: an IDLE brings ACK and credit; one that fails its checks, and a flit of a reserved type, is discarded (R668). -/
def execIdleFlitReceive (now port : Nat) (s : State) : Out :=
  .next ((s.at now).onFlit port (·.kind == 0) fun y s =>
    if !s.linked port || !y.good || (viewFlit y.bytes).typ != 0 then s else s.flitLink port (viewFlit y.bytes))

/-- NAK_RECEIVE: a NAK: every unacknowledged flit from ACK + 1 is sent again (R669). -/
def execNakReceive (now port : Nat) (s : State) : Out :=
  .next ((s.at now).onFlit port (·.kind == 2) fun y s =>
    if !s.linked port || !y.good then s else s.flitLink port (viewFlit y.bytes))

/-- REPLAY_TIMEOUT: the oldest unacknowledged flit has waited 2 µs with no ACK progress (R669). -/
def execReplayTimeout (now port : Nat) (s : State) : Out :=
  let s := s.at now
  .next (match (s.port port).unacked.head? with
    | none => s
    | some u =>
      if !s.clocked || !s.linked port || s.now < max u.sent (s.port port).progress + 2000 then s else s.resend port)

/-! ## AdminDown and the partner's loopback (R670, R673, R698) -/

/-- AdminDown of a port is written (R673). -/
def State.adminWrite (s : State) (p : Nat) (v : Bool) : State :=
  let x := s.port p
  if v then
    let s := s.updPort p fun x => { x with adminDown := true }
    if x.state == 2 && !x.unacked.isEmpty then s
    else if x.state == 6 then s
    else (s.updPort p fun x => { x with state := 3, lanes := 0, training := none }).moveFlows p
  else if !x.adminDown || x.state == 6 then s
  else
    let s := s.updPort p fun x => { x with adminDown := false }
    if s.fab.chipId == 0xFFFF then s.portDown p
    else if x.state == 3 then s.train p 0xFF false true
    else s

/-- ADMIN_DOWN: AdminDown 1 stops new flits on a port (R673). -/
def execAdminDown (port : Nat) (s : State) : Out := .next (if !s.clocked || port ≥ 18 then s else (s.adminWrite port true).applied)

/-- ADMIN_DOWN_COMPLETE: the replay buffer is empty: the port is ADMIN_DOWN, and its flows move to the other ports of its group
(R673). -/
def execAdminDownComplete (now port : Nat) (s : State) : Out :=
  let s := s.at now
  .next (if !s.clocked || !(s.port port).adminDown || (s.port port).state != 2 || !(s.port port).unacked.isEmpty then s
    else (s.updPort port fun x => { x with state := 3, lanes := 0 }).moveFlows port)

/-- ADMIN_UP: AdminDown 0 returns a port to training (R670). -/
def execAdminUp (now port : Nat) (s : State) : Out :=
  let s := s.at now
  .next (if !s.clocked || port ≥ 18 then s else (s.adminWrite port false).applied)

/-- LOOPBACK_FLIT_RECEIVE: the partner asks for, or ends, a loopback on a port that is ADMIN_DOWN (R668, R698). -/
def execLoopbackFlitReceive (now port : Nat) (s : State) : Out :=
  .next ((s.at now).onFlit port (·.kind == 5) fun y s =>
    let d := field y.bytes 13 1
    let x := s.port port
    if !y.good || !zeroBytes y.bytes 14 238 then s
    else
      let s := if x.state == 2 then s.flitLink port (viewFlit y.bytes) else s
      if (d == 2 || d == 3) && x.state == 3 then s.updPort port fun x => { x with state := 6, partnerLoop := d }
      else if d == 0 && x.state == 6 && x.partnerLoop != 0 then s.updPort port fun x => { x with state := 3, partnerLoop := 0 }
      else s)

end Sys2Proof.Machine
end

