-- ==== Sys2Proof/Machine/Hbm.lean ====
section
/-! DEFINITION. The HBM stacks: ECC classification, poison, patrol, row retirement and temperature (R629–R649, R654–R656). -/
namespace Sys2Proof.Machine

def State.stack (s : State) (n : Nat) : HbmStack := s.hbm.stackList.getD n {}
def State.updStack (s : State) (n : Nat) (f : HbmStack → HbmStack) : State :=
  { s with hbm := { s.hbm with stackList := s.hbm.stackList.modify n f } }

/-! ## Placement of an address (R630) -/

/-- The physical address of a line of a stack, by pseudo-channel and local line index. -/
def lineAddr (stack pc line : Nat) : Nat :=
  let hi := line * 2 ^ 15
  hi + (pc ^^^ bits hi 21 5) * 2 ^ 10 + ((stack ^^^ bits hi 18 3) ^^^ bits hi 29 3) * 2 ^ 7

/-- The rows of a pseudo-channel. -/
def rowCount : Nat := 786432

/-- LOC of a retirement record (R646). -/
def rowLoc (stack pc row : Nat) : Nat := stack + pc * 8 + row * 256

/-! ## Spare rows and retirement (R643–R646) -/

/-- Free spare rows of a pseudo-channel; a copy under way holds one. -/
def HbmStack.free (x : HbmStack) (pc : Nat) : Nat :=
  32 - (x.spent.filter (· == pc)).length - (x.copies.filter (·.pc == pc)).length
def HbmStack.sparesMin (x : HbmStack) : Nat := ((List.range 32).map x.free).foldl min 32
def HbmStack.sparesFree (x : HbmStack) : Nat := ((List.range 32).map x.free).foldl (· + ·) 0

/-- The lines of a row that are poisoned, bit by bit. -/
def State.rowPoison (s : State) (stack pc row : Nat) : Nat :=
  (List.range 8).foldl (fun m j => m + 2 ^ j * b2n (s.mem.metaOf (lineAddr stack pc (row * 8 + j) / 128)).poison) 0

/-- A line of HBM becomes poisoned (R635, R643). -/
def MemSys.poisonLine (m : MemSys) (line : Nat) : MemSys := m.setMeta { m.metaOf line with poison := true }

/-- A retirement record is written, logged and signalled on EVT_VEC (R643, R644, R646, R754). -/
def State.retireRec (s : State) (stack pc row kind cause : Nat) : State :=
  let r := toLe 8 s.now ++ toLe 4 (rowLoc stack pc row) ++ toLe 1 kind ++ toLe 1 (s.rowPoison stack pc row) ++ toLe 1 cause ++ toLe 1 0
  let s := { s with hbm := { s.hbm with recs := (r :: s.hbm.recs).take 16 } }
  let s := if kind == 2 then s.logEvent 0x0031 10 2 r else s.logEvent 0x0030 10 1 r
  s.msix none (s.stack stack).evtVec

/-- A row is to be retired: its copy into a free spare row starts, or a REQUEST is written (R643, R644). -/
def State.retireRow (s : State) (stack pc row cause : Nat) : State :=
  let x := s.stack stack
  if x.copies.any fun c => c.pc == pc && c.row == row then s
  else if x.free pc == 0 then
    (s.updStack stack fun x => { x with requests := x.requests + 1 }).retireRec stack pc row 2 cause
  else s.updStack stack fun x => { x with copies := x.copies ++ [⟨pc, row, cause⟩] }

/-- ROW_RETIRE_COMPLETE: the copy of a row ends: the row is redirected; the lines of `bad` could not be corrected and are poisoned
(R643, R645, R646). -/
def execRowRetireComplete (now stack index bad : Nat) (s : State) : Out :=
  let s := s.at now
  .next (if !s.clocked then s else
    match (s.stack stack).copies[index]? with
    | none => s
    | some c =>
      let lines := (List.range 8).filter (bitAt bad)
      let s := s.updMem fun m => lines.foldl (fun m j => m.poisonLine (lineAddr stack c.pc (c.row * 8 + j) / 128)) m
      let s := s.updStack stack fun x =>
        { x with
          copies := x.copies.eraseIdx index
          spent := x.spent ++ [c.pc]
          redirects := if x.redirects.contains (c.pc, c.row) then x.redirects else x.redirects ++ [(c.pc, c.row)]
          retired := x.retired + 1 }
      s.retireRec stack c.pc c.row (if c.cause == 3 then 3 else 1) c.cause)

/-! ## Errors (R634, R635, R638, R641) -/

/-- The class of a read by the symbols in error of its codewords: 0 clean, 1 correctable, 2 uncorrectable. The code corrects one symbol of a codeword
and detects two (R634); a codeword with more is taken as detected (log 155). -/
def eccClass (syms : List Nat) : Nat := if syms.any (· ≥ 2) then 2 else if syms.any (· == 1) then 1 else 0

/-- A read of a line with what the controller finds is counted, classified and acted on (R634, R635). -/
def State.hbmRead (s : State) (stack pc line : Nat) (e : ReadErr) : State :=
  let row := line / 8
  let s := s.updStack stack fun x => { x with onDie := x.onDie + e.onDie }
  match eccClass e.first with
  | 1 =>
    if eccClass e.retry == 0 then s.updStack stack fun x => { x with ceTransient := x.ceTransient + 1 }
    else (s.updStack stack fun x => { x with ceLasting := x.ceLasting + 1 }).retireRow stack pc row 1
  | 2 =>
    if eccClass e.retry != 2 then s.updStack stack fun x => { x with ueTransient := x.ueTransient + 1 }
    else
      let s := s.updStack stack fun x => { x with ueLasting := x.ueLasting + 1 }
      (s.updMem fun m => m.poisonLine (lineAddr stack pc line / 128)).retireRow stack pc row 2
  | _ => s

/-- HBM_READ_ERROR: a read of a physical address meets an error, is retried once and classified; a consumer reads the line as this
leaves it (R634–R636, R639). -/
def execHbmReadError (now pa : Nat) (err : ReadErr) (s : State) : Out :=
  let s := s.at now
  .next (if !s.clocked || pa ≥ hbmEnd then s else s.hbmRead (stackOf pa) (pcOf pa) (localLine pa) err)

/-- Lines of a stack outside its spare rows. -/
def stackLines : Nat := 32 * rowCount * 8

/-- The line at a position of a patrol pass: every line of the capacity, then the spare rows in use. -/
def HbmStack.patrolLine (x : HbmStack) (i : Nat) : Nat × Nat :=
  if i < stackLines then (i / (rowCount * 8), i % (rowCount * 8))
  else
    let r := x.redirects.getD ((i - stackLines) / 8) (0, 0)
    (r.1, r.2 * 8 + (i - stackLines) % 8)

/-- PATROL_READ: patrol scrub reads the next line of its pass; a new PatrolHours applies to the next pass (R641, R642). -/
def execPatrolRead (now stack : Nat) (err : ReadErr) (s : State) : Out :=
  let s := s.at now
  .next (if !s.clocked || stack ≥ 8 then s else
    let x := s.stack stack
    let (pc, line) := x.patrolLine x.patrolAt
    let s := s.hbmRead stack pc line err
    s.updStack stack fun x =>
      if x.patrolAt + 1 ≥ stackLines + 8 * x.redirects.length then { x with patrolAt := 0, passes := x.passes + 1, patrolCur := x.patrolH }
      else { x with patrolAt := x.patrolAt + 1 })

/-- HBM_REFRESH: a controller refreshes rows; their contents stay. A stack in self-refresh refreshes itself (R633, R649). -/
def execHbmRefresh (now stack : Nat) (s : State) : Out :=
  let s := s.at now
  .next (if !s.clocked || (s.stack stack).loopback != 0 then s else s.updStack stack fun x => { x with refreshed := s.now })

/-! ## Temperature (R647) -/

/-- HBM_TEMP_READ: each ms a stack's temperature is read, in °C, and answered (R585, R647). -/
def execHbmTempRead (now stack temp : Nat) (s : State) : Out :=
  let s := s.at now
  .next (if !s.powered || stack ≥ 8 then s else
    let trip := (s.stack stack).hot && temp ≥ 105
    let s := s.updStack stack fun x =>
      { x with
        temp := temp
        hot := temp ≥ 105
        refresh2x := if temp ≥ 85 then true else x.refresh2x && temp ≥ 83
        throttle := if temp ≥ 95 then true else x.throttle && temp ≥ 92 }
    if trip then s.thermTrip (152 + stack) else s)

end Sys2Proof.Machine
end

