-- ==== Sys2Proof/Machine/Reset.lean ====
section
/-! DEFINITION. Resets, boot and the pins that start them (R613, R625, R805–R820, R847, R854, R867). -/
namespace Sys2Proof.Machine

/-! ## Lines that become undefined (R188, R849) -/

/-- Lines become undefined: they hold nothing anybody wrote; their poison stays (R188, R640). -/
def MemSys.undefine (m : MemSys) (lines : List Nat) : MemSys :=
  let m1 := lines.foldl (fun (m1 : MemSys) l =>
    ({ m1 with hbm := Mem.drop m1.hbm (l * 128) (l * 128 + 128) } : MemSys).setMeta
      { line := l, gen := m.nextGen, poison := (m1.metaOf l).poison }) m
  { m1 with nextGen := m.nextGen + 1 }

/-- Lines of HBM with a buffered store, and dirty lines of the device cache. -/
def State.unsettled (s : State) : List Nat :=
  ((s.tiles.flatMap fun t => (t.sb.filter fun b => b.typ == 0 || b.typ == 2).map (·.line))
    ++ (s.mem.dc.filter (·.dirty)).map (·.info.line)).eraseDups

/-- All 33 slot keys are drawn (R193, R828). -/
def MemSys.drawKeys (m : MemSys) : MemSys :=
  { m with keys := (List.range 33).map (KeyId.drawn <| m.nextKey + ·), nextKey := m.nextKey + 33 }

/-! ## Cold reset (R806) -/

/-- What a cold reset leaves: every register, object and memory at its reset state, fresh keys, HBM undefined. The fuses, the pins, the
transaction on the SMP's wires, the test access port, and what the chip has sent stay; so do the tray controllers. -/
def State.coldState (s : State) (phase : Phase) (kind : Nat) : State :=
  let m : MemSys := { ({} : MemSys) with baseGen := s.mem.nextGen, nextGen := s.mem.nextGen + 1, nextKey := s.mem.nextKey + 1 }
  { ({} : State) with
    pending := s.pending
    freeCount := s.freeCount
    mem := m.drawKeys
    hst := { sent := s.hst.sent }
    phase := phase
    pwr := { ageFuses := s.pwr.ageFuses, bus := s.pwr.bus }
    fab := { sent := s.fab.sent, frames := s.fab.frames }
    smp := { cs := s.smp.cs, full := s.smp.full, resp := s.smp.resp, pend := s.smp.pend, lastBad := s.smp.lastBad,
             lastDiscarded := s.smp.lastDiscarded }
    pins := s.pins
    boot := { kind := kind }
    sec := { kwk := s.mem.nextKey, blobs := s.sec.blobs, nonce := s.sec.nonce + 1 }
    jtag := s.jtag
    tray := s.tray
    sw := s.sw
    mgmt := s.mgmt }

/-- A cold reset starts: the boot runs if power is good and CHIP_RST_N is not asserted; else the chip is held (R805, R813, R867). -/
def State.coldReset (s : State) (kind : Nat) : State :=
  s.coldState (if s.pins.pwrinGood && !s.pins.chipRst then .cold else .off) kind

/-! ## Warm reset (R807, R808) -/

/-- The counters of the objects that count since cold reset take in what the registers beside them show (R140, R807). -/
def State.carried (s : State) : Carry :=
  let add (a b : List Nat) : List Nat := List.zipWith (· + ·) a b
  let c := s.boot.carry
  { str := add c.str [s.str.found, s.str.escapes, s.str.deadlocks]
    ports := List.zipWith add c.ports (s.fab.ports.map fun p => [p.transient, p.lastingCnt, p.fecCorr, p.fecUnc])
    stackList := List.zipWith add c.stackList (s.hbm.stackList.map fun x => [x.ceTransient, x.ceLasting, x.ueTransient, x.ueLasting]) }

/-- What a stack keeps (R645, R656, R807). -/
def HbmStack.warm (x : HbmStack) : HbmStack :=
  { patrolH := x.patrolH, patrolCur := x.patrolH, spent := x.spent, redirects := x.redirects, loopback := 0 }

/-- What the power manager keeps (R552, R585, R807). -/
def Pwr.warm (p : Pwr) : Pwr :=
  { cap := p.cap, ageFuses := p.ageFuses, patina := p.patina, patinaSource := p.patinaSource, pkg := p.pkg
    parts := p.parts.map fun x => { energy := x.energy }
    bus := p.bus, thermtrip := p.thermtrip, maxTemp := p.maxTemp, stops := p.stops
    dips := { count := p.dips.count, lowest := p.dips.lowest, longest := p.dips.longest } }

/-- What the context manager keeps: counts since cold reset and the fault records' SEQ; during a coolant stop the records (R74–R76,
R807). -/
def CtxMgr.warm (m : CtxMgr) (stopped : Bool) : CtxMgr :=
  { ({} : CtxMgr) with
    ctxs := if stopped then
        m.ctxs.map fun x => if x.state == .killing then { ({} : Ctx) with state := .killing, part := x.part, record := x.record } else {}
      else List.replicate 64 {}
    nextId := m.nextId, faultSeq := m.faultSeq, eventDeadlocks := m.eventDeadlocks, drainRefusals := m.drainRefusals
    ctxKills := m.ctxKills, tlbInvalidations := m.tlbInvalidations }

/-- What a warm reset leaves from its trigger on (R807, R808, R188, R193, R847): LastResetKind will be `kind`; `enumerates`: the host
enumerates anew, so the PF BAR4 size returns to 16 GiB (R613). -/
def State.warmState (s : State) (kind : Nat) (enumerates : Bool) : State :=
  let m := s.mem.undefine s.unsettled
  let m1 : MemSys := { ({} : MemSys) with
    hbm := m.hbm, meta_ := m.meta_, baseGen := m.baseGen, nextGen := m.nextGen, nextKey := m.nextKey }
  { ({} : State) with
    pending := s.pending
    freeCount := s.freeCount
    now := s.now
    cm := s.cm.warm s.stopped
    mem := m1.drawKeys
    hst := { sent := s.hst.sent, bar4Size := if enumerates then 16 else s.hst.bar4Size }
    phase := .warm
    stopped := s.stopped
    pwr := s.pwr.warm
    log := s.log
    hbm := { stackList := s.hbm.stackList.map HbmStack.warm, recs := s.hbm.recs }
    fab := { sent := s.fab.sent, frames := s.fab.frames, chipId := s.fab.chipId }
    arm := { moves := s.arm.moves, placeClamps := s.arm.placeClamps, builds := s.arm.builds, stepLimits := s.arm.stepLimits }
    srt := { overloads := s.srt.overloads, toClamps := s.srt.toClamps, expired := s.srt.expired }
    smp := { cs := s.smp.cs, full := s.smp.full, resp := s.smp.resp, pend := s.smp.pend, lastBad := s.smp.lastBad,
             lastDiscarded := s.smp.lastDiscarded, mail := { since := s.now }, old := pruneMail s.now { since := s.now } (s.smp.mail :: s.smp.old) }
    pins := s.pins
    boot := { s.boot with kind := kind, powerDown := 0, carry := s.carried }
    sec := { kwk := s.sec.kwk, blobs := s.sec.blobs, nonce := s.sec.nonce, attempt := s.sec.attempt, rejects := s.sec.rejects }
    jtag := s.jtag
    tray := s.tray
    sw := s.sw
    mgmt := s.mgmt }

/-- A warm trigger (R805): during a reset or boot that already runs it merges into that reset (R809). -/
def State.warmReset (s : State) (kind : Nat) (enumerates : Bool) : State :=
  if s.serving then s.warmState kind enumerates else s

/-! ## Entering service -/

/-- The sideband engine leaves NOT_READY: no request has been taken since (R712). -/
def State.mailReady (s : State) : State := s.setMail { status := 0 }

/-- The core rails are commanded to the effective voltage of the lowest operating point, and every point up to the highest of the table
may be used (R553, R584). -/
def Pwr.start (p : Pwr) : Pwr :=
  { p with pointCeil := p.topPoint, dies := p.dies.map fun d => { d with want := some (p.effVolt (p.points.headD 0)) } }

/-- The chip enters service: ports train if ChipId is set (R658, R808). -/
def State.enter (s : State) (phase : Phase) : State :=
  let s := { s with phase := phase }.mailReady
  let s := s.updPwr Pwr.start
  let s := s.each [0, 1] fun die s => s.voutCommand die (s.pwr.effVolt (s.pwr.points.headD 0))
  if s.fab.chipId == 0xFFFF || phase != .ready then s else s.retrainAll

/-! ## The Patina banks (R549, R550, R818–R820) -/

/-- A bank's entry as fused: 64 bits. -/
def bankEntry (b i : Nat) : Nat := Config.patina b i % 2 ^ 64

/-- The entry in effect (R819). -/
def mergeEntry (a b : Nat) : Nat :=
  if a == b then a
  else
    match bitAt a 28, bitAt b 28 with
    | false, false => a
    | true, false => a
    | false, true => b
    | true, true =>
      min (bits a 0 8) (bits b 0 8) + 2 ^ 8 * max (bits a 8 12) (bits b 8 12) + 2 ^ 20 * max (bits a 20 8) (bits b 20 8) + 2 ^ 28

/-- The entries that differ between the banks, with 1 for a used one (R818, R820). -/
def patinaDiffs : List (Nat × Nat) :=
  ((List.range 16).filter fun i => bankEntry 0 i != bankEntry 1 i).map fun i =>
    (i, b2n (bitAt (bankEntry 0 i) 28 || bitAt (bankEntry 1 i) 28))

/-- Whether a table keeps R550 and the field ranges of R549. -/
def patinaOk (t : List Nat) : Bool :=
  let used := t.filter (bitAt · 28)
  bitAt (t.headD 0) 28 && used.all (fun e => 80 ≤ bits e 0 8 && bits e 0 8 ≤ 240) && t.all (fun e => e < 2 ^ 29)
    && ((used.map (bits · 0 8)).zip ((used.map (bits · 0 8)).drop 1)).all fun p => p.1 < p.2

/-- The table in effect and PatinaSource (R819, R820). -/
def Pwr.patinaBoot (p : Pwr) : Pwr :=
  { p with patina := (List.range 16).map fun i => mergeEntry (bankEntry 0 i) (bankEntry 1 i)
           patinaSource := if patinaDiffs.isEmpty then 0 else if patinaDiffs.any (·.2 == 1) then 2 else 1 }

/-! ## Boot (R811–R815) -/

/-- The header of the chip section (R812): a wrong magic, a length that is none or not there, or a nonzero reserved byte. -/
def bootFormatBad (o : BootObs) : Bool :=
  let n := field o.image 4 4
  field o.image 0 4 != 0x43585037 || n < 256 || n > 0x400000 || o.image.length < n || !zeroBytes o.image 12 148
/-- Whether its signature verifies: over bytes 0–159 and the body (R812). -/
def bootSigned (o : BootObs) : Bool :=
  Config.imageSigned (leNat (o.image.take 160 ++ (o.image.take (field o.image 4 4)).drop 256)) (leNat ((o.image.drop 160).take 96))
/-- ImageVersion of its header (R812). -/
def bootVersion (o : BootObs) : Nat := field o.image 8 4

/-- BootStatus, in the order in which the boot comes to its checks (R812–R814). -/
def bootStatus (o : BootObs) (table : List Nat) : Nat :=
  if !patinaOk table then 3
  else if !o.selfTest then 4
  else if bootFormatBad o then 2
  else if !bootSigned o then 1
  else if !o.hbm then 5
  else 0

/-- BOOT_COMPLETE: the boot ends: the Patina table is in effect and its differences are logged, BootStatus is set, and the chip is in
service or in ROM mode (R813–R815, R819, R820). -/
def execBootComplete (now : Nat) (obs : BootObs) (s : State) : Out :=
  let s := s.at now
  .next (if s.phase != .cold then s else
    let s := s.updPwr Pwr.patinaBoot
    let s := s.each patinaDiffs fun d s => s.logEvent 0x0060 11 1 (toLe 1 d.1 ++ toLe 1 d.2)
    let st := bootStatus obs s.pwr.patina
    let s := s.updBoot fun b =>
      { b with status := st, lastKind := b.kind
               imageVersion := if st == 0 then bootVersion obs else 0
               imageSequence := if st == 0 then obs.sequence % 2 ^ 32 else 0 }
    s.enter (if st == 0 then .ready else .rom))

/-! ## Cold triggers (R805, R867, R873) -/

/-- PWRIN_GOOD_RISE: power is good: a cold reset (R805); it waits for CHIP_RST_N (R813). -/
def execPwrinGoodRise (s : State) : Out :=
  .next (if s.pins.pwrinGood then s else { s with pins := { s.pins with pwrinGood := true } }.coldReset 1)

/-- PWRIN_GOOD_FALL: the chip holds itself in reset and releases its outputs (R867). -/
def execPwrinGoodFall (s : State) : Out :=
  .next (let s := { s with pins := { s.pins with pwrinGood := false } }.coldReset 1
    { s with smp := {}, jtag := {} })

/-- CHIP_RST_N_ASSERT: asserted for 10 µs: a cold reset, in which the chip stays held; one that the chip is already held in keeps its
kind (R805, R809). -/
def execChipRstNAssert (s : State) : Out :=
  let held := s.pins.chipRst
  let s := { s with pins := { s.pins with chipRst := true } }
  .next (if held || !s.pins.pwrinGood then s else s.coldReset (if s.phase == .off then s.boot.kind else 2))

/-- CHIP_RST_N_DEASSERT: with power good the cold boot starts (R813). -/
def execChipRstNDeassert (s : State) : Out :=
  let s := { s with pins := { s.pins with chipRst := false } }
  .next (if s.pins.pwrinGood && s.phase == .off then { s with phase := .cold } else s)

/-- ResetCommand is written: 1 is a warm trigger, 2 a cold one (R725, R736, R805, R854). -/
def State.resetCmd (s : State) (v : Nat) : State :=
  let bad := reservedUnless (v == 1 || v == 2)
  let s1 := s.command 0x7000 4 1 1 0 bad fun s => (s, 0)
  if !s.serving || s.cmdCheck 0x7000 0 bad != 0 then s1 else if v == 2 then s1.coldReset 3 else s1.warmReset 7 false

/-- RESET_COMMAND_COLD: ResetCommand 2 (R805, R854). -/
def execResetCommandCold (now val : Nat) (s : State) : Out := .next (if val != 2 then s else (s.at now).resetCmd val)

/-! ## Warm triggers (R625, R805, R809) -/

/-- RESET_COMMAND_WARM: ResetCommand 1 (R805, R854). -/
def execResetCommandWarm (now val : Nat) (s : State) : Out := .next (if val != 1 then s else (s.at now).resetCmd val)

/-- PF_FLR: a function-level reset of the PF (R625, R805). -/
def execPfFlr (now : Nat) (s : State) : Out := .next ((s.at now).warmReset 4 false)

/-- HOT_RESET: Hot Reset or Link Disable on the link (R613, R625). -/
def execHotReset (now : Nat) (s : State) : Out := .next ((s.at now).warmReset 5 true)

/-- PERST_N_ASSERT: the assertion edge is a warm trigger, and the endpoint is held in reset (R805, R810). -/
def execPerstNAssert (now : Nat) (s : State) : Out :=
  let s := s.at now
  let edge := !s.pins.perst
  let s := { s with pins := { s.pins with perst := true } }
  .next (if edge then s.warmReset 6 true else s)

/-- PERST_N_DEASSERT: the endpoint leaves reset; its link can train (R810). -/
def execPerstNDeassert (now : Nat) (s : State) : Out :=
  .next (let s := s.at now
    { s with pins := { s.pins with perst := false } })

/-- WARM_RESET_COMPLETE: the warm reset is complete; with COOLANT_OK deasserted a coolant stop stays latched, and its records stay
(R74, R595, R807–R809). `coolant`: COOLANT_OK is asserted. -/
def execWarmResetComplete (now : Nat) (coolant : Bool) (s : State) : Out :=
  let s := s.at now
  .next (if s.phase != .warm then s else
    let s := s.updBoot fun b => { b with lastKind := b.kind, warmResets := b.warmResets + 1 }
    let s := if coolant then { s with stopped := false }.updCm fun m => { m with ctxs := List.replicate 64 {} } else s
    s.enter (if s.boot.status == 0 then .ready else .rom))

end Sys2Proof.Machine
end

