-- ==== Sys2Proof/Machine/Keys.lean ====
section
/-! DEFINITION. The key store, the debug unlock, intrusion and the test access port (R828–R836, R843–R853). -/
namespace Sys2Proof.Machine

/-! ## Lines that leave the caches -/

/-- The lines of a partition, or with `none` of all, leave the near caches of every tile. -/
def State.nearDrop (s : State) (p : Option Nat) : State :=
  s.updTiles fun t =>
    match p with
    | none => { t with nc := [], ic := [] }
    | some p => { t with nc := t.nc.filter (·.part != p), ic := t.ic.filter (·.part != p) }

/-- The blocks of a partition, or with `none` all, leave the neural weight caches and the node stores. -/
def State.weightsDrop (s : State) (p : Option Nat) : State :=
  let s := s.updTiles fun t =>
    { t with chs := { t.chs with nwc := match p with
        | none => []
        | some p => t.chs.nwc.filter (·.part != p) } }
  { s with arm := { s.arm with arms := s.arm.arms.map fun a => { a with store := match p with
      | none => []
      | some p => a.store.filter (·.part != p) } } }

/-- Every line of a key slot is written back under the old key and invalidated everywhere (R831). -/
def State.slotFlush (s : State) (slot : Nat) : State :=
  let s := s.updMem fun m => (m.dc.filter (·.key == slot)).foldl MemSys.evict m
  if slot < 32 then (s.nearDrop (some slot)).weightsDrop (some slot) else s

/-- The device cache and the near caches lose every line without writeback (R849). -/
def State.cachesLost (s : State) : State :=
  let lines := (s.mem.dc.filter (·.dirty)).map (·.info.line)
  (s.updMem fun m => { m.undefine lines with dc := [], dcData := [] }).nearDrop none

/-! ## Key commands (R829–R831, R850, R853) -/

/-- The fields of SEC_KEY_CMD (R852). -/
def keyOp (v : Nat) : Nat := bits v 0 2
def cmdSlot (v : Nat) : Nat := bits v 8 6

def State.keyResult (s : State) (r : Nat) : State := s.updSec fun x => { x with busy := false, result := r }

/-- A fresh key is drawn into a slot; its identity (R829). -/
def State.drawKey (s : State) (slot : Nat) : KeyId × State :=
  (.drawn s.mem.nextKey, s.updMem fun m => { m with keys := m.keys.set slot (.drawn m.nextKey), nextKey := m.nextKey + 1 })

/-- The 32 bytes of the KWK of a draw (R828, R830). -/
def kwkBytes (kwk : Nat) : List Nat := natBytes 32 (Config.key kwk).toNat

/-- The 80 bytes of a blob: the key wrap of the key, the slot number and seven zero bytes (R830). -/
def blobBytes (b : Blob) : List Byte :=
  (kwWrap (kwkBytes b.kwk) (semiblocks 9 (natBytes 64 b.key.val ++ natBytes 8 b.slot))).map (BitVec.ofNat 8)

/-- The key and the slot number that the blob registers hold, if they pass the integrity check (R830): what an exported blob was made of, else
what unwrapping them gives. -/
def State.unwrap (s : State) : Option (KeyId × Nat) :=
  match s.sec.blobs.find? fun b => b.kwk == s.sec.kwk && blobBytes b == s.sec.blob with
  | some b => some (b.key, b.slot)
  | none =>
    (kwUnwrap (kwkBytes s.sec.kwk) (semiblocks 10 (s.sec.blob.map (·.toNat)))).map fun p =>
      (.loaded (bytesNat (p.flatten.take 64)), p.flatten.getD 64 0)

/-- A key command takes effect: GENERATE, LOAD or ERASE on a slot (R829–R831, R850). -/
def State.keyApply (s : State) (op slot : Nat) : State :=
  if (op == 1 || op == 2) && s.pins.intrusion then s.keyResult 5
  else if op == 2 then
    match s.unwrap with
    | none => s.keyResult 3
    | some (key, for_) =>
      if for_ != slot then s.keyResult 4
      else ((s.slotFlush slot).updMem fun m => { m with keys := m.keys.set slot key }).keyResult 0
  else
    let (k, s) := (s.slotFlush slot).drawKey slot
    let s := if op == 1 then
        let b : Blob := { kwk := s.sec.kwk, key := k, slot := slot }
        s.updSec fun x => { x with blob := blobBytes b, blobs := b :: x.blobs }
      else s
    s.keyResult 0

/-- A SEC_KEY_CMD write of a function: it drains the slot's partition, or every context for slot 32 (R46, R831, R850, R853). -/
def State.keyWrite (s : State) (fn v : Nat) : State :=
  let op := keyOp v
  let slot := cmdSlot v
  if fn != 0 || s.phase != .ready || s.pwr.thermtrip then s
  else if s.sec.busy then s.updSec fun x => { x with result := 2 }
  else if op == 0 || slot > 32 then s.keyResult 1
  else if op != 3 && s.pins.intrusion then s.keyResult 5
  else if s.cm.drain.isSome then (s.refuse acDrainBusy).keyResult 6
  else
    (s.updCm fun m => { m with drain := some { act := .key op slot, parts := [slot], all := slot == 32, time := s.now } }).updSec
      fun x => { x with busy := true }

/-- KEY_GENERATE: SEC_KEY_CMD with OP 1 (R829). -/
def execKeyGenerate (now fn : Nat) (val : DWord) (s : State) : Out :=
  .next (if keyOp val.toNat != 1 then s else ((s.at now).fullWrite fn).keyWrite fn val.toNat)

/-- KEY_LOAD: SEC_KEY_CMD with OP 2 (R829, R830). -/
def execKeyLoad (now fn : Nat) (val : DWord) (s : State) : Out :=
  .next (if keyOp val.toNat != 2 then s else ((s.at now).fullWrite fn).keyWrite fn val.toNat)

/-- KEY_ERASE: SEC_KEY_CMD with OP 3 (R829). -/
def execKeyErase (now fn : Nat) (val : DWord) (s : State) : Out :=
  .next (if keyOp val.toNat != 3 then s else ((s.at now).fullWrite fn).keyWrite fn val.toNat)

/-! ## Zeroise (R828, R846, R848) -/

/-- Every slot key and the KWK are destroyed and fresh ones drawn; it is counted (R854). -/
def State.zeroise (s : State) : State :=
  let k := s.mem.nextKey
  ((s.updMem fun m => ({ m with nextKey := m.nextKey + 1 } : MemSys).drawKeys).updSec fun x => { x with kwk := k }).updBoot fun b =>
    { b with zeroises := b.zeroises + 1 }

/-! ## Debug unlock (R843–R847) -/

/-- The challenge (R843). -/
def State.challenge (s : State) : List Byte :=
  toLe 32 (Config.nonce s.sec.nonce) ++ toLe 8 Config.uniqueId ++ toLe 4 s.sec.attempt ++ toLe 4 0

/-- A token verifies: scope 1, zero bytes 4–15 and a signature for the challenge (R843). -/
def State.tokenValid (s : State) (token : List Byte) : Bool :=
  field token 0 4 == 1 && zeroBytes token 4 12 && Config.tokenSigned (leNat s.challenge) (leNat token)

/-- A token write is judged; a new challenge is drawn (R844–R846). -/
def State.tokenWrite (s : State) (token : List Byte) : State × Nat :=
  if (s.cm.ctxs.any (·.state.live)) || s.pins.intrusion || s.sec.unlock == 5 || s.sec.unlock == 3 || s.sec.unlock == 2 then
    (s, acStateConflict)
  else
    let ok := s.tokenValid token
    let s := s.updSec fun x => { x with nonce := x.nonce + 1, attempt := x.attempt + 1 }
    if ok then (s.zeroise.updSec fun x => { x with unlock := 2 }, 0)
    else (s.updSec fun x => { x with rejects := x.rejects + 1, unlock := if x.rejects + 1 ≥ 3 then 5 else 4 }, 0)

/-- The whole of UnlockToken is written (R725, R736, R843–R846). -/
def State.tokenCmd (s : State) (token : List Byte) : State :=
  if !s.serving then s
  else
    let (s, code) :=
      if s.gatedNow 1 then (s, acStopped)
      else if s.phase == .down then (s, acStateConflict)
      else s.tokenWrite token
    (s.refuse code).answerWrite 0x7200 2 code 8 112

/-- UNLOCK_TOKEN: UnlockToken is written (R843–R846). -/
def execUnlockToken (now : Nat) (token : List Byte) (s : State) : Out :=
  .next (if token.length != 112 then s else (s.at now).tokenCmd token)

/-- UNLOCK_OPEN: the memories have been written with zeros, and the unlock is OPEN (R846). -/
def execUnlockOpen (now : Nat) (s : State) : Out :=
  let s := s.at now
  .next (if s.sec.unlock != 2 || !s.serving then s else
    let s := s.cachesLost.weightsDrop none
    let s := s.releaseImages fun _ => true
    let s := s.updTiles fun t =>
      { t with
        localMem := []
        groups := t.groups.map fun g => { g with lanes := g.lanes.map fun l => l.map fun x => { x with regs := x.regs.map fun _ => 0 } }
        tcus := t.tcus.map fun u => { u with gl := u.gl.map fun _ => 0, wins := u.wins.map fun w => w.map fun _ => 0, tr := u.tr.map fun _ => 0 } }
    let s := { s with srt := { s.srt with units := s.srt.units.map fun (u : Sorter) => { u with slots := [], bins := [], hitBins := [] } } }
    ((s.updSec fun x => { x with unlock := 3 }).logEvent 0x0061 11 3 []).logEvent 0x0062 11 3 (toLe 1 1))

/-! ## Intrusion (R848–R850) -/

/-- INTRUSION: INTRUSION_N has been asserted for 1 µs: keys are zeroised, the unlock is abandoned or closed, live contexts are killed,
and the caches lose their lines without writeback (R844, R848, R849). -/
def execIntrusion (now : Nat) (s : State) : Out :=
  let s := s.at now
  .next (if s.pins.intrusion then s else
    let s := { s with pins := { s.pins with intrusion := true } }
    if s.phase == .off then s
    else
      let s := (s.zeroise.updSec fun x => { x with unlock := if x.unlock == 5 then 5 else 0 }).logEvent 0x0062 11 3 (toLe 1 2)
      let cs := (List.range 64).filter s.live
      (s.acceptFaults (cs.map fun c => hostKill c 6)).cachesLost)

/-- INTRUSION_N_DEASSERT: key commands and tokens are accepted again (R844, R850). -/
def execIntrusionNDeassert (now : Nat) (s : State) : Out :=
  .next (let s := s.at now
    { s with pins := { s.pins with intrusion := false } })

/-! ## The test access port (R832–R835) -/

/-- The lifecycle as read (R854). -/
def lifecycle : Nat := if Config.lifecycle == 1 then 1 else 2

/-- Whether test instructions are open (R833, R846). -/
def State.testOpen (s : State) : Bool := lifecycle == 1 || s.sec.unlock == 3

/-- IDCODE (R834). -/
def idcode : Nat := bits Config.stepping 8 4 * 2 ^ 28 + 0x7240 * 2 ^ 12 + 0x4D3 * 2 + 1

/-- What the boundary cells of the sideband inputs capture, as levels, in the order of their balls (R857). -/
def State.boundary (s : State) : List Bool := [s.smp.cs, s.pins.pwrinGood, !s.pins.chipRst, !s.pins.perst, !s.pins.intrusion]

/-- The instruction in effect: one that drives pins acts as BYPASS while CHIP_RST_N is deasserted (R833). -/
def State.jtagActive (s : State) : Nat :=
  if [0x00, 0x03, 0x04, 0x05, 0x06].contains s.jtag.ir && !s.pins.chipRst then 0xFF else s.jtag.ir

/-- An instruction is loaded, and its data register captured: BYPASS captures one 0. -/
def State.jtagLoad (s : State) (code : Nat) : State :=
  if !s.pins.pwrinGood then s
  else
    let s := { s with jtag := { s.jtag with ir := code } }
    let dr := match s.jtagActive with
      | 0x01 => (List.range 32).map (bitAt idcode)
      | 0x00 => s.boundary
      | 0x02 => s.boundary
      | 0x05 => s.boundary
      | 0x06 => s.boundary
      | _ => [false]
    { s with jtag := { s.jtag with dr := dr } }

/-- JTAG_EXTEST (R833). -/
def execJtagExtest (s : State) : Out := .next (s.jtagLoad 0x00)
/-- JTAG_IDCODE (R834). -/
def execJtagIdcode (s : State) : Out := .next (s.jtagLoad 0x01)
/-- JTAG_SAMPLE_PRELOAD (R833). -/
def execJtagSamplePreload (s : State) : Out := .next (s.jtagLoad 0x02)
/-- JTAG_CLAMP (R833). -/
def execJtagClamp (s : State) : Out := .next (s.jtagLoad 0x03)
/-- JTAG_HIGHZ (R833). -/
def execJtagHighz (s : State) : Out := .next (s.jtagLoad 0x04)
/-- JTAG_EXTEST_PULSE (R833). -/
def execJtagExtestPulse (s : State) : Out := .next (s.jtagLoad 0x05)
/-- JTAG_EXTEST_TRAIN (R833). -/
def execJtagExtestTrain (s : State) : Out := .next (s.jtagLoad 0x06)

/-- JTAG_TEST_INSTRUCTION: a code from 0x10 to 0x3F: BYPASS while closed; what an open one does is not given (R833). -/
def execJtagTestInstruction (code : Nat) (s : State) : Out :=
  if code < 0x10 || code > 0x3F || !s.pins.pwrinGood then .next s
  else if s.testOpen then .refused .testInstructionEffectNotGiven
  else .next (s.jtagLoad 0xFF)

/-- JTAG_BYPASS: 0xFF and every code of no instruction (R833). -/
def execJtagBypass (code : Nat) (s : State) : Out :=
  .next (if code ≤ 0x06 || (0x10 ≤ code && code ≤ 0x3F) || code > 0xFF then s else s.jtagLoad 0xFF)

end Sys2Proof.Machine
end

