-- ==== Sys2Proof/Machine/HostLink.lean ====
section
/-! DEFINITION. The PCIe link and its functions: BAR4 and the apertures, link state, failed requests, function reset of a VF, MSI-X
(R594, R610–R628, R650–R653). -/
namespace Sys2Proof.Machine

/-! ## BAR4 (R618–R620) -/

/-- The size of a function's BAR4 in bytes (R613). -/
def State.bar4Bytes (s : State) (fn : Nat) : Nat := if fn == 0 then s.hst.bar4Size * 2 ^ 30 else 2 ^ 33

/-- The aperture entry of a segment of a VF; 0 where nothing was written (R653). -/
def HostLink.aperture (h : HostLink) (vf seg : Nat) : Nat :=
  ((h.apertures.find? fun a => a.vf == vf && a.seg == seg).map (·.val)).getD 0

/-- The key slot and physical address that an offset of a function's BAR4 reaches; none: there is no mapping for the access (R618,
R619). -/
def State.bar4Map (s : State) (fn offset : Nat) (write : Bool) : Option (Nat × Nat) :=
  if offset ≥ s.bar4Bytes fn then none
  else if fn == 0 then
    let pa := s.hst.bar4Base + offset
    if pa ≥ hbmEnd then none else some (32, pa)
  else
    let e := s.hst.aperture fn (offset / 2 ^ 21)
    if !bitAt e 0 || (write && !bitAt e 1) then none else some (fn - 1, bits e 21 17 * 2 ^ 21 + offset % 2 ^ 21)

/-- HBM_POISON_READS of the stack of every poisoned line that a read through BAR4 met rises by 1 (R638). -/
def State.poisonReads (s : State) (key pa bytes : Nat) : State :=
  let lines := (List.range (bytes / 128 + 2)).map (pa / 128 + ·) |>.filter fun l => l * 128 < pa + bytes && (s.mem.read key (l * 128) 1).2.2
  lines.foldl (fun s l => { s with hbm := { s.hbm with stackList := s.hbm.stackList.modify (stackOf (l * 128)) fun x =>
    { x with poisonReads := x.poisonReads + 1 } } }) s

/-- BAR4_READ: a read of BAR4 is performed at the device cache, or completes with an error; during a stop with Completer Abort. An AtomicOp
request completes with Unsupported Request (R594, R618–R620, R638). -/
def execBar4Read (fn offset bytes : Nat) (atomicOp : Bool) (s : State) : Out :=
  .next (if !(s.phase == .ready || s.phase == .down) || fn > 32 then s
    else if s.hst.d3.getD fn false then s.reply .unsupported
    else if s.hst.vfFlr.getD fn false then s.reply (.bytes (List.replicate bytes 0))
    else if !s.clocked then s.reply .completerAbort
    else if atomicOp then s.reply .unsupported
    else
      match s.bar4Map fn offset false with
      | none => s.reply .unsupported
      | some (key, pa) =>
        let (m, l, bad) := s.mem.readMany key (bytes / 128 + 2) pa bytes
        let s := { s with mem := m }
        if bad then (s.poisonReads key pa bytes).reply .poisoned
        else s.reply (.bytes l))

/-- BAR4_WRITE: a write of BAR4 is performed at the device cache, or dropped and reported through AER (R594, R618–R620). -/
def execBar4Write (fn offset : Nat) (data : List Byte) (s : State) : Out :=
  .next (if !(s.phase == .ready || s.phase == .down) || fn > 32 || s.hst.vfFlr.getD fn false || s.hst.d3.getD fn false then s
    else if !s.clocked then s.post .aer
    else
      match s.bar4Map fn offset true with
      | none => s.post .aer
      | some (key, pa) => s.updMem fun m => m.writeMany key (data.length / 128 + 2) pa data)

/-! ## Failed requests (R623, R624) -/


/-- A COPY that reads HOST memory. -/
def State.hostCopy (s : State) (k : Copy) : Bool :=
  match (s.resolve .copy k.ctx k.src 1 .load).2 with
  | .ok (x, _) => x.typ == 1
  | .error _ => false

/-- A request to the host fails: whoever issued it faults with PERMISSION (R623). `host`: bytes that earlier completions of the
same instruction returned. -/
def State.requestFails (s : State) (req : Request) (host : Mem) : State :=
  match req with
  | .load id =>
    match s.load? id with
    | none => s
    | some r =>
      if r.isAtomic then (if r.atomOut then (s.cplFailed 1).atomGo r host true else s)
      else if (s.hostWants r).isEmpty && s.hostMissing r host then (s.cplFailed 1).loadDone r host
      else s
  | .fence tile tcu slot dest =>
    match s.fence? tile tcu slot with
    | none => s
    | some f =>
      match f.dests[dest]? with
      | some d => if f.asked.isSome && s.live f.ctx then (s.cplFailed 1).fenceFault f d else s
      | none => s
  | .line tile index =>
    match (s.tile tile).port.lines[index]? with
    | none => s
    | some l => if l.host && l.sent then s.lineLost tile l else s
  | .copy id =>
    match s.cm.copies.find? (·.id == id) with
    | none => s
    | some k => if s.hostCopy k && s.live k.ctx then s.copyDone k host else s

/-- COMPLETION_FAILURE: an outbound request ends with Unsupported Request, Completer Abort or a poisoned completion (R623). -/
def execCompletionFailure (req : Request) (host : List (Nat × Byte)) (s : State) : Out :=
  .next (if !s.clocked then s else s.requestFails req host)

/-- When an outstanding request left. -/
def State.sentAt (s : State) (req : Request) : Option Nat :=
  match req with
  | .load id => (s.load? id).map (·.since)
  | .fence tile tcu slot _ => (s.fence? tile tcu slot).bind (·.asked)
  | .line tile index => ((s.tile tile).port.lines[index]?).map (·.since)
  | .copy id => (s.cm.copies.find? (·.id == id)).map (·.since)

/-- COMPLETION_TIMEOUT: an outbound request has had no completion for 10 ms (R623). -/
def execCompletionTimeout (now : Nat) (req : Request) (host : List (Nat × Byte)) (s : State) : Out :=
  let s := s.at now
  .next (if !s.clocked || !(s.sentAt req).any (· + 10000000 ≤ s.now) then s else s.requestFails req host)

/-! ## The link (R612, R624, R652) -/

/-- DL_Down: outstanding requests to the host fail at once, and posted writes are discarded until the link is up (R624). -/
def State.linkDown (s : State) : State :=
  if !s.hst.up then s
  else
    let s := s.updHst fun h => { h with up := false, speed := 0, width := 0, flit := false, linkLost := true }
    if !s.clocked then s else
    let loads := (s.tiles.flatMap (·.loads)).filter fun r => !(s.hostLanes r).isEmpty
    let s := s.each loads fun r s =>
      match s.load? r.id with
      | some x => s.loadLost x
      | none => s
    let s := s.each (List.range 144) fun t s =>
      s.each ((s.tile t).port.lines.filter PortLine.host) fun l s => s.lineLost t l
    let s := s.each (List.range 144) fun t s =>
      let out (tcu : Bool) (slot : Nat) : Option FenceW := (s.fence? t tcu slot).filter fun f => f.asked.isSome && s.live f.ctx
      s.each ((s.tile t).groups.filterMap (fun g => out false g.slot) ++ (List.range 4).filterMap (out true)) fun f s => s.fenceLost f
    s.each (s.cm.copies.filter s.hostCopy) fun k s => if s.live k.ctx then s.copyDone k [] else s

/-- LINK_DOWN: the data link goes down (R624). -/
def execLinkDown (s : State) : Out := .next s.linkDown

def HostLink.trained (h : HostLink) (speed width : Nat) (flit : Bool) : HostLink :=
  { h with speed := speed, width := width, flit := flit }

/-- A configuration request (R610, R613, R618): Resizable BAR takes the five sizes of PF BAR4, the largest with HST_BAR4_BASE 0; a function enters or leaves
D3hot; DOE answers Discovery alone, with its one entry, the protocol itself. A VF whose reset is in progress answers that the request is to be made
again (R625). -/
def State.configure (s : State) (r : CfgReq) : State :=
  let again (fn : Nat) (f : State) : State := if s.hst.vfFlr.getD fn false then s.reply .configRetry else f
  match r with
  | .resizeBar4 n =>
    if [16, 32, 64, 128, 256].contains n then
      s.updHst fun h => { h with bar4Size := n, bar4Base := if n == 256 then 0 else h.bar4Base }
    else s
  | .power fn d3 => again fn (s.updHst fun h => { h with d3 := h.d3.set fn d3 })
  | .doe vendor protocol index =>
    if vendor == 1 && protocol == 0 && index == 0 then s.reply (.bytes (toLe 2 1 ++ toLe 1 0 ++ toLe 1 0)) else s

/-- The link's power state is L1: it is up and every function is in D3hot (R610). -/
def HostLink.l1 (h : HostLink) : Bool := h.up && h.d3.all id

/-- LINK_UP: the data link comes up: posted writes leave again (R624, R652); the endpoint must be out of reset, and not in a
loopback (R649, R808, R810, R815). With the link up, the host's configuration requests take effect, which have no row of their own (log 154). -/
def execLinkUp (speed width : Nat) (flit : Bool) (cfg : List CfgReq) (s : State) : Out :=
  .next (if !(s.phase == .ready || s.phase == .down) || s.pins.perst || (s.loop.state == 1 && s.loop.depth ≤ 2) then s
    else
      let s := if s.hst.up then s else s.updHst fun h => { h.trained speed width flit with up := true }
      s.each cfg fun r s => s.configure r)

/-- LINK_RETRAIN: the link retrains to another rate or width (R612). `replays`: the link replays made since the last such row, which HST_REPLAYS
takes in (R650; log 154). -/
def execLinkRetrain (speed width : Nat) (flit : Bool) (replays : Nat) (s : State) : Out :=
  .next (if !s.hst.up then s else s.updHst fun h =>
    { h.trained speed width flit with retrains := h.retrains + 1, replays := h.replays + replays })

/-! ## MSI-X and VF reset (R625–R628) -/

/-- MSIX_UNMASK: the host makes a vector usable: its entry is unmasked and its function's MSI-X enabled; a pending interrupt is then
sent (R628). -/
def execMsixUnmask (vector : Nat) (s : State) : Out :=
  .next (match s.hst.vectors[vector]? with
    | none => s
    | some x =>
      let s := s.updHst fun h =>
        { h with vectors := h.vectors.set vector {masked := false, pending := false}, fnMsix := h.fnMsix.set (vectorFn vector) true }
      if x.pending then s.post (.msix vector) else s)

/-- VF_FLR: the live contexts of the VF's partition are killed, its queues disabled and its MSI-X table reset; the reset lasts until
those kills have ended (R625, R883). -/
def execVfFlr (vf : Nat) (s : State) : Out :=
  .next (if !s.clocked || vf < 1 || vf > 32 || s.hst.vfFlr.getD vf false then s else
    let p := vf - 1
    let cs := (List.range 64).filter fun c => s.live c && (s.ctx c).part == p
    let s := s.acceptFaults (cs.map fun c => hostKill c 7)
    let s := s.updCm fun m => { m with queues := m.queues.map fun q => if q.part == p then { q with enable := false } else q }
    let busy := s.cm.ctxs.any fun x => x.state == .killing && x.part == p
    s.updHst fun h =>
      { h with vfFlr := h.vfFlr.set vf busy, fnMsix := h.fnMsix.set vf false, d3 := h.d3.set vf false
               vectors := h.vectors.mapIdx fun i v => if vectorFn i == vf then {} else v })

end Sys2Proof.Machine
end

