-- ==== Sys2Proof/Machine/Loopback.lean ====
section
/-! DEFINITION. The loopback catalogue, and the commands RetireRow and PartLearnReset (R570, R645, R648, R649, R697, R698,
R837–R841). -/
namespace Sys2Proof.Machine

/-- The fields of LoopbackCommand (R837). -/
def loopDepth (c : List Byte) : Nat := field c 0 1
def loopInst (c : List Byte) : Nat := field c 1 1
def loopPattern (c : List Byte) : Nat := field c 2 1
def loopMs (c : List Byte) : Nat := field c 4 4

/-- The instances and patterns of a depth (R837). -/
def loopForm (d inst pattern : Nat) : Bool :=
  match d with
  | 1 => inst == 0 && pattern == 1
  | 2 => inst == 0 && (pattern == 1 || pattern == 2)
  | 3 => inst < 8 && (pattern == 1 || pattern == 3)
  | 4 => inst < 8 && (pattern == 1 || pattern == 3)
  | 5 => inst < 18 && (pattern == 1 || pattern == 2)
  | 6 => inst < 18 && (pattern == 1 || pattern == 2)
  | 7 => inst < 18 && pattern == 1
  | 8 => inst < 18 && pattern == 1
  | _ => false

/-- VALUE_RANGE for a duration outside 1 to 120,000 ms, VALUE_RESERVED for a depth, instance, pattern or reserved byte outside the table
(R725, R837, R838). -/
def loopBad (c : List Byte) : Nat :=
  if loopMs c < 1 || loopMs c > 120000 then acValueRange
  else if !loopForm (loopDepth c) (loopInst c) (loopPattern c) || field c 3 1 != 0 then acValueReserved
  else 0

/-- What a depth needs (R649, R698, R815, R837). -/
def State.loopMay (s : State) (d inst : Nat) : Bool :=
  s.loop.state != 1 &&
    (if d ≤ 2 then true
     else if d ≤ 4 then !(s.cm.ctxs.any (·.state.live))
     else s.phase != .rom && (s.port inst).state == 3)

/-- A LOOPBACK flit: 0 ends the partner's loopback, 2 and 3 ask for one (R698). -/
def State.sendLoop (s : State) (p code : Nat) : State := s.sendFlit p 2 0 false (toLe 1 3 ++ toLe 1 code)

/-- A loopback starts: the PCIe link goes down; the stack goes into self-refresh; the port is in loopback and its partner asked
(R649, R698, R837). -/
def State.loopStart (s : State) (c : List Byte) : State × Nat :=
  let d := loopDepth c
  let i := loopInst c
  if !s.loopMay d i then (s, acStateConflict)
  else
    let s := { s with loop := { state := 1, depth := d, inst := i, pattern := loopPattern c, start := s.now, ms := loopMs c } }
    if d ≤ 2 then (s.linkDown, 0)
    else if d ≤ 4 then (s.updStack i fun x => { x with loopback := d - 2 }, 0)
    else
      let s := s.updPort i fun x => { x with state := 6 }
      (if d == 6 then s.sendLoop i 2 else if d == 7 then s.sendLoop i 3 else s, 0)

/-- LoopbackCommand is written (R714, R725, R837, R838). -/
def State.loopCmd (s : State) (c : List Byte) : State :=
  s.command 0x7100 1 8 8 (if loopDepth c ≤ 2 then 0 else if loopDepth c ≤ 4 then 1 else 2) (loopBad c) fun s => s.loopStart c

/-- LoopbackCommand as a row writes it: only with the row's own depth. -/
def State.loopRow (s : State) (d now : Nat) (c : List Byte) : State :=
  if c.length != 8 || loopDepth c != d then s else (s.at now).loopCmd c

/-- LOOPBACK_PCIE_PIPE: depth 1 (R648, R837). -/
def execLoopbackPciePipe (now : Nat) (cmd : List Byte) (s : State) : Out := .next (s.loopRow 1 now cmd)
/-- LOOPBACK_PCIE_NEAR_END: depth 2 (R648, R837). -/
def execLoopbackPcieNearEnd (now : Nat) (cmd : List Byte) (s : State) : Out := .next (s.loopRow 2 now cmd)
/-- LOOPBACK_HBM_CONTROLLER: depth 3 (R648, R649, R837). -/
def execLoopbackHbmController (now : Nat) (cmd : List Byte) (s : State) : Out := .next (s.loopRow 3 now cmd)
/-- LOOPBACK_HBM_PHY: depth 4 (R648, R649, R837). -/
def execLoopbackHbmPhy (now : Nat) (cmd : List Byte) (s : State) : Out := .next (s.loopRow 4 now cmd)
/-- LOOPBACK_NGUA_NEAR_END_PCS: depth 5 (R697, R698, R837). -/
def execLoopbackNguaNearEndPcs (now : Nat) (cmd : List Byte) (s : State) : Out := .next (s.loopRow 5 now cmd)
/-- LOOPBACK_NGUA_FAR_END_PMA: depth 6 (R697, R698, R837). -/
def execLoopbackNguaFarEndPma (now : Nat) (cmd : List Byte) (s : State) : Out := .next (s.loopRow 6 now cmd)
/-- LOOPBACK_NGUA_LINK_LAYER: depth 7 (R697, R698, R837). -/
def execLoopbackNguaLinkLayer (now : Nat) (cmd : List Byte) (s : State) : Out := .next (s.loopRow 7 now cmd)
/-- LOOPBACK_NGUA_TRANSACTION: depth 8 (R697, R698, R837). -/
def execLoopbackNguaTransaction (now : Nat) (cmd : List Byte) (s : State) : Out := .next (s.loopRow 8 now cmd)

/-- The running loopback ends, and a partner that was asked is told (R698, R839). -/
def State.loopEnd (s : State) (st : Nat) : State :=
  let d := s.loop.depth
  let p := s.loop.inst
  if s.loop.state != 1 then s
  else if d == 6 || d == 7 then (s.loopHalt st).sendLoop p 0
  else s.loopHalt st

/-- LoopbackStop is written (R839, R841). -/
def State.loopStopCmd (s : State) (v : Nat) : State :=
  s.command 0x7100 5 1 1 0 (reservedUnless (v == 1)) fun s => (s.loopEnd 4, 0)

/-- LOOPBACK_STOP (R839). -/
def execLoopbackStop (now val : Nat) (s : State) : Out := .next ((s.at now).loopStopCmd val)

/-- A loopback passes without a bit error after FEC; far-end PMA also needs every lane at 2.4e-5 or below; a partner that did not take
part makes it fail (R698, R797, R840). -/
def loopPass (d : Nat) (o : LoopObs) : Bool :=
  o.errors == 0 && (d != 6 || o.lanes.all fun e => e * 1000000 ≤ 24 * o.laneBits) && ((d != 6 && d != 7) || o.partner)

/-- LOOPBACK_END: the loopback's duration has passed, or its partner ignored the request; its result is set (R698, R839–R841). -/
def execLoopbackEnd (now : Nat) (obs : LoopObs) (s : State) : Out :=
  let s := s.at now
  .next (
    let d := s.loop.depth
    let ignored := (d == 6 || d == 7) && !obs.partner
    if s.loop.state != 1 || !s.serving || (s.now < s.loop.start + s.loop.ms * 1000000 && !ignored) then s
    else (s.loopEnd (if loopPass d obs then 2 else 3)).updLoop fun x =>
      { x with bits := obs.bits, errors := obs.errors
               lanes := if d == 5 || d == 6 then (List.range 8).map fun i => obs.lanes.getD i 0 else x.lanes })

/-! ## RetireRow (R645, R646) -/

/-- RetireRow is written: a row that is not redirected is retired by command (R645, R646, R725). -/
def State.retireCmd (s : State) (v : Nat) : State :=
  let stack := bits v 0 3
  let pc := bits v 3 5
  let row := bits v 8 20
  s.command 0x5480 1 3 4 1 (if row ≥ rowCount || v ≥ 2 ^ 28 then acValueRange else 0) fun s =>
    (if (s.stack stack).redirects.contains (pc, row) || (s.stack stack).copies.any (fun k => k.pc == pc && k.row == row) then s
     else s.retireRow stack pc row 3, 0)

/-- RETIRE_ROW (R645). -/
def execRetireRow (now : Nat) (val : Word) (s : State) : Out := .next ((s.at now).retireCmd val.toNat)

/-! ## PartLearnReset (R570) -/

/-- PartLearnReset of a partition is written (R570, R725). -/
def State.learnCmd (s : State) (p v : Nat) : State :=
  s.command (0x2400 + p) 5 1 1 1 (reservedUnless (v == 1)) fun s => (s.learnReset p, 0)

/-- PART_LEARN_RESET (R570). -/
def execPartLearnReset (p val : Nat) (s : State) : Out := .next (if p ≥ 32 then s else s.learnCmd p val)

end Sys2Proof.Machine
end

