-- ==== Sys2Proof/Machine/Apply.lean ====
section
/-! DEFINITION. The apply logic: what each settable value is, its apply class and scope, the checks between values, staging, drains and
the apply itself (R51, R83–R98, R161, R168, R169, R200, R453, R514, R570, R573, R658, R724, R730). -/
namespace Sys2Proof.Machine

/-! ## Classes and scopes (R83–R87) -/

/-- The apply classes in the order of R90. -/
inductive Cls where
  | immediate
  | epoch
  | drain
deriving DecidableEq, Repr, Inhabited

def Cls.rank : Cls → Nat
  | .immediate => 0 | .epoch => 1 | .drain => 2

/-- The class of a value (R13, R14). -/
def clsOf : Tgt → Cls
  | .ctxPtroot _ => .drain
  | .ctxTiles _ _ => .drain
  | .partEnable _ => .drain
  | .wayMask _ => .drain
  | .qBase _ => .drain
  | .resBase _ => .drain
  | .resCtrl _ => .drain
  | .srtDisp _ => .drain
  | .chipId => .drain
  | .fabQBase _ _ => .drain
  | .fabQCtrl _ _ => .drain
  | .srtBox _ _ => .epoch
  | .srtMinTo _ => .epoch
  | .srtMaxTo _ => .epoch
  | .srtExpire _ => .epoch
  | .srtCeil _ => .epoch
  | .srtOvl _ => .epoch
  | .pwrMode => .epoch
  | .floor _ => .epoch
  | .ceiling _ => .epoch
  | .fraction _ => .epoch
  | .pops _ => .epoch
  | .cap => .immediate
  | .patrol _ => .immediate
  | .adminDown _ => .immediate
  | .echo => .immediate

/-- The partition a value belongs to; none: it is chip-wide (R84, R85, R87). -/
def State.partOf (s : State) : Tgt → Option Nat
  | .ctxPtroot c => some (s.ctx c).part
  | .ctxTiles c _ => some (s.ctx c).part
  | .partEnable p => some p
  | .wayMask p => some p
  | .qBase q => some (s.queue q).part
  | .resBase p => some p
  | .resCtrl p => some p
  | .srtDisp p => some p
  | .chipId => none
  | .fabQBase c _ => some (s.ctx c).part
  | .fabQCtrl c _ => some (s.ctx c).part
  | .srtBox p _ => some p
  | .srtMinTo p => some p
  | .srtMaxTo p => some p
  | .srtExpire p => some p
  | .srtCeil p => some p
  | .srtOvl p => some p
  | .pwrMode => none
  | .floor p => some p
  | .ceiling p => some p
  | .fraction p => some p
  | .pops p => some p
  | .cap => none
  | .patrol _ => none
  | .adminDown _ => none
  | .echo => none

/-! ## A value takes effect -/

/-- A partition's way mask changes: the lines in the ways it loses are written back if dirty and invalidated (R169). -/
def MemSys.setMask (m : MemSys) (p v : Nat) : MemSys :=
  let old := m.wayMask.getD p 0
  let gone := m.dc.filter fun e => bitAt old e.way && !bitAt v e.way
  let m := gone.foldl MemSys.evict m
  { m with wayMask := m.wayMask.set p v }

/-- A partition becomes enabled or disabled: enabling restarts its learned energies and bin timeouts (R51, R514, R570). -/
def State.setEnable (s : State) (p : Nat) (v : Bool) : State :=
  let s1 := s.updPart p fun x => { x with enabled := v }
  if !v || (s.part p).enabled then s1
  else
    let s1 := s1.learnReset p
    { s1 with srt := { s1.srt with units := (s1.srt.units.map fun (u : Sorter) => { u with tos := u.tos.set p {} }) } }

/-- The bytes of a tile mask word replaced (CTX_TILES0–2). -/
def setWord (v i w : Nat) : Nat := bits v 0 (64 * i) + w * 2 ^ (64 * i) + bits v (64 * i + 64) 128 * 2 ^ (64 * i + 64)

/-- One value takes effect; false: it is refused at that moment (R453). -/
def State.set (s : State) (x : Setting) : State × Bool :=
  let v := x.val
  match x.tgt with
  | .ctxPtroot c =>
    ((s.updCtx c fun k => { k with root := v }).updMem fun m => { m with tlb := m.tlb.filter (·.ctx != c) }, true)
  | .ctxTiles c i => (s.updCtx c fun k => { k with tiles := setWord k.tiles i v % 2 ^ 144 }, true)
  | .partEnable p => (s.setEnable p (v == 1), true)
  | .wayMask p => (s.updMem fun m => m.setMask p v, true)
  | .qBase q => (s.updQueue q fun k => { k with base := v }, true)
  | .resBase p => (s.updArmPart p fun k => { k with resBase := v }, true)
  | .resCtrl p =>
    if bitAt v 1 then
      let (s1, ok) := s.reload p
      (if ok then s1.updArmPart p fun k => { k with adapt := bitAt v 0 } else s1, ok)
    else (s.updArmPart p fun k => { k with adapt := bitAt v 0 }, true)
  | .srtDisp p => (s.updSrtPart p fun k => { k with dispSlots := bits v 0 4, dispRegs := bits v 4 8, dispLocal := bits v 12 11 }, true)
  | .chipId => ((s.updFab fun f => { f with chipId := v }).retrainAll, true)
  | .fabQBase c q => (s.updFab fun f => { f with queues := f.queues.modify (4 * c + q) fun k => { k with base := v } }, true)
  | .fabQCtrl c q =>
    (s.updFab fun f => { f with queues := f.queues.modify (4 * c + q) fun k => { k with enable := bitAt v 0, log2 := bits v 1 4 } }, true)
  | .srtBox p i => (s.updSrtPart p fun k => if i == 0 then { k with box0 := v } else { k with box1 := v }, true)
  | .srtMinTo p => (s.updSrtPart p fun k => { k with minTo := v }, true)
  | .srtMaxTo p => (s.updSrtPart p fun k => { k with maxTo := v }, true)
  | .srtExpire p => (s.updSrtPart p fun k => { k with expire := v }, true)
  | .srtCeil p => (s.updSrtPart p fun k => { k with ceil := v }, true)
  | .srtOvl p => (s.updSrtPart p fun k => { k with ovlVec := v }, true)
  | .pwrMode => (s.updPwr fun k => { k with fixed := v == 1 }, true)
  | .floor p => (s.updPwrPart p fun k => { k with floor := v }, true)
  | .ceiling p => (s.updPwrPart p fun k => { k with ceiling := v }, true)
  | .fraction p => (s.updPwrPart p fun k => { k with fraction := v }, true)
  | .pops p => (s.updPwrPart p fun k => { k with pops := (toLe 8 v).map (·.toNat) }, true)
  | .cap => (s.updPwr fun k => { k with cap := v }, true)
  | .patrol n => (s.updStack n fun k => { k with patrolH := v }, true)
  | .adminDown p => (s.adminWrite p (v == 1), true)
  | .echo => (s.updSmp fun k => { k with echo := toLe 64 v }, true)

/-- Values take effect together; false: one was refused, and the state then holds nothing of the others. -/
def State.setAll (s : State) : List Setting → State × Bool
  | [] => (s, true)
  | x :: l =>
    match s.set x with
    | (s1, true) => s1.setAll l
    | (s1, false) => (s1, false)

/-- Values take effect as one apply (R89). -/
def State.applyNow (s : State) (l : List Setting) : State := (s.setAll l).1.applied

/-! ## Checks between values (R92, R168, R573, R724, R730) -/

/-- The settings that wait: staged for an epoch or held by a drain. -/
def State.waiting_ (s : State) : List Setting :=
  s.cm.staged.flatMap (·.settings) ++ match s.cm.drain with
    | some d => match d.act with
      | .settings l _ => l
      | .key _ _ => []
    | none => []

/-- Those of them that a commit has staged (R724). -/
def State.commitWaiting (s : State) : List Setting :=
  (s.cm.staged.filter (·.commit)).flatMap (·.settings) ++ match s.cm.drain with
    | some d => match d.act with
      | .settings l true => l
      | _ => []
    | none => []

/-- The values of a target in a list. -/
def valuesOf (l : List Setting) (t : Tgt) : List Nat := (l.filter (·.tgt == t)).map (·.val)

/-- The fraction of a partition counted in the sum: a new value, else the highest in effect or staged (R573). -/
def State.fractionOf (s : State) (l : List Setting) (p : Nat) : Nat :=
  match (valuesOf l (.fraction p)).getLast? with
  | some v => v
  | none => (valuesOf s.waiting_ (.fraction p)).foldl max (s.pwrPart p).fraction

def isFraction : Tgt → Bool
  | .fraction _ => true
  | _ => false

/-- The masks of a partition that must not meet another's: a new one, else the ones in effect and staged (R168). -/
def State.maskOf (s : State) (l : List Setting) (p : Nat) : Nat :=
  match (valuesOf l (.wayMask p)).getLast? with
  | some v => v
  | none => (valuesOf s.waiting_ (.wayMask p)).foldl (· ||| ·) (s.mem.wayMask.getD p 0)

def isMask : Tgt → Option Nat
  | .wayMask p => some p
  | _ => none

/-- New masks meet another partition's. -/
def State.masksMeet (s : State) (l : List Setting) : Bool :=
  (l.filterMap fun x => isMask x.tgt).any fun p =>
    (List.range 32).any fun q => q != p && (s.maskOf l p &&& s.maskOf l q) != 0

/-- A context of a partition is READY, RUNNING or KILLING (R51). -/
def State.partBusy (s : State) (p : Nat) : Bool :=
  s.cm.ctxs.any fun x => x.part == p && (x.state.live || x.state == .killing)

/-- A value that disables a partition which may not be disabled now (R51). -/
def State.mayNotDisable (s : State) (l : List Setting) : Bool :=
  l.any fun x => match x.tgt with
    | .partEnable p => x.val == 0 && s.partBusy p
    | _ => false

/-- The rules between objects, with the values that would be in effect, then OBJECT_PENDING, then the states that the change needs, in
the order of R725 (R51, R92, R98, R168, R573, R724, R730, R736). -/
def State.changeCheck (s : State) (l : List Setting) (commit : Bool) : Nat :=
  if l.any (fun x => isFraction x.tgt) && ((List.range 32).map (s.fractionOf l)).foldl (· + ·) 0 > 256 then acFractionSum
  else if s.masksMeet l then acWaymaskOverlap
  else if l.any fun x => (if commit then s.waiting_ else s.commitWaiting).any (·.tgt == x.tgt) then acObjectPending
  else if s.phase == .down || s.mayNotDisable l then acStateConflict
  else if l.any (fun x => clsOf x.tgt == .drain) && s.cm.drain.isSome then acDrainBusy
  else 0

/-! ## Taking a change (R83–R87, R90, R91, R93) -/

/-- The strictest class among values (R90). -/
def strictest (l : List Setting) : Cls :=
  if l.any fun x => clsOf x.tgt == .drain then .drain
  else if l.any fun x => clsOf x.tgt == .epoch then .epoch
  else .immediate

/-- A single EPOCH write: a value staged by an earlier single write is replaced and keeps its time; the rest are staged now (R84–R86). DESIGN
CHOICE (log 136): this holds value by value, so that a write of SRT_PART_CTRL of which some fields are staged replaces these in their group and
stages the others as a group of their own. -/
def State.stage (s : State) (l : List Setting) (commit : Bool) : State :=
  let has (t : Tgt) : Bool := !commit && s.cm.staged.any fun g => !g.commit && g.settings.any (·.tgt == t)
  let parts := (l.map fun x => s.partOf x.tgt).eraseDups
  let rest := l.filter fun x => !has x.tgt
  s.updCm fun m =>
    { m with
      staged :=
        (m.staged.map fun g =>
          if commit || g.commit then g
          else { g with settings := g.settings.map fun y => { y with val := (valuesOf l y.tgt).getLastD y.val } })
          ++ (if rest.isEmpty then [] else
            [{ settings := rest, part := if parts.length == 1 then parts.headD none else none, time := s.now, commit := commit }]) }

/-- A drain is accepted for values (R87, R93, R200). -/
def State.drainFor (s : State) (l : List Setting) (commit : Bool) : State :=
  let parts := l.map fun x => s.partOf x.tgt
  s.updCm fun m =>
    { m with drain := some { act := .settings l commit, parts := (parts.filterMap id).eraseDups, all := parts.contains none, time := s.now } }

/-- A change is taken or refused: the abort code, and whether it waits (R83–R93). -/
def State.submit (s : State) (l : List Setting) (commit : Bool) : State × Nat × Bool :=
  let code := s.changeCheck l commit
  if code != 0 then
    ((if code == acWaymaskOverlap then s.updCm fun m => { m with wayMaskRefusals := m.wayMaskRefusals + 1 } else s).refuse code, code, false)
  else
    match strictest l with
    | .drain => (s.drainFor l commit, 0, true)
    | .epoch => (s.stage l commit, 0, true)
    | .immediate => (s.applyNow l, 0, false)

/-! ## Applies of what waits -/

/-- A commit has taken effect: its result and its generation (R727, R730). -/
def State.commitDone (s : State) : State := s.updCommits fun x => { x with generation := s.cm.applyGen, result := 0, failMember := 0 }

/-- Staged groups take effect as one apply (R84, R89). -/
def State.applyStaged (s : State) (gs : List Staged) : State :=
  if gs.isEmpty then s
  else
    let s := s.updCm fun m => { m with staged := m.staged.filter (!gs.contains ·) }
    let s := s.applyNow (gs.flatMap (·.settings))
    if gs.any (·.commit) then s.commitDone else s

/-- The 1 ms after which a staged value takes effect at the latest (R84, R85). -/
def epochNs : Nat := 1000000

/-- EPOCH_APPLY_TIMEOUT: values staged 1 ms ago take effect, each write or commit as one apply (R84, R85, R89, R91). -/
def execEpochApplyTimeout (now : Nat) (s : State) : Out :=
  let s := s.at now
  .next (if !s.powered then s else
    s.each (s.cm.staged.filter fun g => g.time + epochNs ≤ s.now) fun g s => s.applyStaged [g])

/-- A frame epoch of a partition begins: its time and frame count, the values staged for it, the end of its phase, its energies of the
frame (R50, R84, R89, R372, R569, R571). DESIGN CHOICE (log 135): an epoch that begins exactly 1 ms after staging is not within 1 ms. -/
def State.epoch (s : State) (p : Nat) : State :=
  let gs := s.cm.staged.filter fun g => g.part == some p && s.now < g.time + epochNs
  let s := s.endPhase p true
  let s := (s.updPart p fun x => { x with epochT := s.now, frame := (x.frame + 1) % 2 ^ 32, phase := 0 }).updPwrPart p fun x =>
    { x with phaseNj := List.replicate 8 0 }
  (s.nwcDrop p).applyStaged gs

/-- EPOCH_COMMAND: an EPOCH command of a queue begins a frame epoch of its partition; a drain does not hold it (R50, R56, R94). -/
def execEpochCommand (q : Nat) (raw : List Byte) (s : State) : Out :=
  .next (runCmd q 2 raw (fun c s => ((s.queueDone q (2 ^ 64) c.seq true).epoch (s.queue q).part, none)) s)

/-! ## The end of a drain (R93–R98) -/

/-- Nothing of the drain's scope is in flight. -/
def State.drained (s : State) (d : Drain) : Bool := (s.scope d).all fun c => !s.inFlight c

/-- A drain whose scope is idle applies; a disable that may no longer be made, or a residency table that is bad, refuses it (R51, R89,
R93, R453, R831). -/
def State.drainApply (s : State) (d : Drain) : State :=
  match d.act with
  | .key op slot =>
    let s := (s.updCm fun m => { m with drain := none }).keyApply op slot
    s
  | .settings l commit =>
    if s.mayNotDisable l then s.drainRefuse acStateConflict
    else
      match s.setAll l with
      | (s1, false) => s1.drainRefuse acResidencyInvalid
      | (s1, true) =>
        let s := (s1.updCm fun m => { m with drain := none }).applied
        let s := if commit then s.commitDone else s
        if s.smp.waits then s.mailEnd 0 s.smp.mail.typ s.smp.mail.total [] else s

/-- A drain has run past the time at which its apply could still come: 5 ms after acceptance, and 1 µs (R93, R95; log 83). -/
def State.drainLate (s : State) (d : Drain) : Bool := d.time + 5001000 < s.now

/-- DRAIN_APPLY: the scope of the drain has no work in flight, so the change applies and the hold ends (R93, R96); where it comes more than
1 µs after the 5 ms mark the scope was busy at the mark, and the drain is refused (R95). -/
def execDrainApply (now : Nat) (s : State) : Out :=
  let s := s.at now
  .next (if !s.powered then s else
    match s.cm.drain with
    | some d => if !s.drained d then s else if s.drainLate d then s.drainRefuse acDrainTimeout else s.drainApply d
    | none => s)

/-- DRAIN_TIMEOUT: a drain whose scope is still busy 5 ms after acceptance is refused (R95). -/
def execDrainTimeout (now : Nat) (s : State) : Out :=
  let s := s.at now
  .next (if !s.powered then s else
    match s.cm.drain with
    | some d => if s.now < d.time + 5000000 || (s.drained d && !s.drainLate d) then s else s.drainRefuse acDrainTimeout
    | none => s)

end Sys2Proof.Machine
end

