-- ==== Sys2Proof/Machine/Fabric.lean ====
section
/-! DEFINITION. The fabric engine: queues, requests and answers, duplicates, detours and rack time (R676–R694, R703). -/
namespace Sys2Proof.Machine

/-! ## Packets received -/

/-- Packets received at a port, or at number 18 those of the chip to itself. -/
def State.inbox (s : State) (p : Nat) : List FPkt := if p == 18 then s.fab.self else (s.port p).inq

/-- The next packet of a kind that the fabric engine takes, and the port it came by: of the first of each flow at each port, the one with the earliest
deadline (R35, R36, R39, R674, R689, R694). -/
def State.inNext (s : State) (kind : FPkt → Bool) : Option (Nat × FPkt) :=
  let heads := (List.range 19).flatMap fun p => ((s.flowHeads (s.inbox p)).filter fun y => kind y.1).map fun y => (p, y)
  (earliest (fun (y : Nat × FPkt × Rank) => y.2.2) heads).map fun y => (y.1, y.2.1)

/-- A packet has been consumed or forwarded: its buffer units are freed, and an IDLE returns the credit (R668, R675). -/
def State.consume (s : State) (p : Nat) (k : FPkt) : State :=
  if p == 18 then s.updFab fun b => { b with self := b.self.erase k }
  else
    let s := s.updPort p fun x => { x with inq := x.inq.erase k, owed := x.owed.modify k.cls (· + k.units) }
    if (s.port p).state == 2 then s.sendFlit p 0 0 false [] else s

/-- Requests for this chip, and answers to it. -/
def State.isRequest (s : State) (k : FPkt) : Bool := k.dst == s.fab.chipId && [1, 2, 5].contains k.typ
def State.isAnswer (s : State) (k : FPkt) : Bool := k.dst == s.fab.chipId && [3, 4].contains k.typ

/-- The next packet of a kind is taken if its type is the row's. -/
def State.onPacket (s : State) (kind : FPkt → Bool) (typ : Nat) (f : FPkt → State → State) : State :=
  if !s.clocked then s
  else
    match s.inNext kind with
    | none => s
    | some (p, k) => if k.typ != typ then s else f k (s.consume p k)

/-- The answer to a request leaves (R677, R679). -/
def State.answer (s : State) (k : FPkt) (typ status : Nat) (data : List Byte) : State :=
  s.route { typ := typ, cls := 1, dst := k.src, src := s.fab.chipId, dctx := k.sctx, sctx := k.dctx, aux := status, tid := k.tid
            deadline := k.deadline, data := data } 0

def State.late (s : State) : State := s.updCm fun m => { m with lateArrivals := m.lateArrivals + 1 }

/-! ## Duplicates (R681) -/

/-- a is below b among TIDs, which wrap. -/
def tidBelow (a b : Nat) : Bool := (a + 2 ^ 32 - b) % 2 ^ 32 ≥ 2 ^ 31

def State.dup (s : State) (src : Nat) : DupRec := (s.fab.dups.find? (·.src == src)).getD { src := src, base := 0, done := [] }

/-- A PUT or EVENT that was performed before (R681). -/
def State.isDup (s : State) (k : FPkt) : Bool :=
  let d := s.dup k.src
  tidBelow k.tid d.base || d.done.contains k.tid

/-- A PUT or EVENT is marked completed; the record covers 256 TIDs (R681). -/
def State.markDone (s : State) (k : FPkt) : State :=
  let d := s.dup k.src
  let top := (k.tid + 2 ^ 32 - 255) % 2 ^ 32
  let base := if tidBelow d.base top && !tidBelow k.tid ((d.base + 256) % 2 ^ 32) then top else d.base
  let d : DupRec := { src := k.src, base := base, done := k.tid :: d.done.filter fun t => !tidBelow t base }
  s.updFab fun b => { b with dups := d :: b.dups.filter (·.src != k.src) }

/-! ## Requests at their destination (R678, R679) -/

/-- A context holds a peer binding to a chip's context (R678, R685). -/
def State.bound (s : State) (c chip ctx : Nat) : Bool :=
  (List.range 16).any fun i => let p := s.fab.peers.getD (16 * c + i) {}; p.valid && p.chip == chip && p.ctx == ctx

/-- A request may be performed for its context (R678). -/
def State.accepts (s : State) (k : FPkt) : Bool := s.live k.dctx && s.bound k.dctx k.src k.sctx

/-- Status code of a failed translation or read (R677). -/
def XErr.status : XErr → Nat
  | .pageFault => 3
  | .permission => 4
  | .poison _ => 5

/-- Every line of a run of n bytes is DEVICE memory that allows an access; else the error (R678). -/
def State.deviceRun (s : State) (c : Nat) (a : Access) : Nat → Nat → Nat → State × Option XErr
  | 0, _, _ => (s, none)
  | fuel + 1, va, n =>
    if n == 0 then (s, none) else
    let k := min n (128 - va % 128)
    match s.resolve .fabric c va k a with
    | (s, .error e) => (s, some e)
    | (s, .ok (l, _)) => if l.typ != 0 then (s, some .permission) else s.deviceRun c a fuel (va + k) (n - k)

/-- PUT_RECEIVE: a PUT is performed at the device cache, its line is signalled, and it is acknowledged (R678, R679, R681). -/
def execPutReceive (now : Nat) (s : State) : Out :=
  let s := s.at now
  .next (s.onPacket s.isRequest 1 fun k s =>
    if s.isDup k then (s.updFab fun b => { b with duplicates := b.duplicates + 1 }).answer k 4 1 []
    else if !s.accepts k then s.late.answer k 4 2 []
    else
      match s.deviceRun k.dctx .store 4 k.addr k.data.length with
      | (s, some e) => s.answer k 4 e.status []
      | (s, none) =>
        let s := (s.writeVa .fabric k.dctx .store 4 k.addr k.data).1
        let s := if k.signal then s.fabricEvent k.dctx (k.aux % 8) 1 k.src else s
        (s.markDone k).answer k 4 0 [])

/-- GET_RECEIVE: a GET is answered with its bytes, or with a status (R678, R679). -/
def execGetReceive (now : Nat) (s : State) : Out :=
  let s := s.at now
  .next (s.onPacket s.isRequest 2 fun k s =>
    if !s.accepts k then s.late.answer k 3 2 []
    else
      match s.deviceRun k.dctx .load 4 k.addr k.aux with
      | (s, some e) => s.answer k 3 e.status []
      | (s, none) =>
        match s.readVa .fabric k.dctx [] .load (s.deadlineOf k) 4 k.addr k.aux with
        | (s, .error (e, _)) => s.answer k 3 e.status []
        | (s, .ok d) => s.answer k 3 0 d)

/-- EVENT_RECEIVE: an EVENT increases a fabric line by DELTA and is acknowledged (R679, R681). -/
def execEventReceive (now : Nat) (s : State) : Out :=
  let s := s.at now
  .next (s.onPacket s.isRequest 5 fun k s =>
    if s.isDup k then (s.updFab fun b => { b with duplicates := b.duplicates + 1 }).answer k 4 1 []
    else if !s.accepts k then s.late.answer k 4 2 []
    else ((s.fabricEvent k.dctx (k.aux % 8) k.addr k.src).markDone k).answer k 4 0 [])

/-! ## Queues and entries (R682–R688) -/

def State.fqueue (s : State) (c q : Nat) : FQueue := s.fab.queues.getD (4 * c + q) {}

/-- A fault of the fabric engine for an entry (R685). -/
def State.fabFault (s : State) (c q tag code addr detail : Nat) : State :=
  s.raise { code := code, ctx := c, unit := 9, addr := addr, detail := detail, unitId := q, valid := 0x01, tag := tag }

/-- An entry that breaks R683. -/
def fabBad (d : List Byte) : Bool :=
  let op := field d 0 1
  let sg := field d 5 1
  let len := field d 8 4
  op < 1 || op > 3 || field d 1 1 ≥ (if op == 1 then 2 else 1) || !chipIdOk (field d 2 2) || field d 4 1 ≥ 64
    || bits sg 3 4 != 0 || (op == 2 && sg != 0) || (op == 3 && !bitAt sg 7) || bits (field d 6 1) 3 4 != 0 || field d 7 1 != 0
    || (if op == 3 then len < 1 || len > 65535 else len % 16 != 0 || len < 16 || len > 16777216)
    || field d 15 1 != 0
    || (if op == 3 then field d 16 8 != 0 || field d 24 8 != 0 else field d 16 8 % 16 != 0 || field d 24 8 % 16 != 0)
    || !zeroBytes d 32 28 || field d 60 4 ≥ 2

/-- The head entry of an enabled queue: its VA and bytes, read at the device cache; a failed read is a fault (R682, R684, R685). -/
def State.fabHead (s : State) (c q : Nat) : State × Option (Nat × List Byte) :=
  let x := s.fqueue c q
  if !s.clocked || !x.enable || c ≥ 64 || q ≥ 4 || !s.live c then (s, none)
  else
    match s.readVa .fabric c [] .load none 2 x.base 8 with
    | (s, .error (e, a)) => (s.fabFault c q bgTag e.code a (match e with | .poison st => st | _ => 0), none)
    | (s, .ok h) =>
      let va := x.base + 64 + 64 * (field h 4 4 % 2 ^ x.log2)
      match s.readVa .fabric c [] .load none 2 va 64 with
      | (s, .error (e, a)) => (s.fabFault c q bgTag e.code a (match e with | .poison st => st | _ => 0), none)
      | (s, .ok d) => (s, if field d 60 4 == 0 then none else some (va, d))

/-- An entry is taken: VALID is written 0 and HEAD advances (R684). -/
def State.fabTake (s : State) (c q va : Nat) : State :=
  let x := s.fqueue c q
  let s := (s.writeVa .fabric c .store 2 (va + 60) (toLe 4 0)).1
  match s.readVa .fabric c [] .load none 2 x.base 8 with
  | (s, .error _) => s
  | (s, .ok h) => (s.writeVa .fabric c .store 2 (x.base + 4) (toLe 4 ((field h 4 4 + 1) % 2 ^ 32))).1

def parseFab (s : State) (c q va id : Nat) (d : List Byte) (host : Mem) : FEntry :=
  let line (b : Nat) : Option Nat := if bitAt b 7 then some (b % 8) else none
  { id := id, ctx := c, queue := q, va := va, op := field d 0 1, cls := if field d 1 1 == 1 then 2 else if field d 0 1 == 3 then 3 else 0
    dst := field d 2 2, dctx := field d 4 1, signal := line (field d 5 1), done := line (field d 6 1), len := field d 8 4
    tag := field d 12 3, deadline := s.deadline (s.ctx c).part (field d 12 3), loc := field d 16 8, remote := field d 24 8, host := host }

/-- What an entry has to send: bytes, or one EVENT. -/
def FEntry.total (e : FEntry) : Nat := if e.op == 3 then 1 else e.len

/-- An entry can send its next packet now (R680, R686). -/
def State.canSend (s : State) (e : FEntry) : Bool :=
  e.next < e.total && s.fab.reqs.length < 4096 && (s.fab.reqs.filter fun r => r.pkt.dst == e.dst).length < 256
    && !(e.op == 1 && e.signal.isSome && e.next + 256 ≥ e.len && e.open_ > 0)

def State.updEntry (s : State) (id : Nat) (f : FEntry → FEntry) : State :=
  s.updFab fun b => { b with entries := b.entries.map fun e => if e.id == id then f e else e }

def State.dropEntry (s : State) (id : Nat) : State :=
  s.updFab fun b => { b with entries := b.entries.filter (·.id != id), reqs := b.reqs.filter (·.entry != id) }

/-- A request of an entry leaves with the next TID to its destination (R680, R686, R694). -/
def State.fabRequest (s : State) (e : FEntry) (n : Nat) (data : List Byte) : State :=
  let tid := ((s.fab.tids.find? (·.1 == e.dst)).map (·.2)).getD 0
  let last := e.next + n ≥ e.total
  let k : FPkt :=
    { typ := if e.op == 3 then 5 else e.op, cls := e.cls, signal := e.op == 1 && last && e.signal.isSome, last := last, dst := e.dst
      src := s.fab.chipId, dctx := e.dctx, sctx := e.ctx
      aux := if e.op == 2 then n else if e.op == 3 || last then e.signal.getD 0 else 0
      tid := tid
      deadline := match e.deadline with
        | some d => ((d : Int) + s.fab.offset).toNat
        | none => bgRack
      addr := if e.op == 3 then e.len else e.remote + e.next, data := data }
  let s := s.updFab fun b =>
    { b with tids := (e.dst, (tid + 1) % 2 ^ 32) :: b.tids.filter (·.1 != e.dst)
             reqs := b.reqs ++ [{ pkt := k, entry := e.id, off := e.next, attempt := 0, sent := s.now }] }
  (s.updEntry e.id fun e => { e with next := e.next + n, open_ := e.open_ + 1 }).route k 0

/-- The next packet of an entry is formed: a PUT reads LOCAL, a GET checks it (R685, R686). -/
def State.fabSend (s : State) (e : FEntry) : State :=
  let n := min 256 (e.total - e.next)
  let fail (s : State) (x : XErr) (a : Nat) : State :=
    (s.fabFault e.ctx e.queue e.tag x.code a (match x with | .poison st => st | _ => b2n (e.op == 2))).dropEntry e.id
  match e.op with
  | 1 =>
    match s.readVa .fabric e.ctx e.host .load e.deadline 4 (e.loc + e.next) n with
    | (s, .error (x, a)) => fail s x a
    | (s, .ok d) => s.fabRequest e n d
  | 2 =>
    match s.resolve .fabric e.ctx (e.loc + e.next) n .store with
    | (s, .error x) => fail s x (e.loc + e.next)
    | (s, .ok _) => s.fabRequest e n []
  | _ => s.fabRequest e n []

/-- Every packet that can leave leaves, entry by entry in the order taken. -/
def State.fabPump (s : State) : Nat → State
  | 0 => s
  | fuel + 1 =>
    match s.fab.entries.find? s.canSend with
    | none => s
    | some e => (s.fabSend e).fabPump fuel

/-- The head entry of a queue is taken if its OP is the one asked for: it is checked, and split into packets (R684–R687). -/
def State.fabPost (s : State) (c q op : Nat) (host : Mem) : State :=
  match s.fabHead c q with
  | (s, none) => s
  | (s, some (va, d)) =>
    if field d 0 1 != op then s
    else
      let s := s.fabTake c q va
      let tag := field d 12 3
      if fabBad d then s.fabFault c q tag 0x02 va 0
      else if !s.bound c (field d 2 2) (field d 4 1) then s.fabFault c q tag 0x05 va 0
      else
        let (id, s) := (s.stir c).fresh
        let e := parseFab s c q va id d host
        (s.updFab fun b => { b with entries := b.entries ++ [e] }).fabPump 4096

/-- FABRIC_QUEUE_POLL: the engine reads a queue's head entry; one with a reserved OP is taken and faults (R684, R685). -/
def execFabricQueuePoll (now c q : Nat) (s : State) : Out :=
  let s := s.at now
  .next (match s.fabHead c q with
    | (s, none) => s
    | (s, some (va, d)) =>
      if 1 ≤ field d 0 1 && field d 0 1 ≤ 3 then s
      else (s.fabTake c q va).fabFault c q (field d 12 3) 0x02 va 0)

/-- FABRIC_PUT: a PUT entry is taken and split into packets. `host`: bytes of LOCAL in host memory (R683–R686). -/
def execFabricPut (now c q : Nat) (host : List (Nat × Byte)) (s : State) : Out := .next ((s.at now).fabPost c q 1 host)

/-- FABRIC_GET: a GET entry is taken and split into requests (R683–R686). -/
def execFabricGet (now c q : Nat) (s : State) : Out := .next ((s.at now).fabPost c q 2 [])

/-- FABRIC_EVENT: an EVENT entry is taken and sent (R683–R686). -/
def execFabricEvent (now c q : Nat) (s : State) : Out := .next ((s.at now).fabPost c q 3 [])

/-! ## Answers (R685, R687) -/

/-- A request of an entry has been answered; the last answer of an entry raises its DONE line (R687). -/
def State.fabAnswered (s : State) (r : FReq) : State :=
  let s := s.updFab fun b => { b with reqs := b.reqs.filter fun x => !(x.pkt.dst == r.pkt.dst && x.pkt.tid == r.pkt.tid) }
  let s := s.updEntry r.entry fun e => { e with open_ := e.open_ - 1 }
  match s.fab.entries.find? (·.id == r.entry) with
  | none => s.fabPump 4096
  | some e =>
    if e.next < e.total || e.open_ > 0 then s.fabPump 4096
    else
      let s := s.dropEntry e.id
      let s := match e.done with
        | some l => s.fabricLine e.ctx l 1
        | none => s
      s.fabPump 4096

/-- FABRIC_UNREACHABLE for a request's entry (R680, R685). -/
def State.unreachable (s : State) (r : FReq) : State :=
  match s.fab.entries.find? (·.id == r.entry) with
  | none => s
  | some e =>
    let s := s.updFab fun b => { b with unreachable := b.unreachable + 1 }
    (s.fabFault e.ctx e.queue e.tag 0x10 e.va e.dst).dropEntry e.id

/-- The answer to a request of this chip: one that nothing waits for is discarded, and for a context being killed also counted; a
status is a fault of the requesting context (R73, R685, R688). -/
def State.onAnswer (s : State) (k : FPkt) (ok : FReq → FEntry → State → State) : State :=
  match s.fab.reqs.find? fun r => r.pkt.dst == k.src && r.pkt.tid == k.tid with
  | none => if s.live k.dctx then s else s.late
  | some r =>
    match s.fab.entries.find? (·.id == r.entry) with
    | none => s
    | some e =>
      if !s.live e.ctx then (s.dropEntry e.id).late
      else if k.aux ≤ 1 then ok r e s
      else if k.aux == 2 then s.unreachable r
      else
        let code := if k.aux == 3 then 0x04 else if k.aux == 4 then 0x05 else 0x06
        let det := if k.aux == 5 then [0, 1, 2, 3, 4, 5, 6, 7].getD (Config.nat s.freeCount % 9) 0xFF else b2n (e.op == 1)
        (s.draw.fabFault e.ctx e.queue e.tag code (e.remote + r.off) det).dropEntry e.id

/-- DATA_RECEIVE: the bytes of a GET land at the requester (R679, R685, R687). -/
def execDataReceive (now : Nat) (s : State) : Out :=
  let s := s.at now
  .next (s.onPacket s.isAnswer 3 fun k s =>
    s.onAnswer k fun r e s =>
      match s.writeVa .fabric e.ctx .store 4 (e.loc + r.off) k.data with
      | (s, some (x, a)) =>
        (s.fabFault e.ctx e.queue e.tag x.code a (match x with | .poison st => st | _ => 1)).dropEntry e.id
      | (s, none) => s.fabAnswered r)

/-- ACK_RECEIVE: a PUT or EVENT is answered (R685, R687). -/
def execAckReceive (now : Nat) (s : State) : Out :=
  let s := s.at now
  .next (s.onPacket s.isAnswer 4 fun k s => s.onAnswer k fun r _ s => s.fabAnswered r)

/-- REQUEST_RETRY: a request unanswered for 50 µs is sent again on the route of its next attempt; after the third send it is
FABRIC_UNREACHABLE (R680). -/
def execRequestRetry (now dst tid : Nat) (s : State) : Out :=
  let s := s.at now
  .next (if !s.clocked then s else
    match s.fab.reqs.find? fun r => r.pkt.dst == dst && r.pkt.tid == tid with
    | none => s
    | some r =>
      if s.now < r.sent + 50000 then s
      else if r.attempt ≥ 2 then s.unreachable r
      else
        let s := s.updFab fun b =>
          { b with retries := b.retries + 1
                   reqs := b.reqs.map fun x => if x == r then { x with attempt := x.attempt + 1, sent := s.now } else x }
        s.route r.pkt (r.attempt + 1))

/-! ## Detours (R689–R691) -/

/-- The class of a packet again once its ESC_U hop is made. Whether a PUT was of class REQ or RAY is not in its header and is a free
choice (R671, R676). -/
def State.homeClass (s : State) (k : FPkt) : Nat :=
  match k.typ with
  | 1 => if Config.choice s.freeCount then 2 else 0
  | 2 => 0
  | 5 => 3
  | _ => 1

/-- DETOUR_FORWARD: a packet for another chip is forwarded: from ESC_U as if this chip were the requester, from ESC_D over a tray link
to its destination; with no way forward it is lost (R689–R691). -/
def execDetourForward (now : Nat) (s : State) : Out :=
  let s := s.at now
  .next (if !s.clocked then s else
    match s.inNext (·.dst != s.fab.chipId) with
    | none => s
    | some (p, k) =>
      let s := s.consume p k
      if k.cls == 4 then
        let k := { k with cls := s.homeClass k }
        let s := s.draw
        match s.directRoute k with
        | some p => s.outPut p k
        | none => match s.switchRoute k 0 with
          | some p => s.outPut p k
          | none => s
      else if k.cls == 5 then
        match s.directRoute k with
        | some p => (s.outPut p k).updFab fun b => { b with detours := b.detours + 1 }
        | none => s
      else s)

/-! ## Rack time (R692–R694) -/

/-- The chip's rack time (R694). -/
def State.rackTime (s : State) : Nat := ((s.now : Int) + s.fab.offset).toNat

/-- TIME_FLIT_SEND: an UP port sends its TIME flit (R692). -/
def execTimeFlitSend (now port : Nat) (s : State) : Out :=
  let s := s.at now
  .next (if !s.clocked || (s.port port).state != 2 then s else
    let (rx, tx) := (s.port port).timeRx.getD (0, 0)
    let d := toLe 1 2 ++ toLe 3 0 ++ toLe 8 s.rackTime ++ toLe 2 s.fab.master ++ toLe 1 s.fab.hops ++ toLe 1 0 ++ toLe 8 rx ++ toLe 8 tx
    s.sendFlit port 2 0 false d)

/-- The master the chip follows: the lowest ID heard or its own; through the port with the fewest hops to it, the lower port on a tie
(R693). -/
def State.timeChoice (s : State) : Nat × Option (Nat × Nat) :=
  let heard := (List.range 18).filterMap fun p =>
    if (s.port p).state == 2 then (s.port p).heard.map fun h => (h.1, h.2, p) else none
  let m := heard.foldl (fun m h => min m h.1) s.fab.chipId
  let own := (heard.filter (·.1 == m)).foldl (fun (b : Option (Nat × Nat)) h =>
    match b with
    | none => some (h.2.1, h.2.2)
    | some x => if h.2.1 < x.1 then some (h.2.1, h.2.2) else some x) none
  (m, if m == s.fab.chipId then none else own)

/-- TIME_FLIT_RECEIVE: a TIME flit updates the choice of master, and through the port followed the offset: a step at first lock, then at
most 50 ns per 100 µs (R692–R694). -/
def execTimeFlitReceive (now port : Nat) (s : State) : Out :=
  .next ((s.at now).onFlit port (·.kind == 4) fun y s =>
    if (s.port port).state != 2 || !y.good then s else
    let s := s.flitLink port (viewFlit y.bytes)
    let f (i n : Nat) : Nat := field y.bytes i n
    let rx := s.rackTime
    let s := s.updPort port fun x => { x with timeRx := some (rx, f 16 8), heard := some (f 24 2, f 26 1) }
    let (m, via) := s.timeChoice
    match via with
    | none => s.updFab fun b => { b with master := m, hops := 0, locked := true }
    | some (h, p) =>
      let s := s.updFab fun b => { b with master := m, hops := min 255 (h + 1) }
      if p != port || f 36 8 == 0 then s
      else
        let d : Int := (((f 16 8 : Int) - rx) + ((f 28 8 : Int) - f 36 8)) / 2
        if s.fab.locked && s.fab.slewAt.any (s.now < · + 100000) then s
        else
          let d := if s.fab.locked then max (-50) (min 50 d) else d
          s.updFab fun b => { b with offset := b.offset + d, locked := true, slewAt := some s.now })

end Sys2Proof.Machine
end

