-- ==== Sys2Proof/Machine/Issue.lean ====
section
/-! DEFINITION. A tile cycle of the thread engine: candidates, the choice of a group, issue, and the cycle, stall and filtered counters
(R20–R25, R106, R109–R115, R137, R138, R262, R272, R278, R283, R360); and instruction fetch (R129–R136). -/
namespace Sys2Proof.Machine

/-! ## Instruction fetch (R129–R136) -/

/-- Fill a line of a tile's instruction near cache in a way of the partition (R133, R166). A partition without a resident block has no
way: a line a TCU slot demands is then held in the slot's own line buffer, `buf`, numbered above the ways (log 127). -/
def State.icFill (s : State) (tile part line : Nat) (data : List Byte) (buf : Option Nat) : State :=
  let ways := waysOf (s.residentParts tile) part
  s.updTile tile fun t =>
    let ic := t.ic.filter fun x => !(x.line == line && x.part == part)
    let inSet := ic.filter fun x => x.line % 32 == line % 32
    match allocWay (inSet.map fun x => (x.way, 0)) ways with
    | none =>
      match buf with
      | none => { t with ic := ic }
      | some slot => { t with ic := ⟨line, part, 16 + slot, data⟩ :: ic.filter fun x => x.way != 16 + slot }
    | some w => { t with ic := ⟨line, part, w, data⟩ :: ic.filter fun x => !(x.line % 32 == line % 32 && x.way == w) }

/-- A fetch counter of the tile (R136). -/
def State.countFetch (s : State) (tile : Nat) (spec : Bool) : State :=
  s.updTile tile fun t => { t with cnt :=
    if spec then { t.cnt with ifetchSpec := t.cnt.ifetchSpec + 1 } else { t.cnt with ifetchDemand := t.cnt.ifetchDemand + 1 } }

/-- A line of instructions at a VA is fetched through the device cache, for a fetch of 4 or 8 bytes, and counted once it is sent there; the
line, or the code it fails with (R134, R136, R242). `buf` is the TCU slot whose demand fetch it is, `eff` the deadline of its work. -/
def State.fetchLine (s : State) (tile ctx va n : Nat) (spec : Bool) (buf : Option Nat) (eff : Option Nat) : State × Except XErr Unit :=
  match s.resolve (.tile tile) ctx va n .exec with
  | (s, .error e) => (s, .error e)
  | (s, .ok (_, pa)) =>
    let s := s.pcNow 0 (s.keySlot ctx) (pa / 128) eff ctx
    let (m, d, bad) := s.mem.read (s.keySlot ctx) (pa / 128 * 128) 128
    let s := ({ s with mem := m }).countFetch tile spec
    if bad then (s, .error (.poison (m.poisonUnit (s.keySlot ctx) (pa / 128 * 128) 128)))
    else (s.icFill tile (s.ctx ctx).part (pa / 128) d buf, .ok ())

/-! ## Candidates (R109–R112) -/

/-- An eligible thread (R110): live, not in EVWAIT, not at a barrier, not waiting for hits and not for a neighbour access. -/
def Lane.eligible (l : Lane) : Bool :=
  match l.wait with
  | .run => true
  | .sacq _ _ => true
  | .chwait => true
  | .traceHeld => true
  | .fence _ _ _ _ => true
  | .load _ => true
  | _ => false

/-- The eligible lanes of a group with their threads, in lane order. -/
def Group.eligibles (g : Group) : List (Nat × Lane) :=
  (List.range g.lanes.length).filterMap fun k => (g.lane? k).bind fun l => if l.eligible then some (k, l) else none

/-- A candidate (R109): its program counter, its lanes, and whether a skip count of 1,024 forced it. -/
structure Candidate where
  pc : Nat
  mask : List Nat
  forced : Bool
deriving DecidableEq, Repr

/-- The candidate of a group (R109). -/
def Group.candidate (g : Group) : Option Candidate :=
  let e := g.eligibles
  match e with
  | [] => none
  | x :: _ =>
    let starved := e.filter fun y => y.2.skip ≥ 1024
    let pick (better : Lane → Lane → Bool) (l : List (Nat × Lane)) : Nat :=
      ((l.foldl (fun (b : Option Lane) y => match b with
        | none => some y.2
        | some z => if better y.2 z then some y.2 else some z) none).getD x.2).pc
    let pc := if starved.isEmpty then pick (fun a b => a.pc < b.pc) e else pick (fun a b => a.skip > b.skip) starved
    some { pc := pc, mask := (e.filter fun y => y.2.pc == pc).map (·.1), forced := !starved.isEmpty }

/-- Skip counts after a candidate has issued (R109). -/
def Group.skipped (g : Group) (c : Candidate) : Group :=
  g.updLanes (g.eligibles.map (·.1)) fun k l => { l with skip := if c.mask.contains k then 0 else l.skip + 1 }

/-! ## Ready groups (R111) -/

/-- Two runs of registers share one. -/
def runsMeet (a b : RegRun) : Bool := a.1 < b.1 + b.2 && b.1 < a.1 + a.2

/-- Registers that an outstanding load, gather or atomic of a group will write (R111). -/
def LoadRec.dests (r : LoadRec) : RegRun := (r.dst, sizeRegs (if r.bytes == 16 then 4 else if r.bytes == 8 then 3 else 2))

/-- The candidate's operands are available: no outstanding load of these lanes writes a register that the word names; a store, atomic or
EXIT also waits until the loads of its group have returned, so that a fault that a load brings comes first (R111, R243; log 31). -/
def operandsReady (t : Tile) (g : Group) (c : Candidate) (w : Nat) : Bool :=
  let l := t.loads.filter fun r => r.owner.slot == g.slot && r.lanes.any fun x => c.mask.contains x.lane
  let runs := regRuns w g.width
  if [0x71, 0x72, 0x74, 0x75, 0x77, 0x84].contains (bits w 56 8) then l.isEmpty
  else l.all fun r => !runs.any fun x => runsMeet x r.dests

/-- A store that finds the tile's store buffer full is not accepted (R111, R182): `i` is the issue group and its word. -/
def State.storeRefused (s : State) (tile : Nat) (i : Issued) : Bool :=
  let op := bits i.word 56 8
  if op != 0x74 && op != 0x77 then false
  else
    match (s.tile tile).group? i.slot with
    | none => false
    | some g =>
      match (s.tile tile).block? g.bslot with
      | none => false
      | some b =>
        let act := i.mask.filter fun k => (g.lane? k).any fun l => l.guard i.word
        storeFull (if op == 0x74 then .store else .scatter) (wordMem i.word) { tile := tile, i := i, g := g, b := b, act := act } s

/-- A CHOP that finds 8 operations is not accepted (R343). -/
def chopRefused (t : Tile) (w : Nat) : Bool := bits w 56 8 == 0xB8 && t.chs.ops.length ≥ 8

/-- The word of a group's candidate, where it is in the instruction near cache. -/
def State.candWord (s : State) (tile : Nat) (b : Block) (c : Candidate) : Option Nat := s.icRead tile b.ctx c.pc 8

/-- A group that is ready: its candidate and its word (R111). A replay of its local access (R185), an operand that the pipeline has not
brought yet (`holds`; log 32) and a unit that does not accept the instruction each stop it. -/
def State.ready (s : State) (tile : Nat) (holds : List Nat) (g : Group) : Option (Candidate × Nat) :=
  let t := s.tile tile
  match t.block? g.bslot, g.candidate with
  | some b, some c =>
    match s.candWord tile b c with
    | some w =>
      let running := c.mask.all fun k => (g.lane? k).any (·.wait == .run)
      if b.started && s.live b.ctx && running && g.replay == 0 && !holds.contains g.slot && operandsReady t g c w && !chopRefused t w
          && !s.storeRefused tile { slot := g.slot, pc := c.pc, mask := c.mask, word := w } then
        some (c, w)
      else none
    | none => none
  | _, _ => none

/-! ## The choice (R113–R115) -/

/-- A ready group as the choice sees it: its launch's deadline, its order of arrival on the tile, its context, and its place in the order
that its launch schedules by. -/
structure Ready where
  g : Group
  c : Candidate
  w : Nat
  deadline : Option Nat
  order : Nat
  ctx : Nat
  place : Nat

/-- The place of a group in its launch's order: slots after last_slot with wrap-around, or earliest resident first (R114, R115). -/
def State.pickPlace (s : State) (tile : Nat) (g : Group) (launch : Nat) : Nat :=
  let last := (((s.tile tile).arrived.find? (·.launch == launch)).map (·.lastSlot)).getD 63
  if (s.launch? launch).any (·.oldest) then 64 * g.since + g.slot else (g.slot + 127 - last) % 64

/-- The ready groups of a tile. -/
def State.readyGroups (s : State) (tile : Nat) (holds : List Nat) : List Ready :=
  let t := s.tile tile
  t.groups.filterMap fun g =>
    match s.ready tile holds g, t.block? g.bslot with
    | some (c, w), some b =>
      some { g := g, c := c, w := w, deadline := s.launchDl b.launch
             order := ((t.arrived.find? (·.launch == b.launch)).map (·.order)).getD 0, ctx := b.ctx
             place := s.pickPlace tile g b.launch }
    | _, _ => none

/-- One ready group comes before another: earlier deadline, earlier arrival of its launch, lower context, then the launch's own order. -/
def Ready.before (a b : Ready) : Bool :=
  dlLt a.deadline b.deadline || (!dlLt b.deadline a.deadline
    && (a.order < b.order || (a.order == b.order && (a.ctx < b.ctx || (a.ctx == b.ctx && a.place < b.place)))))

/-- The group that issues. -/
def firstReady : List Ready → Option Ready
  | [] => none
  | x :: r =>
    match firstReady r with
    | none => some x
    | some y => if y.before x then some y else some x

/-- The chosen candidate issues: its instruction is the tile's next; an undefined opcode faults here (R106, R109, R112, R115, R208,
R212). -/
def State.issue (s : State) (tile : Nat) (x : Ready) : State :=
  let i : Issued := { slot := x.g.slot, pc := x.c.pc, mask := x.c.mask, word := x.w }
  let s := s.updGroup tile x.g.slot (·.skipped x.c)
  let s := s.icUsed tile x.ctx x.c.pc
  let s := s.updTile tile fun t => { t with
    second := x.g.width == 64
    arrived := t.arrived.map fun a => if some a.launch == (t.block? x.g.bslot).map (·.launch) then { a with lastSlot := x.g.slot } else a
    cnt := { t.cnt with reconvForced := t.cnt.reconvForced + b2n x.c.forced } }
  if opDefined (bits x.w 56 8) then s.updTile tile fun t => { t with issued := some i }
  else
    match (s.tile tile).block? x.g.bslot with
    | some b => TC.fault { tile := tile, i := i, g := x.g, b := b, act := [] } 0x01 0 s
    | none => s

/-! ## Stalls (R20–R24, R138) -/

/-- The Chisel conditions of a group in CHWAIT, as priority indices (R23, R283, R360): those of its running operation, or of the first
it has queued, which may wait for its first weights on the relay chain. -/
def State.chiselHolds (s : State) (tile : Nat) (g : Group) : List Nat :=
  let ops := (s.tile tile).groupOps g
  match ops.find? ChiselOp.running with
  | none => if (ops.find? (·.stage == .queued)).any fun o => o.d.bsrc ≥ 2 && !s.sliceReady tile o then [4] else [10]
  | some o =>
    let late := o.stage == .compute && o.mac == 0 && o.d.bsrc == 1 && !s.sliceReady tile o
    let relay := match o.stage with
      | .sourceFill _ => true
      | .accFill _ => true
      | .resume _ => true
      | .compute => o.mac == 0 && ((o.d.bsrc ≥ 2 && !s.sliceReady tile o) || (o.offered ≤ o.slice && !s.outRoom tile o))
      | _ => false
    if late then [3] else if relay then [4] else [10]

/-- The limiter has withheld a MAC cycle of an operation of a group in this tile cycle (R360). -/
def Tile.groupLimited (t : Tile) (g : Group) : Bool := (t.groupOps g).any (·.limited)

/-- The conditions of R23 that a group holds in a tile cycle, as priority indices; `was`: the state in which the cycle began, which says what
its Chisel operations wait for in it. -/
def State.groupHolds (s was : State) (tile : Nat) (g : Group) : List Nat :=
  let t := s.tile tile
  let own (l : Lane) : List Nat :=
    match l.wait with
    | .traceHeld => [2]
    | .sacq _ _ => [3]
    | .chwait => (if t.groupLimited g then [1] else []) ++ was.chiselHolds tile g
    | .hits => [5]
    | .neighbour _ => [6]
    | .barrier _ _ => [8]
    | .evwait id _ _ _ => if g.rays.any fun r => r.1 == id && r.2 > 0 then [5] else [9]
    | .fence _ _ _ _ => [10]
    | .load _ => [10]
    | _ => []
  let chop := match t.block? g.bslot, g.candidate with
    | some b, some c => ((s.candWord tile b c).any fun w => chopRefused t w) && t.chs.ops.any fun o => o.limited
    | _, _ => false
  (if chop then [1] else []) ++ (if g.replay > 0 then [7] else []) ++ g.lanes.flatMap fun o => match o with
    | some l => own l
    | none => []

/-- The cause of highest priority among groups; STALL_REG_DEP if they hold none (R23, R24). -/
def State.stallCause (s was : State) (tile : Nat) (gs : List Group) : Nat :=
  (gs.flatMap (s.groupHolds was tile)).foldl min 10

/-- The resident groups of the filtered partition, if its phase is selected (R138). -/
def State.filtered (s : State) (tile : Nat) : List Group :=
  let t := s.tile tile
  if !t.filterEn || !bitAt t.filterMask (s.part t.filterPart).phase then []
  else t.groups.filter fun g => (t.block? g.bslot).any fun b => (s.ctx b.ctx).part == t.filterPart

/-- A stall cycle is counted under one cause, and under one filtered cause (R21, R23, R138). -/
def State.countStall (s was : State) (tile : Nat) : State :=
  let t := s.tile tile
  let cause := if t.stretched then 0 else s.stallCause was tile t.groups
  let f := s.filtered tile
  let fcause := if t.stretched then 0 else s.stallCause was tile f
  s.updTile tile fun t => { t with cnt := { t.cnt with
    stall := t.cnt.stall.modify cause (· + 1)
    fstall := if f.isEmpty then t.cnt.fstall else t.cnt.fstall.modify fcause (· + 1) } }

/-- The activities of a cycle in which groups are resident: it is a non-empty one, and perhaps an issue cycle, of the context whose group issues, else of
that of the group in the lowest slot (R560; log 153). -/
def State.nonEmpty (s : State) (tile : Nat) (issues : Bool) : State :=
  let t := s.tile tile
  let low := t.groups.foldl (fun (b : Option Group) g => if b.all fun h => g.slot < h.slot then some g else b) none
  let c := if issues then t.lastCtx else ((low.bind fun g => t.block? g.bslot).map (·.ctx)).getD 64
  (s.act tile c 11 1).act tile c 0 (b2n issues)

/-- What a cycle counts: empty, stalled, or issued (R21, R22, R106, R137). A group of width 64 is resident through its second cycle, also where
its threads end with it. -/
def State.countCycle (s was : State) (tile : Nat) (issues : Bool) : State :=
  let t := s.tile tile
  if t.groups.isEmpty && !issues then s.updTile tile fun t => { t with cnt := { t.cnt with empty := t.cnt.empty + 1 } }
  else
  let s := s.nonEmpty tile issues
  if t.stretched || !issues then s.countStall was tile
  else s.updTile tile fun t => { t with cnt := { t.cnt with issue := t.cnt.issue + 1 } }

/-- A tile cycle of the waits that take a number of cycles (R126, R185). -/
def Lane.waited (l : Lane) : Lane :=
  match l.wait with
  | .neighbour n => { l with wait := if n ≤ 1 then .run else .neighbour (n - 1) }
  | _ => l

def Group.waited (g : Group) : Group := { g with replay := g.replay - 1, lanes := g.lanes.map (Option.map Lane.waited) }

/-- The subtree that a visit's cycle counts for: that of the node or leaf it has last read, before the first the one it comes to. -/
def Visit.current (v : Visit) : Nat :=
  if v.sub != 4096 then v.sub else ((v.stack.head?.filter (·.image.isNone)).map (·.sub)).getD 4096

/-- The cycle counters of the Armature and of the ray sorter whose cycles this tile's stand for (R455; log 88). -/
def State.engineCycle (s : State) (tile : Nat) : State :=
  let u := quadrant tile
  let s := if tile == 72 * (u / 2) + 6 * (u % 2) && !(s.unit u).held.isEmpty then s.srtCount u 5 1 else s
  if tile % 3 != 1 then s
  else
    s.updArm (servingArm tile) fun a =>
      let a := { a with cycle := a.cycle + 1 }
      if a.visits.isEmpty then a
      else
        let add (l : List ((Nat × Nat) × Nat)) (v : Visit) : List ((Nat × Nat) × Nat) :=
          let k := ((s.ctx v.ray.ctx).part, v.current)
          (k, ((l.find? (·.1 == k)).map (·.2)).getD 0 + 1) :: l.filter (·.1 != k)
        { a with load := a.visits.foldl add a.load, cnt := a.cnt.modify 0 (· + 1) }

/-- A tile cycle of droop stretching: it is one of the 64 after the last sensing, or the first that is not stretched (R545). -/
def State.stretchCycle (s : State) (tile : Nat) : State :=
  let x := s.pwr.tiles.getD tile {}
  if !x.low.isEmpty then s
  else if x.left > 0 then { s with pwr := { s.pwr with tiles := s.pwr.tiles.modify tile fun x => { x with left := x.left - 1 } } }
  else s.updTile tile fun t => { t with stretched := s.pwr.dip.isSome }

/-- ISSUE_CYCLE: one cycle of a tile; `holds`: groups whose operands the pipeline has not brought yet (R114, R137; log 32). The instruction that
issues takes its effect as the tile's next command; until then the tile has no further cycle, but for those in which an issued store
waits for room in a store buffer that has filled since (R182). -/
def execIssueCycle (tile : Nat) (holds : List Nat) (s : State) : Out :=
  let held := ((s.tile tile).issued.map (s.storeRefused tile)).getD false
  .next (if !s.clocked || tile ≥ 144 || ((s.tile tile).issued.isSome && !held) then s
    else
      let s := s.stretchCycle tile
      let was := s
      let s := (s.chiselCycle tile).engineCycle tile
      let s :=
        if (s.tile tile).second then (s.countCycle was tile true).updTile tile fun t => { t with second := false }
        else if held then s.countCycle was tile false
        else
          match firstReady (s.readyGroups tile holds) with
          | some x => ((s.updTile tile fun t => { t with lastCtx := x.ctx }).countCycle was tile true).issue tile x
          | none => s.countCycle was tile false
      s.updTile tile fun t => { t with groups := t.groups.map Group.waited })

/-! ## Fetch rows -/

/-- A fetch that fails is made again (R134). -/
def State.fetchTwice (s : State) (tile ctx va n : Nat) (buf eff : Option Nat) : State × Except XErr Unit :=
  match s.fetchLine tile ctx va n false buf eff with
  | (s, .ok _) => (s, .ok ())
  | (s, .error _) => s.fetchLine tile ctx va n false buf eff

/-- DETAIL of a failed fetch (R78, R134). -/
def fetchDetail : XErr → Nat
  | .poison st => st
  | _ => 4

/-- A group's block and candidate, where the block runs. -/
def State.running (s : State) (tile slot : Nat) : Option (Group × Block × Candidate) :=
  let t := s.tile tile
  match t.group? slot with
  | none => none
  | some g =>
    match t.block? g.bslot, g.candidate with
    | some b, some c => if b.started && s.live b.ctx then some (g, b, c) else none
    | _, _ => none

/-- The demand fetch of a group's candidate; the record of its fault has VALID 0x09 (R134; log 33). -/
def State.groupFetch (s : State) (tile slot : Nat) : State :=
  match s.running tile slot with
  | none => s
  | some (g, b, c) =>
    if (s.candWord tile b c).isSome then s
    else
      match s.fetchTwice tile b.ctx c.pc 8 none (s.launchDl b.launch) with
      | (s, .ok _) => s
      | (s, .error e) =>
        let tc : TC := { tile := tile, i := { slot := slot, pc := c.pc, mask := c.mask, word := 0 }, g := g, b := b, act := [] }
        (s.raise { tc.laneInfo s 0xFF e.code c.pc (fetchDetail e) with valid := 0x09 }).stopLanes tile slot c.mask

/-- The demand fetch of a TCU slot (R134, R293, R329). -/
def State.slotFetch (s : State) (tile slot : Nat) : State :=
  let c := (s.tile tile).tcu slot
  if slot ≥ 4 || c.state != .run || !s.live c.ctx || (s.tcuWord tile slot).isSome then s
  else
    match s.fetchTwice tile c.ctx (c.image.base + c.pc) 4 (some slot) (s.launchDl c.launch) with
    | (s, .ok _) => s
    | (s, .error e) => s.tcuFault tile slot 0 e.code (fetchDetail e) (some (c.image.base + c.pc))

/-- DEMAND_FETCH: the line of a group's candidate, or of a TCU slot's program counter, that is not in the instruction near cache (R134,
R136, R293). -/
def execDemandFetch (tile : Nat) (tcu : Bool) (slot : Nat) (s : State) : Out :=
  .next (if !s.clocked || tile ≥ 144 then s else if tcu then s.slotFetch tile slot else s.groupFetch tile slot)

/-- The line of a VA is one of the two after the line of a program counter. -/
def nextLines (pc va : Nat) : Bool := va / 128 == pc / 128 + 1 || va / 128 == pc / 128 + 2

/-- A branch that a thread's fetch unit decodes in the line of pc or the two after it goes to the line of a VA (R129, R247). -/
def State.decodesBranch (s : State) (tile ctx pc va : Nat) : Bool :=
  (List.range 48).any fun i =>
    let at_ := pc / 128 * 128 + 8 * i
    match s.icRead tile ctx at_ 8 with
    | some w => (bits w 56 8 == 0x80 || bits w 56 8 == 0x82) && branchTarget at_ (BitVec.ofNat 32 w) / 128 == va / 128
    | none => false

/-- The same for a TCU slot, whose branches and jumps go by displacements of 4 bytes (R293, R330). -/
def State.slotBranch (s : State) (tile ctx pc va : Nat) : Bool :=
  (List.range 96).any fun i =>
    let at_ := pc / 128 * 128 + 4 * i
    match s.icRead tile ctx at_ 4 with
    | some w =>
      let op := bits w 26 6
      let d := if op == 0x26 then signed (bits w 0 26) 26 else signed (bits w 0 16) 16
      0x20 ≤ op && op ≤ 0x26 && wrap (at_ + 4 * d) 64 / 128 == va / 128
    | none => false

/-- SPECULATIVE_FETCH: a line ahead of need; one whose translation fails, or that may not be executed, is dropped; no other counter moves (R129–R133,
R136, R293). -/
def execSpeculativeFetch (tile : Nat) (tcu : Bool) (slot va : Nat) (s : State) : Out :=
  .next (
    let go (s : State) (ctx pc n : Nat) (branch : Bool) : State :=
      if !(nextLines pc va || branch) || (s.icLine tile ctx va).isSome then s
      else
        match s.resolve (.tile tile) ctx va n .exec with
        | (_, .error _) => s
        | (_, .ok _) =>
          let old := s.mem
          match s.fetchLine tile ctx va n true none none with
          | (s, .ok _) => s.updMem fun m => { m with dcHits := old.dcHits, dcMisses := old.dcMisses }
          | (_, .error _) => s
    if !s.clocked || tile ≥ 144 then s
    else if tcu then
      let c := (s.tile tile).tcu slot
      let pc := c.image.base + c.pc
      if slot ≥ 4 || c.state == .free || !s.live c.ctx then s else go s c.ctx pc 4 (s.slotBranch tile c.ctx pc va)
    else
      match s.running tile slot with
      | none => s
      | some (_, b, c) => go s b.ctx c.pc 8 (s.decodesBranch tile b.ctx c.pc va))

end Sys2Proof.Machine
end

