-- ==== Sys2Proof/Machine/Session.lean ====
section
/-! DEFINITION. Contexts and queues as their registers command them: CREATE, KILL, RELEASE, the write rules of R69, RESUME and SKIP, host
events, TLB invalidation, the event deadlock check, and the end of a kill (R58, R61, R63, R69–R72, R79–R82, R100, R101, R157–R160, R188,
R196, R197, R254, R255, R288, R384, R414, R451, R571, R599, R602, R625, R688, R879, R881, R884). -/
namespace Sys2Proof.Machine

/-! ## Where a write is taken -/

/-- BAR0 of a function is there: the endpoint is out of reset, and no function reset of a VF is in progress (R625, R736). -/
def State.endpoint (s : State) (fn : Nat) : Bool :=
  (s.phase == .ready || s.phase == .down) && fn ≤ 32 && !s.hst.vfFlr.getD fn false && !s.hst.d3.getD fn false

/-- An 8-byte write of the PF reaches a block that only a thermal trip or a power-down gates (R46, R585, R736). -/
def State.pfWrite (s : State) (fn : Nat) : Bool := s.endpoint fn && fn == 0 && s.powered

/-! ## CTX_CTRL (R69, R70, R100, R101) -/

/-- A write that the state of a context does not allow (R69). -/
def State.ctxRefused (s : State) (c : Nat) : State := s.updCtx c fun x => { x with refused := true }

/-- CREATE: a FREE context of an enabled partition is READY, its record, its counters and its energy cleared (R69, R255, R599). -/
def State.ctxCreate (s : State) (c : Nat) : State :=
  if (s.ctx c).state != .free || !(s.part (s.ctx c).part).enabled then s.ctxRefused c
  else
    (s.updCtx c fun x =>
      { x with state := .ready, record := none, quietSince := none, hostLines := List.replicate 16 0
               fabricLines := List.replicate 8 0 }).updPwr fun p => { p with ctxNj := p.ctxNj.set c 0 }

/-- KILL: a READY or RUNNING context is killed with HOST_KILL; a FREE one refuses; the others take no notice (R70). -/
def State.ctxKill (s : State) (c : Nat) : State :=
  match (s.ctx c).state with
  | .free => s.ctxRefused c
  | .ready => s.acceptFaults [hostKill c 7]
  | .running => s.acceptFaults [hostKill c 7]
  | .killing => s
  | .dead => s

/-- RELEASE: a DEAD context is FREE; its images are released (R69, R451). -/
def State.ctxRelease (s : State) (c : Nat) : State :=
  if (s.ctx c).state != .dead then s.ctxRefused c
  else (s.updCtx c fun x => { x with state := .free }).releaseImages fun i => i.ctx == c

/-- CTX_CTRL of a context is written (R100, R101). -/
def State.ctxCtrl (s : State) (c v : Nat) : State :=
  match bits v 0 3 with
  | 0 => s
  | 1 => s.ctxCreate c
  | 2 => s.ctxKill c
  | 4 => s.ctxRelease c
  | _ => s.ctxRefused c

/-- CTX_CTRL_CREATE: the PF writes CREATE (R69). -/
def execCtxCtrlCreate (fn c : Nat) (val : DWord) (s : State) : Out :=
  .next (if !s.pfWrite fn || c ≥ 64 || !bitAt val.toNat 0 then s else (s.fullWrite fn).ctxCtrl c val.toNat)

/-- CTX_CTRL_KILL: the PF writes KILL (R70). -/
def execCtxCtrlKill (fn c : Nat) (val : DWord) (s : State) : Out :=
  .next (if !s.pfWrite fn || c ≥ 64 || !bitAt val.toNat 1 then s else (s.fullWrite fn).ctxCtrl c val.toNat)

/-- CTX_CTRL_RELEASE: the PF writes RELEASE (R69). -/
def execCtxCtrlRelease (fn c : Nat) (val : DWord) (s : State) : Out :=
  .next (if !s.pfWrite fn || c ≥ 64 || !bitAt val.toNat 2 then s else (s.fullWrite fn).ctxCtrl c val.toNat)

/-- CtxKill of a context is written (R70, R103). -/
def State.ctxKillCmd (s : State) (c v : Nat) : State :=
  s.command (0x3100 + c) 4 1 1 1 (reservedUnless (v == 1)) fun s =>
    if (s.ctx c).state == .free then (s, acStateConflict) else (s.ctxKill c, 0)

/-- CTX_KILL: the CtxKill command of the dictionary (R70). -/
def execCtxKill (c val : Nat) (s : State) : Out := .next (if c ≥ 64 then s else s.ctxKillCmd c val)

/-! ## The registers of R69 -/

/-- A drain in progress carries a value for this register. -/
def State.draining (s : State) (t : Tgt) : Bool :=
  match s.cm.drain with
  | some d => match d.act with
    | .settings l _ => l.any (·.tgt == t)
    | .key _ _ => false
  | none => false

/-- CTX_PTROOT or CTX_TILES0–2 of a context is written (R69, R98, R879). -/
def State.ctxSet (s : State) (c : Nat) (x : Setting) : State :=
  match (s.ctx c).state with
  | .free => if s.draining x.tgt then (s.refuse acObjectPending).ctxRefused c else s.applyNow [x]
  | .ready => if s.draining x.tgt then (s.refuse acDrainBusy).ctxRefused c else (s.submit [x] false).1
  | .running => if s.draining x.tgt then (s.refuse acDrainBusy).ctxRefused c else (s.submit [x] false).1
  | .killing => s.ctxRefused c
  | .dead => s.ctxRefused c

/-- CTX_PART of a context is written (R69, R881). -/
def State.ctxPartWrite (s : State) (c v : Nat) : State :=
  if (s.ctx c).state != .free then s.ctxRefused c
  else (s.updCtx c fun x => { x with part := bits v 0 5 }).applied

/-! ## Queues (R58, R61, R63) -/

/-- A queue's halt ends: RESUME retries the failed command, SKIP goes past it (R58, R63). -/
def HostQ.go (x : HostQ) (skip : Bool) : HostQ :=
  if !x.halted then x
  else
    { x with halted := false, errAtHead := false
             head := if skip && x.errAtHead then (x.head + 1) % x.size else x.head }

/-- The commands of a queue that failed after they had started: RESUME retries them, SKIP drops them (R58). -/
def State.goFailed (s : State) (q : Nat) (skip : Bool) : State :=
  let m := s.cm
  let ws := m.waits.filter fun w => w.queue == q && w.failed
  let ls := m.launches.filter fun l => l.queue == q && l.failed
  let ks := m.copies.filter fun k => k.queue == q && k.failed
  if skip then
    let s := s.updCm fun m =>
      { m with
        waits := m.waits.filter fun w => !ws.contains w
        launches := m.launches.map fun (l : Launch) => if ls.contains l then { l with failed := false, completed := true } else l
        copies := m.copies.filter fun k => !ks.contains k }
    let ids := ws.map (·.id) ++ ls.map (·.id) ++ ks.map (·.id)
    let s := s.updQueue q fun x => { x with outstanding := x.outstanding.filter fun o => !ids.contains o.id }
    let s := s.each (ls.map (·.id)) fun id s => s.forgetLaunch id
    s.each (ls.map (·.ctx) ++ ks.map (·.ctx)) fun c s => s.ctxIdle c
  else
    let s := s.updCm fun m =>
      { m with
        waits := m.waits.map fun (w : Wait) => if ws.contains w then { w with failed := false } else w
        launches := m.launches.map fun (l : Launch) => if ls.contains l then { l with failed := false } else l
        copies := m.copies.map fun (k : Copy) => if ks.contains k then { k with failed := false } else k }
    s.each (ws.map (·.ctx)) fun c s => s.ctxRun c

/-- HST_Q_CTRL of a queue is written (R58, R61, R63, R89). DESIGN CHOICE (log 134): with RESUME and SKIP both set, SKIP is taken and RESUME
does nothing. -/
def State.queueCtrl (s : State) (q v : Nat) : State :=
  let s := if (s.queue q).halted && (bitAt v 22 || bitAt v 23) then s.goFailed q (bitAt v 23) else s
  (s.updQueue q fun x =>
    let log2 := bits v 2 4
    let y : HostQ :=
      { x with
        enable := bitAt v 0
        location := if x.enable then x.location else bits v 1 1
        log2 := if log2 ≥ 11 then x.log2 else log2
        part := if x.enable then x.part else bits v 6 5
        errVec := bits v 11 11 }
    let y := if bitAt v 23 then y.go true else y
    if bitAt v 22 then y.go false else y).applied

/-- HST_Q_RESUME: the PF writes RESUME to a queue (R58). -/
def execHstQResume (fn q : Nat) (val : DWord) (s : State) : Out :=
  .next (if !s.pfWrite fn || q ≥ 128 || !bitAt val.toNat 22 then s else (s.fullWrite fn).queueCtrl q val.toNat)

/-- HST_Q_SKIP: the PF writes SKIP to a queue (R58). -/
def execHstQSkip (fn q : Nat) (val : DWord) (s : State) : Out :=
  .next (if !s.pfWrite fn || q ≥ 128 || !bitAt val.toNat 23 then s else (s.fullWrite fn).queueCtrl q val.toNat)

/-! ## Host events (R46, R254) -/

/-- A function may use a context: the PF any, a VF those of its partition (R45–R47, R616). -/
def State.mayCtx (s : State) (fn c : Nat) : Bool :=
  fn == 0 || ((s.ctx c).state != .free && (s.ctx c).part + 1 == fn)

/-- HOST_EVENT_POST: a function writes CTX_HOSTEV_POST of a context (R46, R254). -/
def execHostEventPost (fn c : Nat) (val : DWord) (s : State) : Out :=
  .next (if !s.endpoint fn || !s.powered || c ≥ 64 then s
    else if !s.mayCtx fn c then s.fullWrite fn
    else (s.fullWrite fn).hostEvents c (bits val.toNat 0 16))

/-! ## TLB invalidation (R157–R160, R196, R197, R372) -/

/-- CTX_TLB_INV of a context is written (R159, R160, R196, R197). -/
def State.tlbInv (s : State) (c v : Nat) : State :=
  let all := bitAt v 63
  let size := 4096 * 2 ^ bits v 52 6
  let first := bits v 12 40 * 4096
  if (s.ctx c).tlb.busy then s.updCtx c fun x => { x with tlb := { x.tlb with dropped := true } }
  else if !all && (bits v 52 6 ≥ 41 || first % size != 0) then s.updCtx c fun x => { x with tlb := { x.tlb with refused := true } }
  else (s.nwcDrop (s.ctx c).part).updCtx c fun x =>
    { x with tlb := { x.tlb with busy := true, first := if all then 0 else first, bytes := if all then 2 ^ 52 else size } }

/-- TLB_INVALIDATE: the PF writes CTX_TLB_INV of a context (R159). -/
def execTlbInvalidate (fn c : Nat) (val : DWord) (s : State) : Out :=
  .next (if !s.pfWrite fn || c ≥ 64 then s else (s.fullWrite fn).tlbInv c val.toNat)

/-- Two ranges of addresses meet. -/
def rangesMeet (a n b m : Nat) : Bool := a < b + m && b < a + n

/-- TLB_INVALIDATE_COMPLETE: once every access of the context in the range is complete, no agent holds a translation of it (R157, R159).
A store whose VA is no longer known counts as in the range. -/
def execTlbInvalidateComplete (c : Nat) (s : State) : Out :=
  .next (if !s.clocked || c ≥ 64 then s else
    let t := (s.ctx c).tlb
    let inRange (va n : Nat) : Bool := rangesMeet va n t.first t.bytes
    let busy := s.buffered c
      || s.anyTile (fun x => x.loads.any (fun r => r.ctx == c && r.lanes.any fun l => inRange l.va r.bytes)
        || x.port.lines.any fun l => l.ctx == c && inRange l.va 128)
    if !t.busy || busy then s
    else
      let s := s.updCtx c fun x => { x with tlb := { x.tlb with busy := false } }
      let s := s.updMem fun m => { m with tlb := m.tlb.filter fun e => e.ctx != c || !inRange e.leaf.va e.leaf.size }
      s.updCm fun m => { m with tlbInvalidations := m.tlbInvalidations + 1 })

/-! ## Event deadlock (R79–R82) -/

/-- EVENT_DEADLOCK: the check of every 1 µs: the quiet window of a context is brought up to date, and one that has lasted 100 µs kills it
(R79, R82). -/
def execEventDeadlock (now c : Nat) (s : State) : Out :=
  let s := s.at now
  .next (if !s.clocked || c ≥ 64 || !s.live c then s else
    let s := s.watch c
    match (s.ctx c).quietSince with
    | none => s
    | some t =>
      if s.now < t + 100000 then s
      else
        let n := (s.tiles.flatMap fun t => (t.groups.filter fun g => (t.block? g.bslot).any (·.ctx == c)).flatMap fun g =>
          (g.lanes.filterMap id).filter Lane.internalWait).length
        s.acceptFaults [{ code := 0x08, ctx := c, unit := 6, detail := n }])

/-! ## The end of a kill (R72, R188, R288, R384, R414, R451, R571, R602, R625, R688) -/

/-- A store of a context that has issued and not yet entered the store buffer, of threads that have not faulted (R188). -/
def Tile.issuedStore (t : Tile) (c : Nat) : Bool :=
  t.issued.any fun i => (bits i.word 56 8 == 0x74 || bits i.word 56 8 == 0x77) && (t.group? i.slot).any fun g =>
    (t.block? g.bslot).any (·.ctx == c) && i.mask.all fun k => (g.lane? k).all (·.wait != .faulted)

/-- The stores of a context that are still to drain: issued and buffered ones, atomics, and lines of STORE streams (R188). -/
def State.storesLeft (s : State) (c : Nat) : Bool :=
  s.buffered c || s.anyTile fun t =>
    t.issuedStore c || (t.loads.any fun r => r.ctx == c && r.lanes.any (·.atom.isSome)) || t.port.lines.any fun l => l.ctx == c && l.data.isSome

/-- A context's blocks, groups, TCU slots and requests leave a tile (R72, R288). -/
def Tile.purge (t : Tile) (c : Nat) (launches : List Nat) : Tile :=
  let mine (g : Group) : Bool := (t.block? g.bslot).any (·.ctx == c)
  let gone := t.blocks.filter (·.ctx == c)
  let ids := (t.chs.ops.filter (·.ctx == c)).map (·.id)
  let waiting := t.waiting.filter (·.ctx != c)
  { t with
    groups := t.groups.filter fun g => !mine g
    blocks := t.blocks.filter (·.ctx != c)
    localMem := gone.foldl (fun m b => Mem.drop m b.base (b.base + b.size)) t.localMem
    waiting := waiting
    reserved := if waiting.any fun w => t.reserved == some w.arrival then t.reserved else none
    arrived := t.arrived.filter fun a => !launches.contains a.launch
    loads := t.loads.filter (·.ctx != c)
    issued := if t.issued.any fun i => t.groups.any fun g => g.slot == i.slot && mine g then none else t.issued
    tcus := t.tcus.map fun u => if u.ctx == c then {} else u
    waitEntries := t.waitEntries.filter (·.ctx != c)
    chs := { t.chs with
      ops := t.chs.ops.filter (·.ctx != c)
      outBuf := t.chs.outBuf.filter fun b => !ids.contains b.op
      inBuf := t.chs.inBuf.filter fun b => !ids.contains b.op
      batches := t.chs.batches.filter (·.ctx != c)
      run := if t.chs.run.any (·.batch.ctx == c) then none else t.chs.run }
    port := { t.port with lines := t.port.lines.filter (·.ctx != c) } }

/-- A context's rays, held TRACEs, bins, packets and hits leave a sorter. -/
def Sorter.purge (u : Sorter) (c : Nat) : Sorter :=
  { u with
    held := u.held.filter fun h => h.rays.all (·.ctx != c)
    slots := u.slots.filter (·.ctx != c)
    bins := u.bins.filter (·.bid.ctx != c)
    flush := u.flush.filter (·.bid.ctx != c)
    hitBins := u.hitBins.filter (·.ctx != c)
    hitq := u.hitq.filter (·.ctx != c) }

/-- A context's rays, visits and points leave an Armature. -/
def Arm.purge (a : Arm) (c : Nat) : Arm :=
  let rays := (((a.homes.map (·.ray)) ++ (a.waiting ++ a.visits).map (·.ray)).filter (·.ctx == c)).map (·.id)
  { a with
    homes := a.homes.filter (·.ray.ctx != c)
    waiting := a.waiting.filter (·.ray.ctx != c)
    visits := a.visits.filter (·.ray.ctx != c)
    forming := a.forming.filter (·.ctx != c)
    sent := a.sent.filter fun b => b.rays.all fun r => !rays.contains r }

/-- Everything of a context but its buffered stores leaves the chip. -/
def State.purge (s : State) (c : Nat) : State :=
  let launches := (s.cm.launches.filter (·.ctx == c)).map (·.id)
  let s := s.each (s.cm.launches.filter (·.ctx == c)) fun l s => s.queueDone l.queue l.id l.seq false
  let s := s.each (s.cm.copies.filter (·.ctx == c)) fun k s => s.queueDone k.queue k.id k.seq false
  let s := s.updCm fun m => { m with launches := m.launches.filter (·.ctx != c), copies := m.copies.filter (·.ctx != c) }
  let s := s.each (s.str.streams.filter (·.ctx == c)) fun x s => s.dropStream x
  let s := (s.updTiles fun t => t.purge c launches).updMem fun m =>
    { m with pcs := m.pcs.map fun p => { p with reads := p.reads.filter (·.ctx != c) } }
  let s := { s with
    srt := { s.srt with units := s.srt.units.map fun (u : Sorter) => u.purge c }
    arm := { s.arm with
      arms := s.arm.arms.map fun (a : Arm) => a.purge c
      rayFlight := s.arm.rayFlight.filter fun f => f.rays.all (·.ctx != c)
      visitFlight := s.arm.visitFlight.filter (·.visit.ray.ctx != c)
      returns := s.arm.returns.filter (·.visit.ray.ctx != c)
      hits := s.arm.hits.filter (·.ray.ctx != c) }
    bus := { s.bus with
      flight := s.bus.flight.filter (·.batch.ctx != c)
      refused := s.bus.refused.filter (·.ctx != c)
      replies := s.bus.replies.filter (·.ctx != c) }
    fab := { s.fab with
      entries := s.fab.entries.filter (·.ctx != c)
      reqs := s.fab.reqs.filter fun r => !(s.fab.entries.any fun e => e.ctx == c && e.id == r.entry) } }
  let s := s.each (List.range 144) fun t s => (s.rewayTile t).stirWaiting t
  let s := s.releaseImages fun i => i.ctx == c
  let s := s.each (List.range 48) fun a s => s.startWaiting a
  s.each (List.range 8) fun l s => s.paceEnd c l

/-- The kill sequence of a context whose stores have met their fate ends: everything of it is gone, its record is written and its
interrupt sent, and it is DEAD (R72, R571, R625, R884). -/
def State.killEnd (s : State) (c : Nat) : State :=
  let x := s.ctx c
  let s := s.purge c
  let last := x.ran && !s.cm.ctxs.any fun y => y.part == x.part && y.state == .running
  let s := if last then (s.updPart x.part fun p => { p with phase := 0 }).updPwrPart x.part fun p => { p with used := 0, deadline := none }
    else s
  let s := if x.faultAddr == 0 then s else s.post (.write 0 x.faultAddr (cellsAt x.faultAddr x.recordBytes))
  let s := s.updCtx c fun x => { x with state := .dead, ran := false }
  let s := s.msix (some x.part) x.faultVec
  if s.cm.ctxs.any fun y => y.part == x.part && y.state == .killing then s
  else s.updHst fun h => { h with vfFlr := h.vfFlr.set (x.part + 1) false }

/-- KILL_COMPLETE: the kill sequence of a context ends once its stores have met their fate (R72, R188). -/
def execKillComplete (c : Nat) (s : State) : Out :=
  .next (if !s.clocked || c ≥ 64 || (s.ctx c).state != .killing || s.storesLeft c then s else s.killEnd c)

end Sys2Proof.Machine
end

