-- ==== Sys2Proof/Machine/RegMap.lean ====
section
/-! DEFINITION. What every register of BAR0 reads as (R46, R61–R63, R88, R99–R102, R142–R147, R159, R196–R199, R333, R334, R373–R376,
R416–R420, R484–R492, R533–R540, R604–R608, R616, R650–R655, R699–R702, R852, R879–R884). -/
namespace Sys2Proof.Machine

/-- What the fields of a register are (R11, R880): all RO; some RW; none RW, some W1C; all WO. -/
inductive RegKind where
  | ro | rw | w1c | wo
deriving DecidableEq, Repr

/-- A register and its value. -/
abbrev Reg := RegKind × Nat

/-- A read-only register of 64 bits: counters wrap (R140, R143). -/
def regRo (v : Nat) : Option Reg := some (.ro, v % 2 ^ 64)
def regRw (v : Nat) : Option Reg := some (.rw, v)
def regW1c (v : Nat) : Option Reg := some (.w1c, v)
def regWo : Option Reg := some (.wo, 0)

/-- Word i of a run of bytes. -/
def word64 (l : List Byte) (i : Nat) : Nat := leNat ((l.drop (8 * i)).take 8)

/-- Register i of a run of counters. -/
def regList (l : List Nat) (i : Nat) : Option Reg := l[i]?.map fun v => (.ro, v % 2 ^ 64)

/-! ## Context manager and queues -/

/-- CTX_APPLY_STATUS (R102). -/
def State.applyStatus (s : State) : Nat :=
  b2n (!s.cm.staged.isEmpty) + 2 * b2n s.cm.drain.isSome + place s.cm.lastAbort 32 32

/-- CTX_STATE (R99). -/
def Ctx.stateReg (x : Ctx) : Nat := x.state.code + place x.part 8 5 + place (b2n x.refused) 13 1

/-- CTX_TLB_STATUS (R198). -/
def TlbCtl.reg (t : TlbCtl) : Nat := b2n t.busy + 2 * b2n t.dropped + 4 * b2n t.refused

def State.ctxReg (s : State) (c off : Nat) : Option Reg :=
  let x := s.ctx c
  match off / 8 with
  | 0 => regW1c x.stateReg
  | 1 => regWo
  | 2 => regRw x.part
  | 3 => regRw x.root
  | 4 => regRw (bits x.tiles 0 64)
  | 5 => regRw (bits x.tiles 64 64)
  | 6 => regRw (bits x.tiles 128 16)
  | 7 => regRw x.faultAddr
  | 8 => regRw x.faultVec
  | 9 => regRw x.hostevArm
  | 10 => regWo
  | 11 => regRo (s.dlkWindow c)
  | 20 => regWo
  | 21 => regW1c x.tlb.reg
  | i => if 12 ≤ i && i < 20 then regRo (word64 x.recordBytes (i - 12)) else none

def State.partReg (s : State) (p off : Nat) : Option Reg :=
  let x := s.part p
  match off / 8 with
  | 0 => regRw (b2n x.enabled)
  | 1 => regRo x.epochT
  | 2 => regRo x.frame
  | _ => none

/-- HST_Q_CTRL (R61). -/
def HostQ.ctrl (x : HostQ) : Nat :=
  b2n x.enable + place x.location 1 1 + place x.log2 2 4 + place x.part 6 5 + place x.errVec 11 11

/-- HST_Q_STATUS (R63). -/
def HostQ.status (x : HostQ) : Nat := x.errCode + place (b2n x.halted) 8 1 + place (b2n x.errSeen) 9 1

def State.queueReg (s : State) (q off : Nat) : Option Reg :=
  let x := s.queue q
  match off / 8 with
  | 0 => regRw x.base
  | 1 => regRw x.ctrl
  | 2 => regRo x.head
  | 3 => regRo x.done
  | 4 => regW1c x.status
  | _ => none

/-! ## Host link and HBM -/

/-- HST_LINK_STATUS (R652). -/
def HostLink.link (h : HostLink) : Nat :=
  h.speed + place h.width 3 5 + place (b2n h.flit) 8 1 + place (b2n h.up) 9 1 + place h.retrains 16 16

def State.hostReg (s : State) (off : Nat) : Option Reg :=
  let h := s.hst
  match off / 8 with
  | 0 => regRo h.link
  | 1 => regRw h.bar4Base
  | 2 => regW1c (b2n h.linkLost + 2 * b2n h.refused)
  | 3 => regRo h.cplFail
  | 4 => regRo h.misroute
  | 5 => regRo h.badAccess
  | 6 => regRo h.replays
  | _ => none

/-- Every stack is in self-refresh (R593, R631, R736). -/
def State.selfRefresh (s : State) : Bool := s.phase == .warm || s.phase == .down || s.stopped

/-- HBM_STATUS (R654). -/
def State.stackStatus (s : State) (n : Nat) : Nat :=
  let x := s.stack n
  x.temp + place (b2n x.refresh2x) 8 1 + place (b2n x.throttle) 9 1 + place (b2n (s.selfRefresh || x.loopback != 0)) 10 1
    + place x.sparesMin 11 6 + place x.loopback 17 2

def State.stackReg (s : State) (n off : Nat) : Option Reg :=
  let x := s.stack n
  match off / 8 with
  | 0 => regRo (s.stackStatus n)
  | 1 => regRw (x.patrolH + place x.evtVec 8 11)
  | i => if i < 2 then none else
    regList [x.ceTransient, x.ceLasting, x.ueTransient, x.ueLasting, x.retired, x.requests, x.passes, x.onDie, x.poisonReads] (i - 2)

def State.cacheReg (s : State) (off : Nat) : Option Reg :=
  if off < 0x100 then regRw (s.mem.wayMask.getD (off / 8) 0)
  else if off < 0x200 then regRo (s.mem.dcHits.getD ((off - 0x100) / 8) 0)
  else if off < 0x300 then regRo (s.mem.dcMisses.getD ((off - 0x200) / 8) 0)
  else none

/-! ## Tiles -/

/-- The thread-engine counters in the order of their offsets from 0x40 (R143); none: the place is reserved. -/
def TileCnt.word (c : TileCnt) (i : Nat) : Option Nat :=
  if i < 11 then c.stall[i]?
  else if i < 12 then none
  else if i < 22 then ([c.issue, c.empty, c.ifetchDemand, c.ifetchSpec, c.reconvForced] ++ c.placeWait ++ [c.blocksPlaced])[i - 12]?
  else if i < 24 then none
  else c.fstall[i - 24]?

/-- TILE_ID (R144). -/
def tileId (t : Nat) : Nat := t % 12 + place (t / 12) 4 4 + place (dieOf t) 8 1

/-- TILE_RESIDENT (R145); THREADS counts the ended threads of a group that is still resident (log 146). -/
def Tile.resident (t : Tile) : Nat :=
  let free := 256 - t.usedUnits
  t.usedSlots.length + place ((t.blocks.filter (·.bslot < 16)).length) 7 5
    + place ((t.groups.flatMap fun g => g.lanes.filterMap id).length) 12 12 + place (free % 256) 24 8 + place (b2n (free == 256)) 32 1
    + place t.localLargest 33 11 + place t.waiting.length 44 12 + place (b2n t.reserved.isSome) 56 1

/-- The STATE that a TCU slot shows (R334); a wait that R334 does not list shows RUN. -/
def Tcu.shown (u : Tcu) : Nat :=
  match u.state with
  | .free => 0
  | .run => if u.trap then 5 else 1
  | .waitRecv _ => 2
  | .waitPlace _ => 3
  | .waitBlock _ => 3
  | .waitEnd => 3
  | .waitSend => 4
  | .halted => 6
  | .waitFence _ _ _ => 1
  | .waitLoad _ => 1
  | .waitClose _ => 1
  | .waitRetire _ _ => 1

/-- TCU_SLOT_STATE (R334). -/
def Tcu.stateReg (u : Tcu) : Nat :=
  u.shown + place u.ctx 3 6 + place u.cwp 9 3 + place u.wocc 12 4 + place u.wsp 16 4 + place (b2n u.hen) 20 1
    + place (b2n u.inHandler) 21 1 + place u.queue.length 22 4

/-- CHS_STATUS (R375). -/
def Chisel.status (c : Chisel) : Nat :=
  let run := (c.run.map (·.batch.ctx)).orElse fun _ => (c.ops.find? ChiselOp.running).map (·.ctx)
  c.ops.length + place c.batches.length 4 5 + place (b2n run.isSome) 9 1 + place (run.getD 0) 10 6

def State.tileReg (s : State) (t off : Nat) : Option Reg :=
  let x := s.tile t
  let i := off / 8
  if i == 0 then regRo (tileId t)
  else if i == 1 then regRo x.resident
  else if i == 2 then regRw (x.filterPart + place (b2n x.filterEn) 5 1 + place x.filterMask 8 8)
  else if i == 3 then regWo
  else if i < 8 then none
  else if i < 43 then (x.cnt.word (i - 8)).map fun v => (.ro, v)
  else if i < 64 then none
  else if i < 99 then regRo ((x.snap.word (i - 64)).getD 0)
  else if i < 128 then none
  else if i < 132 then regRo (x.tcu (i - 128)).stateReg
  else if i < 136 then regRo (x.tcu (i - 132)).pc
  else if i < 143 then
    let c := x.tcuCnt
    regList [c.insns, c.traps, c.handlers, c.sent, c.recv, c.refused, c.shortEnd] (i - 136)
  else if i < 160 then none
  else if i == 160 then regRo x.chs.status
  else if i == 161 then regRo (x.chs.limit + place (b2n s.shed) 5 1)
  else if i < 174 then regList x.chs.cnt (i - 162)
  else if i < 192 then none
  else
    let open_ := s.str.streams.filter (·.tile == t)
    regList [x.port.lines.length + place (s.freeTokens t) 9 3 + place open_.length 12 7, x.port.requested, x.port.fullCycles,
      x.port.escapes] (i - 192)

/-! ## Streams, Armatures, sorters -/

/-- STR_STATE (R419). -/
def State.streamState (s : State) (num : Nat) : Nat :=
  match s.stream? num with
  | none => 0
  | some x =>
    let w := s.waitFor x
    let on := w.bind List.head?
    1 + place x.kind 1 2 + place x.mode 3 2 + place (b2n x.token) 5 1 + place (b2n w.isSome) 6 1 + place (b2n on.isSome) 7 1
      + place (on.getD 0) 8 12 + place x.tile 20 8 + place x.ctx 28 6 + place x.limit 34 5

def State.strReg (s : State) (off : Nat) : Option Reg :=
  let e := s.str
  let i := off / 8
  if i == 0 then regW1c (b2n e.refused + place e.streams.length 1 13)
  else if i < 4 then regList [e.found, e.escapes, e.deadlocks] (i - 1)
  else if i < 32 then none
  else if i < 96 then
    let r := e.ranges.getD (i - 32) (0, 0)
    regRw (r.1 + place r.2 12 13)
  else if i < 0x200 then none
  else if i < 0x1200 then regRo (s.streamState (i - 0x200))
  else if i == 0x1200 then regRw e.sel
  else
    let c := (e.cnts.find? (·.num == e.sel)).getD { num := e.sel }
    regList ([c.lines, c.slots] ++ c.late ++ [c.escapes]) (i - 0x1201)

def State.armReg (s : State) (n off : Nat) : Option Reg :=
  let x := s.arm.arms.getD n {}
  let subs := ((List.range 32).map fun p => ((s.armPart p).res.filter (·.owner == n)).length).foldl (· + ·) 0
  if off / 8 == 0 then
    regRo (x.homes.length + place x.visits.length 11 9 + place (s.imageEntries n) 20 14 + place subs 34 17)
  else regList x.cnt (off / 8 - 1)

/-- ARM_MQ_VALID (R486). -/
def State.mqValid (s : State) (p : Nat) : Nat :=
  ((List.range 16).map fun i => if s.arm.images.any fun m => m.live && m.part == p && m.slot == i then 2 ^ i else 0).foldl (· + ·) 0

def State.armPartReg (s : State) (p off : Nat) : Option Reg :=
  let x := s.armPart p
  match off / 8 with
  | 0 => regRw x.resBase
  | 1 => regRw (b2n x.adapt + place x.badIndex 16 12)
  | 2 => regRw x.mqRoot
  | 3 => regRw x.mqParam
  | 4 => regWo
  | 5 => regRo (b2n x.build.isSome + place x.result 1 3 + place x.entries 4 14 + place x.slot 18 4)
  | 6 => regRo (s.mqValid p)
  | _ => none

def State.srtReg (s : State) (n off : Nat) : Option Reg :=
  let u := s.srt.units.getD n {}
  if off / 8 == 0 then
    regRo (u.slots.length + place u.bins.length 15 11 + place u.hitBins.length 26 11 + place u.held.length 37 11)
  else regList u.cnt (off / 8 - 1)

/-- A number for each sorter unit, in fields of n bits. -/
def perUnit (n : Nat) (f : Nat → Nat) : Nat := ((List.range 4).map fun u => place (f u) (n * u) n).foldl (· + ·) 0

def State.srtPartReg (s : State) (p off : Nat) : Option Reg :=
  let x := s.srt.parts.getD p {}
  match off / 8 with
  | 0 => regRw x.box0
  | 1 => regRw x.box1
  | 2 => regRw (x.minTo + place x.maxTo 8 8 + place x.expire 16 8 + place x.ceil 24 14 + place x.ovlVec 38 11)
  | 3 => regRw (x.dispSlots + place x.dispRegs 4 8 + place x.dispLocal 12 11)
  | 4 => regW1c (b2n x.overload + 2 * b2n x.refused)
  | 5 => regRo (perUnit 8 fun u => (((s.srt.units.getD u {}).tos.getD p {}).t / 10))
  | 6 => regRo (perUnit 16 fun u => ((s.srt.units.getD u {}).slots.filter (·.part == p)).length)
  | _ => none

/-! ## Power manager -/

/-- PWR_PATINA: a Patina entry with VOLT as it is with ageing (R552, R604). -/
def Pwr.effEntry (p : Pwr) (i : Nat) : Nat :=
  bits (p.entry i) 0 8 + place (p.effVolt i) 8 12 + bits (p.entry i) 20 44 * 2 ^ 20

/-- PWR_TILE_STATE (R608). -/
def State.tileState (s : State) (t : Nat) : Nat :=
  let x := s.pwrTile t
  (s.tile t).chs.limit + place x.kThermal 5 5 + place x.point 10 4 + place (fmaxOf t) 14 8 + place x.temp 22 10 + place x.droops 32 32

/-- PWR_PACE of a context and line: total, episodes, last (R603, R604). -/
def State.paceRegs (s : State) (c l : Nat) : List Nat :=
  let p := s.pace c l
  [p.total, p.episodes, p.lastUs % 2 ^ 32 + place p.lastChip 32 16]

def State.pwrReg (s : State) (off : Nat) : Option Reg :=
  let p := s.pwr
  let i := off / 8
  if i == 0 then
    regRo (b2n s.shed + place (b2n s.stopped) 1 1 + place (b2n p.degraded) 2 1 + place (b2n p.fixed) 3 1 + place p.pointCeil 4 4
      + place p.ageFuses 8 7)
  else if i < 4 then regList [p.est, p.meas, p.gain] (i - 1)
  else if i == 4 then regRw p.cap
  else if i == 5 then regRw (b2n p.fixed)
  else if i < 8 then regList [p.clamps, p.unattr] (i - 6)
  else if i < 32 then none
  else if i < 64 then
    let x := s.pwrPart (i - 32)
    regRw (x.floor + place x.ceiling 9 9 + place x.fraction 18 9)
  else if i < 96 then regRw (leNat ((s.pwrPart (i - 64)).pops.map (BitVec.ofNat 8)))
  else if i < 128 then none
  else if i < 144 then regRo (p.effEntry (i - 128))
  else if i < 512 then none
  else if i < 576 then regRo (p.ctxNj.getD (i - 512) 0 % 2 ^ 64)
  else if i < 1024 then none
  else if i < 1168 then regRo (s.tileState (i - 1024))
  else if i < 2048 then none
  else if i < 4096 then regList (s.paceRegs ((i - 2048) / 32) ((i - 2048) % 32 / 4)) ((i - 2048) % 4)
  else none

/-! ## Fabric, security, test -/

/-- NGA_PORT_STATUS (R700). -/
def Port.status (x : Port) : Nat :=
  x.state + place x.lanes 3 8 + place (b2n x.partnerSw) 11 1 + place x.partnerId 12 16 + place x.partnerPort 28 5

def State.ngaPortReg (s : State) (p off : Nat) : Option Reg :=
  let x := s.port p
  match off / 8 with
  | 0 => regRo x.status
  | 1 => regRw (b2n x.adminDown)
  | i => if i < 2 then none else regList ([x.transient, x.lastingCnt, x.fecCorr, x.fecUnc, x.flitsTx, x.bad] ++ x.laneErr) (i - 2)

def State.ngaReg (s : State) (off : Nat) : Option Reg :=
  let f := s.fab
  match off / 8 with
  | 0 => regRw f.chipId
  | 1 => regRo (bits f.master 0 10 + place (b2n f.locked) 10 1 + place f.hops 11 8)
  | i => if i < 2 then none else regList [f.retries, f.duplicates, f.detours, f.unreachable] (i - 2)

def State.ngaCtxReg (s : State) (c off : Nat) : Option Reg :=
  let i := off / 8
  if i < 4 then regRw (s.fqueue c i).base
  else if i < 8 then
    let q := s.fqueue c (i - 4)
    regRw (b2n q.enable + place q.log2 1 4)
  else if i < 24 then
    let p := s.fab.peers.getD (16 * c + (i - 8)) {}
    regRw (b2n p.valid + place p.chip 1 10 + place p.ctx 11 6)
  else none

def State.secReg (s : State) (off : Nat) : Option Reg :=
  let i := off / 8
  if i == 0 then regRo (lifecycle + place (b2n (s.sec.unlock == 3)) 2 1 + place (b2n s.pins.intrusion) 3 1)
  else if i == 1 then regWo
  else if i == 2 then regRo (b2n s.sec.busy + place s.sec.result 1 3)
  else if 8 ≤ i && i < 18 then regRw (word64 s.sec.blob (i - 8))
  else none

/-! ## The map -/

/-- The part of the register map that an offset lies in. -/
inductive Block_ where
  | chip (off : Nat) | ctx (c off : Nat) | part (p off : Nat) | armPart (p off : Nat) | queue (q off : Nat) | host (off : Nat)
  | aperture (vf seg : Nat) | tile (t off : Nat) | arm (n off : Nat) | srt (n off : Nat) | srtPart (p off : Nat) | str (off : Nat)
  | pwr (off : Nat) | stack (n off : Nat) | cache (off : Nat) | ngaPort (p off : Nat) | nga (off : Nat) | ngaCtx (c off : Nat)
  | sec (off : Nat) | tst (off : Nat) | none
deriving DecidableEq, Repr

/-- Where the registers lie. -/
def blockOf (a : Nat) : Block_ :=
  let within (lo n size : Nat) : Bool := lo ≤ a && a < lo + n * size
  let idx (lo size : Nat) : Nat := (a - lo) / size
  let off (lo size : Nat) : Nat := (a - lo) % size
  if within 0x100 1 0x18 then .chip (off 0x100 0x100)
  else if within 0x1000 64 0x100 then .ctx (idx 0x1000 0x100) (off 0x1000 0x100)
  else if within 0x8000 32 0x40 then .part (idx 0x8000 0x40) (off 0x8000 0x40)
  else if within 0x9000 32 0x40 then .armPart (idx 0x9000 0x40) (off 0x9000 0x40)
  else if within 0x100000 128 0x40 then .queue (idx 0x100000 0x40) (off 0x100000 0x40)
  else if within 0x110000 1 0x40 then .host (off 0x110000 0x40)
  else if within 0x200000 32 0x8000 then .aperture (idx 0x200000 0x8000 + 1) (off 0x200000 0x8000 / 8)
  else if within 0x1000000 144 0x10000 then .tile (idx 0x1000000 0x10000) (off 0x1000000 0x10000)
  else if within 0x2000000 48 0x10000 then .arm (idx 0x2000000 0x10000) (off 0x2000000 0x10000)
  else if within 0x2300000 4 0x10000 then .srt (idx 0x2300000 0x10000) (off 0x2300000 0x10000)
  else if within 0x2380000 32 0x40 then .srtPart (idx 0x2380000 0x40) (off 0x2380000 0x40)
  else if within 0x2400000 1 0x10000 then .str (off 0x2400000 0x10000)
  else if within 0x2800000 1 0x100000 then .pwr (off 0x2800000 0x100000)
  else if within 0x2900000 8 0x1000 then .stack (idx 0x2900000 0x1000) (off 0x2900000 0x1000)
  else if within 0x29F0000 1 0x10000 then .cache (off 0x29F0000 0x10000)
  else if within 0x2A00000 18 0x1000 then .ngaPort (idx 0x2A00000 0x1000) (off 0x2A00000 0x1000)
  else if within 0x2A20000 1 0x10000 then .nga (off 0x2A20000 0x10000)
  else if within 0x2A30000 64 0x100 then .ngaCtx (idx 0x2A30000 0x100) (off 0x2A30000 0x100)
  else if within 0x2B00000 1 0x10000 then .sec (off 0x2B00000 0x10000)
  else if within 0x2C00000 1 8 then .tst 0
  else .none

/-- How the registers of a block are gated, as `gateOf` has it for objects (R585, R593, R594, R736). -/
def Block_.gate : Block_ → Nat
  | .chip _ => 1
  | .ctx _ _ => 1
  | .part _ _ => 1
  | .armPart _ _ => 2
  | .queue _ _ => 1
  | .host _ => 0
  | .aperture _ _ => 0
  | .tile _ _ => 2
  | .arm _ _ => 2
  | .srt _ _ => 2
  | .srtPart _ _ => 2
  | .str _ => 2
  | .pwr _ => 1
  | .stack _ _ => 1
  | .cache _ => 2
  | .ngaPort _ _ => 2
  | .nga _ => 2
  | .ngaCtx _ _ => 2
  | .sec _ => 1
  | .tst _ => 1
  | .none => 0

/-- The register at an offset; none: it is reserved. -/
def State.reg (s : State) (a : Nat) : Option Reg :=
  match blockOf a with
  | .chip off => match off / 8 with
    | 0 => regRo s.now
    | 1 => regRo s.cm.applyGen
    | _ => regRo s.applyStatus
  | .ctx c off => s.ctxReg c off
  | .part p off => s.partReg p off
  | .armPart p off => s.armPartReg p off
  | .queue q off => s.queueReg q off
  | .host off => s.hostReg off
  | .aperture vf seg => regRw (s.hst.aperture vf seg)
  | .tile t off => s.tileReg t off
  | .arm n off => s.armReg n off
  | .srt n off => s.srtReg n off
  | .srtPart p off => s.srtPartReg p off
  | .str off => s.strReg off
  | .pwr off => s.pwrReg off
  | .stack n off => s.stackReg n off
  | .cache off => s.cacheReg off
  | .ngaPort p off => s.ngaPortReg p off
  | .nga off => s.ngaReg off
  | .ngaCtx c off => s.ngaCtxReg c off
  | .sec off => s.secReg off
  | .tst _ => regRo (s.loop.state + place (if s.loop.state == 1 then s.loop.depth else 0) 3 4)
  | .none => none

/-- The registers of an offset are gated (R594, R736). -/
def State.regGated (s : State) (a : Nat) : Bool :=
  let g := (blockOf a).gate
  s.gatedNow g || (g ≥ 1 && s.phase == .down)

/-- What R46 lets a VF read. -/
def State.vfReads (s : State) (fn a : Nat) : Bool :=
  match blockOf a with
  | .ctx c off => s.mayCtx fn c && (off < 8 || (0x48 ≤ off && off < 0x50) || (0x60 ≤ off && off < 0xA0))
  | _ => false

/-- What R46 lets a VF write. -/
def State.vfWrites (s : State) (fn a : Nat) : Bool :=
  match blockOf a with
  | .ctx c off => s.mayCtx fn c && 0x48 ≤ off && off < 0x58
  | _ => false

/-- The register that a function reads at an offset: reserved and gated ones and those its view filters read 0 (R46, R594, R614, R616). -/
def State.regRead (s : State) (fn a : Nat) : Reg :=
  if s.regGated a || (fn != 0 && !s.vfReads fn a) then (.rw, 0) else (s.reg a).getD (.rw, 0)

/-- Bytes of a function's BAR0 (R613). -/
def barBytes (fn : Nat) : Nat := if fn == 0 then 2 ^ 26 else 2 ^ 16

end Sys2Proof.Machine
end

