-- ==== Sys2Proof/Machine/Regs.lean ====
section
/-! DEFINITION. Writes of BAR0 and its 4-byte reads: the registers' own rules, the range of every settable value, the held and latched
halves (R11, R12, R46, R61–R63, R69, R83–R89, R98–R102, R139–R142, R146, R147, R196–R199, R453, R487–R491, R535–R540, R558, R565, R573,
R594, R604–R607, R614–R616, R650–R655, R657, R699–R702, R852, R853, R879–R884). -/
namespace Sys2Proof.Machine

/-! ## Ranges of values (R51, R537–R541, R558, R565, R574, R606, R607, R609, R655–R657, R701, R703, R730) -/

/-- Whether a preferred-point vector names only used entries or 0xFF (R556, R558). -/
def Pwr.popsOk (p : Pwr) (v : Nat) : Bool := (List.range 8).all fun i =>
  let b := bits v (8 * i) 8
  b == 0xFF || p.usedPoint b

/-- The abort code of a value that a target does not take: VALUE_RANGE, or VALUE_RESERVED where the object calls the values reserved; 0:
it takes it. -/
def State.valueBad (s : State) (t : Tgt) (v : Nat) : Nat :=
  let range (ok : Bool) : Nat := if ok then 0 else acValueRange
  match t with
  | .partEnable _ => reservedUnless (v < 2)
  | .pwrMode => reservedUnless (v < 2)
  | .chipId => range (chipIdOk v)
  | .fabQCtrl _ _ => range (4 ≤ bits v 1 4 && bits v 1 4 ≤ 12)
  | .srtMinTo _ => range (20 ≤ v && v ≤ 200)
  | .srtMaxTo _ => range (20 ≤ v && v ≤ 200)
  | .srtCeil _ => range (64 ≤ v && v ≤ 12288)
  | .floor _ => range (v ≤ 256)
  | .ceiling _ => range (v ≤ 256)
  | .fraction _ => range (v ≤ 256)
  | .pops _ => range (s.pwr.popsOk v)
  | .cap => range (400 ≤ v && v ≤ 1500)
  | .patrol _ => range (4 ≤ v && v ≤ 168)
  | .adminDown _ => range (v < 2)
  | .srtDisp _ => range (bits v 0 4 ≤ 8 && bits v 12 11 ≤ 1520)
  | .ctxPtroot _ => 0
  | .ctxTiles _ _ => 0
  | .wayMask _ => 0
  | .qBase _ => 0
  | .resBase _ => 0
  | .resCtrl _ => 0
  | .fabQBase _ _ => 0
  | .srtBox _ _ => 0
  | .srtExpire _ => 0
  | .srtOvl _ => 0
  | .echo => 0

/-- The first value of a list that is not one its target takes. -/
def State.valuesBad (s : State) (l : List Setting) : Nat := ((l.map fun x => s.valueBad x.tgt x.val).find? (· != 0)).getD 0

/-- A single register write of settable values: one out of range is refused with VALUE_RANGE and nothing is set (R98, R607, R655,
R702). -/
def State.regSubmit (s : State) (l : List Setting) : State :=
  if s.valuesBad l != 0 then s.refuse acValueRange else (s.submit l false).1

/-! ## Writes by block -/

/-- A context register is written. -/
def State.ctxWrite (s : State) (c off v : Nat) : State :=
  match off / 8 with
  | 0 => if bitAt v 13 then s.updCtx c fun x => { x with refused := false } else s
  | 1 => s.ctxCtrl c v
  | 2 => s.ctxPartWrite c v
  | 3 => s.ctxSet c ⟨.ctxPtroot c, bits v 7 45 * 128⟩
  | 4 => s.ctxSet c ⟨.ctxTiles c 0, v⟩
  | 5 => s.ctxSet c ⟨.ctxTiles c 1, v⟩
  | 6 => s.ctxSet c ⟨.ctxTiles c 2, bits v 0 16⟩
  | 7 => (s.updCtx c fun x => { x with faultAddr := v / 64 * 64 }).applied
  | 8 => (s.updCtx c fun x => { x with faultVec := bits v 0 11 }).applied
  | 9 => (s.updCtx c fun x =>
      { x with hostevArm := bits v 0 16, quietSince := if bits v 0 16 == 0 then x.quietSince else none }).applied
  | 10 => s.hostEvents c (bits v 0 16)
  | 20 => s.tlbInv c v
  | 21 => s.updCtx c fun x =>
    { x with tlb := { x.tlb with dropped := x.tlb.dropped && !bitAt v 1, refused := x.tlb.refused && !bitAt v 2 } }
  | _ => s

/-- A queue register is written (R61, R63, R882). -/
def State.queueWrite (s : State) (q off v : Nat) : State :=
  match off / 8 with
  | 0 => s.regSubmit [⟨.qBase q, v / 64 * 64⟩]
  | 1 => s.queueCtrl q v
  | 4 => if bitAt v 9 then s.updQueue q fun x => { x with errSeen := false, errCode := 0 } else s
  | _ => s

/-- A host link register is written (R651). -/
def State.hostWrite (s : State) (off v : Nat) : State :=
  match off / 8 with
  | 1 =>
    let base := bits v 34 4 * 2 ^ 34
    if base % (s.hst.bar4Size * 2 ^ 30) != 0 then s.updHst fun h => { h with refused := true }
    else (s.updHst fun h => { h with bar4Base := base }).applied
  | 2 => s.updHst fun h => { h with linkLost := h.linkLost && !bitAt v 0, refused := h.refused && !bitAt v 1 }
  | _ => s

/-- An aperture entry is written (R651, R653). -/
def State.apertureWrite (s : State) (vf seg v : Nat) : State :=
  let e := bits v 0 2 + place (bits v 21 17) 21 17
  if bits v 21 17 * 2 ^ 21 ≥ hbmEnd then s.updHst fun h => { h with refused := true }
  else
    (s.updHst fun h =>
      let rest := h.apertures.filter fun a => !(a.vf == vf && a.seg == seg)
      { h with apertures := if e == 0 then rest else ⟨vf, seg, e⟩ :: rest }).applied

/-- A tile register is written (R139, R141, R146, R147). -/
def State.tileWrite (s : State) (t off v : Nat) : State :=
  match off / 8 with
  | 2 => (s.updTile t fun x => { x with filterPart := bits v 0 5, filterEn := bitAt v 5, filterMask := bits v 8 8 }).applied
  | 3 => if bitAt v 0 then s.updTile t fun x => { x with snap := x.cnt } else s
  | _ => s

/-- A traversal register of a partition is written (R487–R491). -/
def State.armPartWrite (s : State) (p off v : Nat) : State :=
  match off / 8 with
  | 0 => s.regSubmit [⟨.resBase p, bits v 15 23 * 2 ^ 15⟩]
  | 1 => s.regSubmit [⟨.resCtrl p, bits v 0 2⟩]
  | 2 => (s.updArmPart p fun x => { x with mqRoot := bits v 7 45 * 128 }).applied
  | 3 => (s.updArmPart p fun x => { x with mqParam := bits v 0 37 }).applied
  | 4 => s.mqCmd p v
  | _ => s

/-- An FP32 code that is NaN or infinite. -/
def notFinite (v : Nat) : Bool := bits v 23 8 == 255

/-- A negative FP32 value. -/
def negative32 (v : Nat) : Bool := bitAt v 31 && bits v 0 31 != 0

/-- A refused write of a sorter register (R536). -/
def State.srtRefused (s : State) (p : Nat) : State := s.updSrtPart p fun x => { x with refused := true }

/-- A sorter register of a partition is written (R535–R540). -/
def State.srtPartWrite (s : State) (p off v : Nat) : State :=
  let lo := bits v 0 32
  let hi := bits v 32 32
  let put (l : List Setting) : State := if s.valuesBad l != 0 then s.srtRefused p else (s.submit l false).1
  match off / 8 with
  | 0 => if notFinite lo || notFinite hi then s.srtRefused p else put [⟨.srtBox p 0, v⟩]
  | 1 => if notFinite lo || notFinite hi || negative32 hi then s.srtRefused p else put [⟨.srtBox p 1, v⟩]
  | 2 => put [⟨.srtMinTo p, bits v 0 8⟩, ⟨.srtMaxTo p, bits v 8 8⟩, ⟨.srtExpire p, bits v 16 8⟩, ⟨.srtCeil p, bits v 24 14⟩,
      ⟨.srtOvl p, bits v 38 11⟩]
  | 3 => put [⟨.srtDisp p, bits v 0 23⟩]
  | 4 => s.updSrtPart p fun x => { x with overload := x.overload && !bitAt v 0, refused := x.refused && !bitAt v 1 }
  | _ => s

/-- A register of the stream engine is written (R416–R418). -/
def State.strWrite (s : State) (off v : Nat) : State :=
  let i := off / 8
  if i == 0 then (if bitAt v 0 then s.updStr fun e => { e with refused := false } else s)
  else if 32 ≤ i && i < 96 then s.strRangeWrite (i - 32) v
  else if i == 0x1200 then (s.updStr fun e => { e with sel := bits v 0 12 }).applied
  else s

/-- A register of the power manager is written (R604–R607). -/
def State.pwrWrite (s : State) (off v : Nat) : State :=
  let i := off / 8
  if i == 4 then s.regSubmit [⟨.cap, bits v 0 11⟩]
  else if i == 5 then s.regSubmit [⟨.pwrMode, bits v 0 1⟩]
  else if 32 ≤ i && i < 64 then
    s.regSubmit [⟨.floor (i - 32), bits v 0 9⟩, ⟨.ceiling (i - 32), bits v 9 9⟩, ⟨.fraction (i - 32), bits v 18 9⟩]
  else if 64 ≤ i && i < 96 then s.regSubmit [⟨.pops (i - 64), v⟩]
  else s

/-- HBM_CTRL of a stack is written (R655). -/
def State.stackWrite (s : State) (n off v : Nat) : State :=
  if off / 8 != 1 then s
  else if bits v 8 11 > 1023 then s.refuse acValueRange
  else
    let l : List Setting := [⟨.patrol n, bits v 0 8⟩]
    if s.valuesBad l != 0 then s.refuse acValueRange
    else
      let (s, code, _) := s.submit l false
      if code == 0 then s.updStack n fun x => { x with evtVec := bits v 8 11 } else s

/-- A fabric register of a context is written (R699–R702). -/
def State.ngaCtxWrite (s : State) (c off v : Nat) : State :=
  let i := off / 8
  if i < 4 then s.regSubmit [⟨.fabQBase c i, bits v 6 46 * 64⟩]
  else if i < 8 then s.regSubmit [⟨.fabQCtrl c (i - 4), bits v 0 5⟩]
  else if i < 24 then
    if !chipIdOk (bits v 1 10) then s.refuse acValueRange
    else
      (s.updFab fun f =>
        { f with peers := f.peers.set (16 * c + (i - 8)) { valid := bitAt v 0, chip := bits v 1 10, ctx := bits v 11 6 } }).applied
  else s

/-- A register of the security block is written (R830, R852, R853). -/
def State.secWrite (s : State) (fn off v : Nat) : State :=
  let i := off / 8
  if i == 1 then s.keyWrite fn v
  else if 8 ≤ i && i < 18 then
    (s.updSec fun x => { x with blob := x.blob.take (8 * (i - 8)) ++ toLe 8 v ++ x.blob.drop (8 * (i - 8) + 8) }).applied
  else s

/-! ## BAR0 (R614–R616) -/

/-- A register of a function takes a 64-bit value: a write that is filtered, to a gated block or to a reserved offset has no effect
(R46, R594, R614, R616). -/
def State.regWrite (s : State) (fn a v : Nat) : State :=
  if s.regGated a || (fn != 0 && !s.vfWrites fn a) then s
  else
    match blockOf a with
    | .chip _ => s
    | .ctx c off => s.ctxWrite c off v
    | .part p off => if off / 8 == 0 then s.regSubmit [⟨.partEnable p, bits v 0 1⟩] else s
    | .armPart p off => s.armPartWrite p off v
    | .queue q off => s.queueWrite q off v
    | .host off => s.hostWrite off v
    | .aperture vf seg => s.apertureWrite vf seg v
    | .tile t off => s.tileWrite t off v
    | .arm _ _ => s
    | .srt _ _ => s
    | .srtPart p off => s.srtPartWrite p off v
    | .str off => s.strWrite off v
    | .pwr off => s.pwrWrite off v
    | .stack n off => s.stackWrite n off v
    | .cache off => if off < 0x100 then s.regSubmit [⟨.wayMask (off / 8), bits v 0 32⟩] else s
    | .ngaPort p off => if off / 8 == 1 then s.regSubmit [⟨.adminDown p, bits v 0 1⟩] else s
    | .nga off => if off / 8 == 0 then s.regSubmit [⟨.chipId, bits v 0 16⟩] else s
    | .ngaCtx c off => s.ngaCtxWrite c off v
    | .sec off => s.secWrite fn off v
    | .tst _ => s
    | .none => s

/-- A request that BAR0 does not accept (R614). -/
def State.badAccess (s : State) : State := s.updHst fun h => { h with badAccess := h.badAccess + 1 }

/-- The half a function holds for a register (R615). -/
def State.heldHalf (s : State) (fn a : Nat) : Option Nat := (s.hst.held.find? fun h => h.fn == fn && h.addr == a).map (·.val)

/-- The lower half that an upper-half write uses when none is held: the register's RW fields, every other bit 0 (R615). -/
def State.lowHalf (s : State) (a : Nat) : Nat :=
  match s.reg a with
  | some (.rw, v) => v % 2 ^ 32
  | _ => 0

/-- A 4-byte write to a lower half is held; a write to another offset discards what the function held (R615). -/
def State.holdLow (s : State) (fn a v : Nat) : State :=
  let s1 := s.fullWrite fn
  if (s.reg a).isSome then s1.updHst fun h => { h with held := ⟨fn, a, v⟩ :: h.held } else s1

/-- A 4-byte write to an upper half applies with the held lower half, or the current one (R615). -/
def State.writeHigh (s : State) (fn a v : Nat) : State :=
  (s.fullWrite fn).regWrite fn a ((s.heldHalf fn a).getD (s.lowHalf a) + v * 2 ^ 32)

/-- A write of a function to BAR0 (R614, R615). -/
def State.bar0Write (s : State) (fn a size : Nat) (v : Nat) : State :=
  if !s.endpoint fn || a ≥ barBytes fn then s
  else if !(size == 4 || size == 8) || a % size != 0 then s.badAccess
  else if size == 8 then (s.fullWrite fn).regWrite fn a v
  else if a % 8 == 0 then s.holdLow fn a (v % 2 ^ 32)
  else s.writeHigh fn (a - 4) (v % 2 ^ 32)

/-- REGISTER_WRITE: a write of a function to a register (R89). -/
def execRegisterWrite (fn addr size : Nat) (val : DWord) (s : State) : Out := .next (s.bar0Write fn addr size val.toNat)

/-- LOWER_HALF_WRITE: a 4-byte write to the lower half of a register is held (R615). -/
def execLowerHalfWrite (fn addr : Nat) (val : Word) (s : State) : Out :=
  .next (if addr % 8 != 0 then s else s.bar0Write fn addr 4 val.toNat)

/-- UPPER_HALF_WRITE: a 4-byte write to the upper half of a register takes effect (R615). -/
def execUpperHalfWrite (fn addr : Nat) (val : Word) (s : State) : Out :=
  .next (if addr % 8 != 4 then s else s.bar0Write fn addr 4 val.toNat)

/-- TILE_CNT_SNAP_TAKE: the PF writes TAKE of a tile (R141, R147). -/
def execTileCntSnapTake (fn tile : Nat) (val : DWord) (s : State) : Out :=
  .next (if fn != 0 || tile ≥ 144 || !bitAt val.toNat 0 then s else s.bar0Write fn (0x1000018 + tile * 0x10000) 8 val.toNat)

/-- RELOAD: the PF writes RELOAD to ARM_RES_CTRL of a partition: the table is read under DRAIN (R453, R488). -/
def execReload (fn p : Nat) (val : DWord) (s : State) : Out :=
  .next (if fn != 0 || p ≥ 32 || !bitAt val.toNat 1 then s else s.bar0Write fn (0x9008 + p * 0x40) 8 val.toNat)

/-! ## 4-byte reads (R140, R614, R880) -/

/-- The latched upper half of a register for a function (R140). -/
def State.latched (s : State) (fn a : Nat) : Option Nat := (s.hst.latches.find? fun h => h.fn == fn && h.addr == a).map (·.val)

def State.unlatch (s : State) (fn a : Nat) : State :=
  s.updHst fun h => { h with latches := h.latches.filter fun x => !(x.fn == fn && x.addr == a) }

/-- A function's read of BAR0 that completes without reaching a register: 0 while its function reset runs (R625), Unsupported Request in D3hot
(R610). -/
def State.readBarred (s : State) (fn : Nat) : Option ReadAnswer :=
  if !(s.phase == .ready || s.phase == .down) || fn > 32 then none
  else if s.hst.vfFlr.getD fn false then some (.data 0)
  else if s.hst.d3.getD fn false then some .unsupported
  else none

/-- A 4-byte read of BAR0: the lower half of a register whose fields are all RO latches its upper half for the function, and the next
read of that upper half returns it (R140, R614, R880). -/
def State.bar0Read4 (s : State) (fn a : Nat) : State :=
  match s.readBarred fn with
  | some a => s.reply a
  | none =>
  if !s.endpoint fn || a ≥ barBytes fn then s
  else if a % 4 != 0 then s.badAccess.reply .completerAbort
  else
    let base := a / 8 * 8
    match s.regRead fn base, a % 8 == 0 with
    | (.ro, v), true =>
      ((s.unlatch fn base).updHst fun h => { h with latches := ⟨fn, base, v / 2 ^ 32⟩ :: h.latches }).reply (.data (v % 2 ^ 32))
    | (.ro, v), false => (s.unlatch fn base).reply (.data ((s.latched fn base).getD (v / 2 ^ 32)))
    | (_, v), true => s.reply (.data (v % 2 ^ 32))
    | (_, v), false => s.reply (.data (v / 2 ^ 32))

/-- A read of BAR0: an aligned 8-byte one returns one consistent value, and neither latches nor uses a latched half; one that is neither 4 nor 8
aligned bytes completes with Completer Abort and is counted (R140, R614). -/
def State.bar0Read (s : State) (fn a size : Nat) : State :=
  if size == 4 then s.bar0Read4 fn a
  else
    match s.readBarred fn with
    | some x => s.reply x
    | none =>
      if !s.endpoint fn || a ≥ barBytes fn then s
      else if size != 8 || a % 8 != 0 then s.badAccess.reply .completerAbort
      else s.reply (.data ((s.regRead fn a).2 % 2 ^ 64))

/-- COUNTER_LOW_READ: a read of BAR0 that begins at the lower half of a register: of that half, of the whole register, or one that BAR0 does not
accept (R140, R614, R880). -/
def execCounterLowRead (fn addr size : Nat) (s : State) : Out :=
  .next (if size == 4 && addr % 8 == 4 then s else s.bar0Read fn addr size)

/-- COUNTER_HIGH_READ: a 4-byte read of the upper half of a register (R140, R880). -/
def execCounterHighRead (fn addr : Nat) (s : State) : Out := .next (if addr % 8 != 4 then s else s.bar0Read4 fn addr)

end Sys2Proof.Machine
end

