-- ==== Sys2Proof/Machine/Dict.lean ====
section
/-! DEFINITION. The dictionary of the chip: every object with its type, access and value (R14, R103, R201, R421, R494, R541, R609, R656,
R703, R717, R718, R727, R733, R750, R751, R753–R756, R841, R843, R854). -/
namespace Sys2Proof.Machine

/-- The access of an object. -/
inductive Acc where
  | ro | rw | wo | cmd
deriving DecidableEq, Repr

/-- An object: its type code (R718), its access, its value, and what a write of an RW object sets. -/
structure DObj where
  typ : Nat
  acc : Acc
  bytes : List Byte
  tgt : Option Tgt := none

def oU8 (v : Nat) : DObj := { typ := 1, acc := .ro, bytes := toLe 1 v }
def oU16 (v : Nat) : DObj := { typ := 2, acc := .ro, bytes := toLe 2 v }
def oU32 (v : Nat) : DObj := { typ := 3, acc := .ro, bytes := toLe 4 v }
def oU64 (v : Nat) : DObj := { typ := 4, acc := .ro, bytes := toLe 8 v }
def oStr (l : List Byte) : DObj := { typ := 7, acc := .ro, bytes := l }
def oDom (l : List Byte) : DObj := { typ := 8, acc := .ro, bytes := l }
/-- An RW object. -/
def DObj.rw (o : DObj) (t : Tgt) : DObj := { o with acc := .rw, tgt := some t }
/-- A CMD object of one byte. -/
def oCmd : DObj := { typ := 1, acc := .cmd, bytes := [0] }
/-- The CMD objects of other types, and the WO one. -/
def oCmdOf (typ n : Nat) : DObj := { typ := typ, acc := .cmd, bytes := List.replicate n 0 }
def oWo (n : Nat) : DObj := { typ := 8, acc := .wo, bytes := List.replicate n 0 }

/-- The bytes of a text. -/
def textBytes (t : String) : List Byte := t.toList.map fun c => BitVec.ofNat 8 c.toNat

/-- Numbers added up. -/
def total (l : List Nat) : Nat := l.foldl (· + ·) 0

/-- A record of n bytes from a list, zeros where there is none. -/
def recOr (l : List (List Byte)) (n i : Nat) : List Byte := l.getD i (List.replicate n 0)

/-- The 32 bytes of an event record (R753). -/
def Event.bytes (e : Event) : List Byte :=
  let d := e.detail.take 16
  toLe 8 e.time ++ toLe 4 e.seq ++ toLe 2 e.code ++ toLe 1 e.source ++ toLe 1 e.severity ++ d ++ List.replicate (16 - d.length) 0

/-- EventRecord: the record whose SEQ falls on place i of a ring of n (R755). -/
def EventLog.at_ (l : EventLog) (n i : Nat) : List Byte :=
  ((l.recs.find? fun e => (e.seq - 1) % n == i).map (·.bytes)).getD (List.replicate 32 0)

/-- Executed commits that have not taken effect (R727). -/
def State.commitsPending (s : State) : Nat :=
  (s.cm.staged.filter (·.commit)).length + b2n (match s.cm.drain with
    | some d => match d.act with
      | .settings _ true => true
      | _ => false
    | none => false)

/-- What a counter "since cold reset" had before the last warm reset, beside the register's own count (R140, R807). -/
def carryOf (l : List Nat) (i now : Nat) : Nat := l.getD i 0 + now

/-! ## The objects by index range -/

def State.dictIdentity (s : State) (index : Nat) : List DObj :=
  if index == 0x1000 then
    [oStr (textBytes "Ryumbiur Systems"), oStr (textBytes "CPX-7240"), oU8 1, oU16 Config.stepping, oStr ((List.range 16).map Config.serial),
     oU64 Config.uniqueId, oU16 0x0100, oU32 s.boot.imageVersion, oU32 s.boot.imageSequence]
  else if index == 0x1100 then [oU32 s.smp.taken, oU32 s.smp.frameErrors, oU32 s.smp.discards, oU32 s.smp.repeats, oU8 s.smp.lastError]
  else if index == 0x1200 then
    let h := s.hst
    [oU8 h.speed, oU8 h.width, oU8 (b2n h.flit), oU32 h.cplFail, oU16 h.retrains, oU16 h.bar4Size]
  else if index == 0x1F00 then
    let c := s.smp.commits
    [oCmd, oCmd, oU8 ((c.build.map (·.members.length)).getD 0), oU32 c.result, oU32 c.failMember, oU32 c.generation, oU8 s.commitsPending]
  else []

def State.dictPower (s : State) (index : Nat) : List DObj :=
  let p := s.pwr
  if index == 0x2000 then
    [oU16 1500, (oU16 p.cap).rw .cap, (oU8 (b2n p.fixed)).rw .pwrMode, oU32 p.est, oU32 p.meas, oU32 p.gain, oU64 (p.pkg / 1000000)]
  else if index == 0x2020 then (List.range 144).map fun t => oU16 (10 * fmaxOf t)
  else if index == 0x2030 then (List.range 16).map fun i => oU64 (p.effEntry i)
  else if index == 0x2040 then [oU32 p.transients, oU32 p.unrec, oU8 (b2n p.degraded)]
  else if index == 0x2050 then oU64 p.clamps :: (List.range 16).map fun i => oDom (recOr (p.recs.map Clamp.bytes) 32 i)
  else if index == 0x2060 then [oU64 (total (p.tiles.map (·.droops))), oU32 p.thermalSteps, oU16 p.maxTemp]
  else if index == 0x2070 then [oU32 p.stops, oU32 p.glitches, oU8 (b2n s.stopped)]
  else if index == 0x2080 then
    let d := p.dips
    let ns := d.totalNs + ((p.dip.map fun x => s.now - x.start).getD 0)
    [oU32 d.count, oU16 d.lastMin, oU32 d.lastUs, oU16 d.lowest, oU32 d.longest, oU64 (ns / 1000), oU16 p.inputMv]
  else if index == 0x2090 then [oCmd, oU8 s.boot.powerDown]
  else if 0x2100 ≤ index && index < 0x2140 then [oU64 (p.ctxNj.getD (index - 0x2100) 0)]
  else if 0x2200 ≤ index && index < 0x2220 then (s.pwrPart (index - 0x2200)).learned.map fun e => oU32 (e / 1000)
  else if 0x2300 ≤ index && index < 0x2340 then
    (List.range 8).map fun l => oDom ((s.paceRegs (index - 0x2300) l).flatMap (toLe 8))
  else if 0x2400 ≤ index && index < 0x2420 then
    let n := index - 0x2400
    let x := s.pwrPart n
    [(oU16 x.floor).rw (.floor n), (oU16 x.ceiling).rw (.ceiling n), (oU16 x.fraction).rw (.fraction n),
     (oDom (x.pops.map (BitVec.ofNat 8))).rw (.pops n), oCmd, oU64 (x.energy / 1000000)]
  else []

def State.dictSessions (s : State) (index : Nat) : List DObj :=
  let m := s.cm
  if index == 0x3000 then
    [oU8 32, oU8 64, oU32 m.applyGen, oU32 m.lastAbort, oU32 m.eventDeadlocks, oU32 m.drainRefusals, oU32 m.lateArrivals, oU32 m.ctxKills]
  else if 0x3010 ≤ index && index < 0x3030 then
    let n := index - 0x3010
    let x := s.part n
    let mine := (List.range 64).map fun c => if (s.ctx c).state != .free && (s.ctx c).part == n then 2 ^ c else 0
    [(oU8 (b2n x.enabled)).rw (.partEnable n), oU64 (total mine), oU32 x.frame, oU64 x.epochT]
  else if 0x3100 ≤ index && index < 0x3140 then
    let x := s.ctx (index - 0x3100)
    [oU8 x.state.code, oU8 x.part, oDom x.recordBytes, oCmd]
  else []

def State.dictFabric (s : State) (index : Nat) : List DObj :=
  let f := s.fab
  if index == 0x4000 then
    [(oU16 f.chipId).rw .chipId, oU8 18, oU16 f.master, oU8 (b2n f.locked), oU32 f.unreachable, oU32 f.retries, oU32 f.duplicates,
     oU32 f.detours]
  else if 0x4010 ≤ index && index < 0x4022 then
    let n := index - 0x4010
    let x := s.port n
    let c := s.boot.carry.ports.getD n []
    [oU8 x.state, oU8 x.lanes, oU16 x.partnerId, oU32 (carryOf c 0 x.transient), oU32 (carryOf c 1 x.lastingCnt),
     oU64 (carryOf c 2 x.fecCorr), oU32 (carryOf c 3 x.fecUnc), (oU8 (b2n x.adminDown)).rw (.adminDown n), oU32 x.worstBer]
  else []

def State.dictMemory (s : State) (index : Nat) : List DObj :=
  if index == 0x5000 then [oU8 32, oU8 64, oU64 hbmEnd, oU32 s.cm.tlbInvalidations, oU32 s.cm.wayMaskRefusals]
  else if 0x5010 ≤ index && index < 0x5030 then
    let p := index - 0x5010
    [(oU32 (s.mem.wayMask.getD p 0)).rw (.wayMask p), oU64 (s.mem.dcHits.getD p 0), oU64 (s.mem.dcMisses.getD p 0)]
  else if index == 0x5100 then
    let e := s.str
    let c := s.boot.carry.str
    [oU16 4096, oU16 e.streams.length, oU32 (carryOf c 0 e.found), oU32 (carryOf c 1 e.escapes), oU32 (carryOf c 2 e.deadlocks),
     oU16 ((e.streams.filter (·.token)).length)]
  else if index == 0x5200 then
    let a := s.arm
    [oU8 48, oU32 786432, oU16 1024, oU32 a.moves, oU32 a.placeClamps, oU32 a.builds, oU32 a.stepLimits]
  else if index == 0x5300 then
    [oU8 4, oU16 16384, oU16 1024, oU32 s.srt.overloads, oU32 s.srt.toClamps, oU64 s.srt.expired]
  else if 0x5310 ≤ index && index < 0x5330 then
    let p := index - 0x5310
    let x := s.srt.parts.getD p {}
    [oU32 x.count, (oU16 x.ceil).rw (.srtCeil p), (oU8 x.expire).rw (.srtExpire p)]
  else if 0x5400 ≤ index && index < 0x5408 then
    let n := index - 0x5400
    let x := s.stack n
    let c := s.boot.carry.stackList.getD n []
    [oU8 x.temp, oU32 (carryOf c 0 x.ceTransient), oU32 (carryOf c 1 x.ceLasting), oU32 (carryOf c 2 x.ueTransient),
     oU32 (carryOf c 3 x.ueLasting), oU16 x.redirects.length, oU16 x.sparesFree, (oU8 x.patrolH).rw (.patrol n)]
  else if index == 0x5480 then oCmdOf 3 4 :: (List.range 16).map fun i => oDom (recOr s.hbm.recs 16 i)
  else []

def State.dictService (s : State) (index : Nat) : List DObj :=
  if index == 0x6000 then [oU32 s.log.seq, oU32 s.log.critical]
  else if index == 0x6010 then (List.range 64).map fun i => oDom (s.log.at_ 64 i)
  else if index == 0x7000 then
    let b := s.boot
    [oU8 b.status, oU8 s.pwr.patinaSource, oU8 lifecycle, oCmd, oU8 b.lastKind, oU32 b.warmResets, oU32 b.zeroises, oU8 (b2n s.pins.intrusion)]
  else if index == 0x7100 then
    let l := s.loop
    [oCmdOf 8 8, oU8 l.state, oU64 l.bits, oU64 l.errors, oCmd, oDom (l.lanes.flatMap (toLe 8))]
  else if index == 0x7110 then [(oDom s.smp.echo).rw .echo]
  else if index == 0x7200 then [oDom s.challenge, oWo 112, oU8 s.sec.unlock, oU8 s.sec.rejects]
  else []

/-- The objects of an index from subindex 1 on; none: no object has the index. -/
def State.dict (s : State) (index : Nat) : List DObj :=
  if index < 0x2000 then s.dictIdentity index
  else if index < 0x3000 then s.dictPower index
  else if index < 0x4000 then s.dictSessions index
  else if index < 0x5000 then s.dictFabric index
  else if index < 0x6000 then s.dictMemory index
  else s.dictService index

/-- The object of an index and subindex among an index's objects: subindex 0 is the highest subindex (R717). -/
def pickObj (l : List DObj) (sub : Nat) : Option DObj := if sub == 0 then some (oU8 l.length) else l[sub - 1]?

/-- An RW object's target, for a write through the dictionary. -/
def State.tgtOf (s : State) (index sub : Nat) : Option Tgt := (pickObj (s.dict index) sub).bind (·.tgt)

end Sys2Proof.Machine
end

