-- ==== Sys2Proof/Machine/Smp.lean ====
section
/-! DEFINITION. The serial management port: frames, READ and WRITE, commits and the power-down (R704–R737). -/
namespace Sys2Proof.Machine

/-! ## Frames (R705–R712) -/

/-- The response frame that a snapshot forms (R712). -/
def responseFrame (m : Mailbox) (bad discarded : Bool) : List Byte :=
  let d := m.data.take 64
  let r := m.req.getD { seq := 0, op := 0, index := 0, sub := 0, offset := 0 }
  let body := toLe 1 0x5A ++ toLe 1 m.status ++ toLe 1 (b2n bad + 2 * b2n discarded + place m.typ 4 4) ++ toLe 1 d.length
    ++ toLe 2 r.index ++ toLe 1 r.sub ++ toLe 1 r.seq ++ toLe 2 r.offset ++ toLe 2 m.total ++ toLe 4 m.gen
    ++ d ++ List.replicate (64 - d.length) 0
  body ++ toLe 4 (crc32 body)

/-- SMP_CS_ASSERT: the mailbox as it stood 100 ns ago forms the response of the transaction; without good power SMP_MISO is released
(R707, R712, R867). -/
def execSmpCsAssert (now : Nat) (s : State) : Out :=
  let s := s.at now
  .next (if s.smp.cs || !s.pins.pwrinGood then s else s.updSmp fun x =>
    let m := x.snapshot s.now
    { x with cs := true, full := false, pend := m.status == 3, resp := responseFrame m x.lastBad x.lastDiscarded
             lastBad := false, lastDiscarded := false })

/-- A frame failed the frame checks: 1 SHORT, 2 SYNC, 3 CRC (R709, R751). -/
def State.frameBad (s : State) (why : Nat) : State :=
  s.updSmp fun x => { x with lastBad := true, frameErrors := x.frameErrors + 1, lastError := why }

/-- SMP_CS_DEASSERT: the transaction ends; before the 672nd edge its frame is SHORT (R709). -/
def execSmpCsDeassert (now : Nat) (s : State) : Out :=
  let s := s.at now
  .next (if !s.smp.cs then s
    else
      let s := if s.smp.full then s else s.frameBad 1
      s.updSmp fun x => { x with cs := false, resp := [] })

/-- A request frame's fields (R711); `header`: its reserved bytes are 0, LEN is 0 but for a WRITE, DATA is 0 beyond LEN. -/
def parseSmp (f : List Byte) : SmpReq :=
  let op := field f 1 1
  let len := field f 3 1
  { seq := field f 7 1, op := op, index := field f 4 2, sub := field f 6 1, offset := field f 8 2
    header := zeroBytes f 2 1 && zeroBytes f 10 6 && (op == 2 || len == 0) && zeroBytes f (16 + min len 64) (64 - min len 64)
    data := (f.drop 16).take (min len 65) }

/-- The request equals the last one taken (R710). -/
def SmpReq.same (a b : SmpReq) : Bool :=
  a.seq == b.seq && a.op == b.op && a.index == b.index && a.sub == b.sub && a.offset == b.offset

/-- A request is taken: the mailbox shows PENDING; a capture or a partly written object is kept by the same object only (R710, R714, R720,
R721, R731). -/
def State.takeSmp (s : State) (r : SmpReq) : State :=
  let keep (op : Nat) (o : Option Segments) : Option Segments :=
    o.filter fun c => r.op == op && c.index == r.index && c.sub == r.sub
  let s := s.setMail { status := 3, req := some r }
  let s := s.updSmp fun x =>
    { x with taken := x.taken + 1, job := some r, waits := false, capture := keep 1 x.capture, partial_ := keep 2 x.partial_ }
  let s := s.updCommits fun c => { c with build := c.build.map fun b => { b with last := s.now } }
  if r.op ≥ 3 then s.mailEnd acInvalidRequest 0 0 [] else s

/-- A frame that passes the frame checks (R710, R712, R713). -/
def State.passFrame (s : State) (r : SmpReq) : State :=
  if !s.serving then s
  else if s.smp.pend then s.updSmp fun x => { x with lastDiscarded := true, discards := x.discards + 1 }
  else if r.op == 0 then s.updSmp fun x => { x with taken := x.taken + 1 }
  else if s.smp.mail.req.any r.same then s.updSmp fun x => { x with taken := x.taken + 1, repeats := x.repeats + 1 }
  else s.takeSmp r

/-- SMP_FRAME: the 672nd edge has come: the frame is checked, and taken or discarded (R708–R710). -/
def execSmpFrame (now : Nat) (frame : List Byte) (s : State) : Out :=
  let s := s.at now
  .next (if !s.smp.cs || s.smp.full || frame.length != 84 then s
    else
      let s := s.updSmp fun x => { x with full := true }
      if field frame 0 1 != 0xA5 then s.frameBad 2
      else if field frame 80 4 != crc32 (frame.take 80) then s.frameBad 3
      else s.passFrame (parseSmp frame))

/-- SMP_NOP: performs nothing; the mailbox keeps its response (R713). -/
def execSmpNop (now : Nat) (s : State) : Out := .next (s.at now)

/-! ## Checks of form (R719–R721, R725) -/

/-- A scalar type. -/
def scalar (typ : Nat) : Bool := 1 ≤ typ && typ ≤ 6

/-- TYPE_LENGTH, OFFSET_RANGE or SEGMENT_ORDER of a WRITE of n data bytes at an offset; 0: it fits (R721, R725). `got`: how much of the
object has come. -/
def writeForm (o : DObj) (offset n got : Nat) : Nat :=
  let size := o.bytes.length
  if scalar o.typ then (if n != size || offset != 0 then acTypeLength else 0)
  else if n == 0 || n > 64 || (offset + n < size && n != 64) then acTypeLength
  else if offset > size || offset + n > size then acOffsetRange
  else if offset != 0 && got != offset then acSegmentOrder
  else 0

/-- The first check of form that a request fails, with the object where it was found (R725). -/
def formCheck (objs : List DObj) (r : SmpReq) (got : Nat) : Nat × Option DObj :=
  if !r.header then (acInvalidRequest, none)
  else if objs.isEmpty then (acObjectMissing, none)
  else
    match pickObj objs r.sub with
    | none => (acSubMissing, none)
    | some o =>
      let code :=
        if r.op == 2 then (if o.acc == .ro then acAccessRo else writeForm o r.offset r.data.length got)
        else if o.acc == .wo || o.acc == .cmd then acAccessWo
        else if scalar o.typ && r.offset != 0 then acTypeLength
        else if r.offset > o.bytes.length then acOffsetRange
        else 0
      (code, some o)

/-! ## READ (R719, R720, R722) -/

/-- A READ of the sideband engine. -/
def State.smpRead (s : State) (r : SmpReq) : State :=
  match formCheck (s.dict r.index) r 0 with
  | (code, none) => s.mailEnd code 0 0 []
  | (code, some o) =>
    let n := o.bytes.length
    if code != 0 then s.mailEnd code o.typ n []
    else if s.phase == .rom && !romServes r.index then s.mailEnd acStateConflict o.typ n []
    else if scalar o.typ then s.mailEnd 0 o.typ n o.bytes
    else
      let whole := if r.offset == 0 then o.bytes else (s.smp.capture.map (·.bytes)).getD o.bytes
      let s := s.updSmp fun x => { x with capture := some ⟨r.index, r.sub, whole⟩ }
      s.mailEnd 0 o.typ n ((whole.drop r.offset).take 64)

/-- SMP_READ: the sideband engine performs the READ it has taken (R714, R719). -/
def execSmpRead (now : Nat) (s : State) : Out :=
  let s := s.at now
  .next (match s.smp.job with
    | some r => if r.op == 1 && s.serving && s.smp.mail.status == 3 then s.smpRead r else s
    | none => s)

/-! ## Commits (R727–R732) -/

/-- The settings of a build's members. -/
def State.memberSettings (s : State) (l : List Member) : List Setting :=
  l.filterMap fun m => (s.tgtOf m.index m.sub).map fun t => ⟨t, m.val⟩

/-- The member whose check failed, as CommitFailMember shows it; 0 where no member did (R727). -/
def State.failMember (s : State) (l : List Member) (code : Nat) : Nat :=
  let set := s.memberSettings l
  let hit (m : Member) : Bool :=
    match s.tgtOf m.index m.sub with
    | none => false
    | some t =>
      if code == acFractionSum then isFraction t
      else if code == acWaymaskOverlap then
        match isMask t with
        | some p => (List.range 32).any fun q => q != p && (s.maskOf set p &&& s.maskOf set q) != 0
        | none => false
      else if code == acObjectPending then s.waiting_.any (·.tgt == t)
      else if code == acStateConflict then s.mayNotDisable [⟨t, m.val⟩]
      else false
  match l.find? hit with
  | some m => m.index * 256 + m.sub
  | none => 0

/-- The request being performed is this write. -/
def State.performing (s : State) (index sub : Nat) : Bool :=
  s.smp.mail.status == 3 && s.smp.job.any fun r => r.op == 2 && r.index == index && r.sub == sub

/-- A build is executed: refused with nothing staged, or applied, staged or held for its drain as one change; the execution ends with the
apply or the refusal, and that of an EPOCH-class commit once it is staged (R90–R93, R714, R728, R730; log 128). -/
def State.commitExecute (s : State) (b : Build) : State :=
  let s := s.updCommits fun c => { c with build := none }
  let fin (s : State) (code : Nat) : State := s.answerWrite 0x1F00 2 code 1 1
  if b.members.isEmpty then fin (s.updCommits fun c => { c with result := 0 }) 0
  else
    let l := s.memberSettings b.members
    let who := s.failMember b.members (s.changeCheck l true)
    let mine := s.performing 0x1F00 2
    let (s, code, waits) := s.submit l true
    if code != 0 then
      fin ((s.updCommits fun c => { c with result := code, failMember := who }).logEvent 0x0011 6 1 (toLe 4 code ++ toLe 4 who)) code
    else if waits && strictest l == .drain then
      if mine then s.updSmp fun x => { x with waits := true, mail := { x.mail with typ := 1, total := 1 } } else s
    else if waits then fin (s.updCommits fun c => { c with result := 0, failMember := 0 }) 0
    else fin s.commitDone 0

/-- A CMD of the commit object is written: CommitOpen (subindex 1) or CommitExecute (subindex 2) (R727, R728, R730). -/
def State.commitCmd (s : State) (sub v : Nat) : State :=
  if !s.serving then s
  else
    let build := s.smp.commits.build
    let outOfOrder := if sub == 1 then build.isSome || s.commitsPending ≥ 8 else build.isNone
    let bad := if outOfOrder then acCommitSequence else reservedUnless (v == 1 || (sub == 2 && v == 2))
    let code := s.cmdCheck 0x1F00 0 bad
    if code != 0 then (s.refuse code).answerWrite 0x1F00 sub code 1 1
    else if sub == 1 then (s.updCommits fun c => { c with build := some { last := s.now } }).answerWrite 0x1F00 1 0 1 1
    else if v == 2 then (s.updCommits fun c => { c with build := none }).answerWrite 0x1F00 2 0 1 1
    else
      match build with
      | some b => s.commitExecute b
      | none => s

/-- COMMIT_OPEN: CommitOpen 1 (R728). -/
def execCommitOpen (now : Nat) (s : State) : Out := .next ((s.at now).commitCmd 1 1)
/-- COMMIT_EXECUTE: CommitExecute 1 (R730). -/
def execCommitExecute (now : Nat) (s : State) : Out := .next ((s.at now).commitCmd 2 1)
/-- COMMIT_DISCARD: CommitExecute 2 (R727). -/
def execCommitDiscard (now : Nat) (s : State) : Out := .next ((s.at now).commitCmd 2 2)

/-- A build that has had no request from its owner for 1 s is discarded (R731). -/
def Commits.expire (c : Commits) (now : Nat) : Commits :=
  if c.build.any fun b => b.last + 1000000000 ≤ now then { c with build := none, result := acCommitSequence } else c

/-- A write during a build is recorded as a member once its type, range and reserved values are right (R729). -/
def State.memberWrite (s : State) (b : Build) (index sub : Nat) (t : Tgt) (v : Nat) : State × Nat :=
  let known := b.members.any fun m => m.index == index && m.sub == sub
  if !known && b.members.length ≥ 32 then (s, acCommitFull)
  else if s.valueBad t v != 0 then (s, s.valueBad t v)
  else if s.phase == .down then (s, acStateConflict)
  else
    let l := if known then b.members.map fun m => if m.index == index && m.sub == sub then { m with val := v } else m
      else b.members ++ [⟨index, sub, v⟩]
    (s.updCommits fun c => { c with build := some { b with members := l } }, 0)

/-! ## The power-down (R733–R737) -/

/-- PowerDown is written: from acceptance no queue starts a command and no TCU places a block (R733–R735). -/
def State.powerDownCmd (s : State) (v : Nat) : State :=
  s.command 0x2090 1 1 1 2 (reservedUnless (v == 1 || v == 2)) fun s =>
    let live := (List.range 64).filter s.live
    if v == 1 && !live.isEmpty then (s, acStateConflict)
    else if s.cm.drain.isSome then (s, acDrainBusy)
    else ((s.acceptFaults (live.map fun c => hostKill c 7)).updBoot fun b => { b with powerDown := 1 }, 0)

/-- POWER_DOWN_ORDERLY: PowerDown 1 (R734). -/
def execPowerDownOrderly (now : Nat) (s : State) : Out := .next ((s.at now).powerDownCmd 1)
/-- POWER_DOWN_FORCED: PowerDown 2 (R734). -/
def execPowerDownForced (now : Nat) (s : State) : Out := .next ((s.at now).powerDownCmd 2)

/-- Nothing is left to drain for the power-down: no kill runs and no store is buffered (R735). -/
def State.downReady (s : State) : Bool :=
  s.cm.ctxs.all (fun x => x.state != .killing && !x.state.live) && s.tiles.all (fun t => t.sb.isEmpty) && s.mem.hwb.isEmpty

/-- POWER_DOWN_DONE: every store has reached its point; the device cache is written back and the power-down acknowledged (R188, R735,
R736). -/
def execPowerDownDone (now : Nat) (s : State) : Out :=
  let s := s.at now
  .next (if s.boot.powerDown != 1 || !s.clocked || !s.downReady then s
    else ({ s with phase := .down }.updMem fun m => m.dc.foldl MemSys.evict m).updBoot fun b => { b with powerDown := 2 })

/-! ## WRITE (R721–R725, R729) -/

/-- The whole value of an RW object is written (R83–R87, R725, R729). -/
def State.objWrite (s : State) (index sub : Nat) (o : DObj) (t : Tgt) (v : Nat) : State :=
  let fin (s : State) (code : Nat) : State := (s.refuse code).mailEnd code o.typ o.bytes.length []
  match s.smp.commits.build with
  | some b =>
    let (s, code) := s.memberWrite b index sub t v
    fin s code
  | none =>
    if s.valueBad t v != 0 then fin s (s.valueBad t v)
    else if s.phase == .rom && !romServes index then fin s acStateConflict
    else
      let (s, code, waits) := s.submit [⟨t, v⟩] false
      if code == 0 && waits && clsOf t == .drain then
        s.updSmp fun x => { x with waits := true, mail := { x.mail with typ := o.typ, total := o.bytes.length } }
      else fin s code

/-- A CMD object is written: each has one shared operation with its own row. -/
def State.cmdWrite (s : State) (index sub : Nat) (d : List Byte) : State :=
  let v := leNat d
  if index == 0x1F00 then s.commitCmd sub v
  else if index == 0x2090 then s.powerDownCmd v
  else if index < 0x3000 then s.learnCmd (index - 0x2400) v
  else if index < 0x4000 then s.ctxKillCmd (index - 0x3100) v
  else if index == 0x5480 then s.retireCmd v
  else if index == 0x7000 then s.resetCmd v
  else if sub == 1 then s.loopCmd d
  else s.loopStopCmd v

/-- A WRITE of the sideband engine (R721, R722, R725). -/
def State.smpWrite (s : State) (r : SmpReq) : State :=
  let part := s.smp.partial_.filter fun p => p.index == r.index && p.sub == r.sub && r.offset != 0
  let got := (part.map (·.bytes)).getD []
  match formCheck (s.dict r.index) r got.length with
  | (code, none) => s.mailEnd code 0 0 []
  | (code, some o) =>
    let n := o.bytes.length
    let d := got ++ r.data
    let s := s.updSmp fun x => { x with partial_ := none }
    if code != 0 then s.mailEnd code o.typ n []
    else if s.gatedNow (gateOf r.index) then (s.refuse acStopped).mailEnd acStopped o.typ n []
    else if d.length < n then (s.updSmp fun x => { x with partial_ := some ⟨r.index, r.sub, d⟩ }).mailEnd 0 o.typ n []
    else
      match o.acc, o.tgt with
      | .rw, some t => s.objWrite r.index r.sub o t (leNat d)
      | .wo, _ => s.tokenCmd d
      | .cmd, _ => s.cmdWrite r.index r.sub d
      | _, _ => s

/-- SMP_WRITE: the sideband engine performs the WRITE it has taken (R714, R721). -/
def execSmpWrite (now : Nat) (s : State) : Out :=
  let s := s.at now
  .next (match s.smp.job with
    | some r => if r.op == 2 && s.serving && s.smp.mail.status == 3 && !s.smp.waits then s.smpWrite r else s
    | none => s)

end Sys2Proof.Machine
end

