-- ==== Sys2Proof/Machine/Tray.lean ====
section
/-! DEFINITION. A tray controller: its modules and lines, the state block and its alarms, the tray ceiling, and the Plinth message
(R738–R743, R757, R762–R766, R776–R780, R824). A controller is one of three: 0 compute tray, 1 switch tray, 2 management tray. -/
namespace Sys2Proof.Machine

/-! ## Access -/

def State.trayAt (s : State) (who : Nat) : Tray := if who == 0 then s.tray else if who == 1 then s.sw else s.mgmt
def State.setTray (s : State) (who : Nat) (t : Tray) : State :=
  if who == 0 then { s with tray := t } else if who == 1 then { s with sw := t } else { s with mgmt := t }

/-- Tray time goes on, never back. -/
def Tray.at (t : Tray) (now : Nat) : Tray := { t with time := max t.time now }
/-- What a controller does at a tray time. -/
def State.onTray (s : State) (who now : Nat) (f : Tray → Tray) : State := s.setTray who (f ((s.trayAt who).at now))

def Tray.out (t : Tray) (o : TrayOut) : Tray := { t with sent := t.sent ++ [o] }
def Tray.mod (t : Tray) (pos : Nat) : Module := t.modules.getD pos {}
def Tray.updMod (t : Tray) (pos : Nat) (f : Module → Module) : Tray := { t with modules := t.modules.modify pos f }
def Tray.chan (t : Tray) (pos : Nat) : Channel := t.channels.getD pos {}
def Tray.updChan (t : Tray) (pos : Nat) (f : Channel → Channel) : Tray := { t with channels := t.channels.modify pos f }
def Tray.updImages (t : Tray) (f : Images → Images) : Tray := { t with images := f t.images }
def Tray.updBer (t : Tray) (f : Ber → Ber) : Tray := { t with ber := f t.ber }
def Tray.updCommits (t : Tray) (f : Commits → Commits) : Tray := { t with commits := f t.commits }
/-- For each position in turn. -/
def Tray.each {α : Type} (t : Tray) (l : List α) (f : α → Tray → Tray) : Tray := l.foldl (fun t x => f x t) t
/-- The positions whose module is powered. -/
def Tray.on (t : Tray) : List Nat := (List.range 4).filter fun p => (t.mod p).powered

/-- The controller logs an event of its own (R754, R757). -/
def Tray.logEvent (t : Tray) (code severity : Nat) (detail : List Byte) : Tray :=
  { t with log := t.log.add 1024 t.time code 0xFF severity detail }

/-- The controller's node ID (R776). -/
def Tray.node (t : Tray) : Nat := if t.kind == 2 then t.slot else if t.kind == 3 then 24 + t.slot else 28

/-- The last block of a node, not older than 50 ms. -/
def Tray.heard (t : Tray) (n : Nat) : Option Heard := t.rack.find? fun h => h.node == n && h.fresh
/-- A node's STATE is RUNNING. -/
def Tray.running (t : Tray) (n : Nat) : Bool := (t.heard n).any fun h => field h.block 1 1 == 3

/-- A requester other than `src` owns the open build on a chip (R747). -/
def Tray.owned (t : Tray) (pos : Nat) (src : Option Nat) : Bool :=
  (t.chan pos).owner.any fun o => some o.1 != src && o.2 + 1000000000 > t.time

/-- Tray firmware writes an object of a chip, unless a requester owns a build there (R747). -/
def Tray.fw (t : Tray) (pos index sub val : Nat) : Tray := if t.owned pos none then t else t.out (.chipWrite pos index sub val)

/-! ## Modules -/

/-- A module's 12 V is applied and its chip leaves CHIP_RST_N, with the image copy in use presented and PERST_N held (R748, R782, R783,
R811). -/
def Tray.power (t : Tray) (pos : Nat) : Tray :=
  let was := (t.mod pos).powered
  let copy := if (t.mod pos).swapped then (t.mod pos).copy else t.images.selected
  let t := t.updMod pos fun m => { m with powered := true, tripped := false, copy := copy, cycle := 2, since := t.time, perst := true }
  let t := if was then t else (t.updMod pos fun m => { m with pd := 0, seq := 0 }).updChan pos fun c => { c with state := 0, owner := none }
  (((t.out (.present pos copy)).out (.perst pos true)).out (.modulePower pos true)).out (.chipReset pos false)

/-- A module's 12 V is removed (R774, R791, R792). -/
def Tray.unpower (t : Tray) (pos : Nat) : Tray :=
  if !(t.mod pos).powered then t
  else (t.updMod pos fun m => { m with powered := false, cycle := 0, perst := true, swapped := false }).out (.modulePower pos false)

/-- The host module is powered or not. -/
def Tray.host (t : Tray) (on : Bool) : Tray := if t.hostOn == on then t else { t with hostOn := on }.out (.hostPower on)

/-! ## The ceiling (R762–R766) -/

/-- The ceiling of R762 by healthy shelves; with two or fewer R762 gives none, and R27 holds it at 6,500 W (log 100). -/
def tableCeiling (n : Nat) : Nat :=
  if n ≥ 6 then 6800 else if n == 5 then 6500 else if n == 4 then 5000 else if n == 3 then 3600 else min 6500 (Config.noCeiling n)
/-- The ceiling in effect (R764). -/
def Tray.ceiling (t : Tray) : Nat := min (tableCeiling t.ceilHealthy) t.persist.limitW
/-- The CapW of a chip (R762, R764). -/
def Tray.capFor (t : Tray) (pos : Nat) : Nat := min (t.persist.chipCapW.getD pos 1500) ((t.ceiling - 800) / 4)

/-- A chip's CapW is written, or, with two healthy shelves or fewer, the chip is powered down by force (R762, R764). -/
def Tray.writeCap (t : Tray) (pos : Nat) : Tray :=
  if t.ceilHealthy ≤ 2 then (if (t.mod pos).pd == 0 then t.fw pos 0x2090 1 2 else t)
  else (t.updMod pos fun m => { m with capLast := t.capFor pos }).fw pos 0x2000 2 (t.capFor pos)
/-- The ceiling has changed: every powered chip is written (R764). -/
def Tray.writeCaps (t : Tray) : Tray := t.each t.on fun p t => t.writeCap p

/-- The shelves whose last block is fresh and reports HEALTHY 1. -/
def Tray.countHealthy (t : Tray) : Nat :=
  ((List.range 6).filter fun i => (t.heard (30 + i)).any fun h => field h.block 16 1 == 1).length

/-- The healthy count is taken again: a lower one takes effect at once, a higher one has to hold (R762, R763, R766). -/
def Tray.settle (t : Tray) : Tray :=
  let n := t.countHealthy
  let same := n == t.healthy
  let t := { t with healthy := n }
  if t.busLost then t
  else if n < t.ceilHealthy then { t with ceilHealthy := n, higher := none }.writeCaps
  else if n > t.ceilHealthy then { t with higher := if same && t.higher.isSome then t.higher else some t.time }
  else { t with higher := none }

/-! ## The state block (R777–R780) -/

/-- The CDU runs within R767, with no stop announced (R781, R782). -/
def Tray.cduGood (t : Tray) : Bool :=
  (t.heard 29).any fun h => field h.block 1 1 == 3 && field h.block 18 2 ≤ 320 && field h.block 24 4 == 0

/-- The CDU is unable to meet R767, as its frame shows it (STATE FAULT, its own CDU_FAULT alarm, or a supply above 32 °C), or there is no frame
(R767, R778; log 156). -/
def Tray.cduFault (t : Tray) : Bool :=
  match t.heard 29 with
  | some h => field h.block 1 1 == 7 || bitAt (field h.block 4 4) 10 || field h.block 18 2 > 320
  | none => t.time ≥ 50000000

/-- WAIT (R780). -/
def Tray.wait (t : Tray) : Nat :=
  if t.kind == 2 then
    match t.start with
    | some st => st.step
    | none => 0
  else if t.state != 1 then 0
  else if t.kind == 4 || t.sensed.busMv < 48000 then 1
  else if t.cduGood then 3 else 2

/-- ALARMS (R778). -/
def Tray.alarms (t : Tray) : Nat :=
  let c := t.kind == 2
  let x := t.sensed
  let cooled := t.kind != 4
  total (([(0, x.measured && x.busMv < 48000), (1, x.measured && x.busMv > 54000), (2, cooled && x.flowed && x.flow < (if c then 1050 else 350)), (3, c && t.flowLost),
    (4, cooled && x.supply > 320), (5, c && x.wet), (6, c && t.modules.any (·.tripped)), (7, c && x.stopped != 0),
    (8, c && t.ceilHealthy < 6), (10, t.cduFault),
    (11, bitAt t.failed 11 || (c && t.channels.any fun k => k.state == 1)), (12, c && (x.portDown || !t.ber.held.isEmpty)),
    (13, c && !t.ber.bad.isEmpty), (14, x.lid), (15, bitAt t.failed 15)] : List (Nat × Bool)).map fun (x : Nat × Bool) => if x.2 then 2 ^ x.1 else 0)

/-- The nodes heard, as a mask (R777, R804). -/
def Tray.nodes (t : Tray) : Nat := total ((List.range 64).map fun k => if (t.heard k).isSome then 2 ^ k else 0)

/-- A mask of positions. -/
def posMask (l : List Nat) : Nat := total (l.map (2 ^ ·))

/-- The kind-specific bytes 16–59 of the state block (R777). -/
def Tray.blockTail (t : Tray) : List Byte :=
  let x := t.sensed
  let l :=
    if t.kind == 2 then
      toLe 2 x.flow ++ toLe 2 x.supply ++ toLe 2 x.ret ++ toLe 1 (posMask t.on) ++ toLe 1 (if t.coolantOk then 15 else 0)
        ++ t.modules.flatMap (fun m => toLe 2 m.capLast) ++ t.modules.flatMap (fun m => toLe 2 m.measW) ++ toLe 1 t.healthy
        ++ toLe 1 (t.ceiling / 100)
    else if t.kind == 3 then toLe 1 t.slot ++ toLe 2 x.chipLinks ++ toLe 1 x.rackLinks
    else toLe 8 t.nodes
  l ++ List.replicate (44 - l.length) 0

/-- The state block (R777). -/
def Tray.block (t : Tray) : List Byte :=
  toLe 1 t.kind ++ toLe 1 t.state ++ toLe 1 t.wait ++ toLe 1 0 ++ toLe 4 t.alarms ++ toLe 2 t.sensed.powerW ++ toLe 2 t.sensed.busMv
    ++ toLe 4 0 ++ t.blockTail

/-- A STATE (function code 1) or EMERGENCY (0) frame leaves with the state block (R740, R741). -/
def Tray.sendBlock (t : Tray) (code kind : Nat) : Tray :=
  if t.busOpen then t
  else { t with sentBlock := t.block }.out (.frame code (toLe 1 kind ++ toLe 1 t.node ++ toLe 2 0 ++ t.block))

/-- What has been measured. -/
def Tray.sense (t : Tray) (o : TraySense) : Tray :=
  { t with
    sensed := { t.sensed with
      powerW := o.powerW, busMv := o.busMv, lid := o.lid, stopped := o.stopped, portDown := o.portDown, chipLinks := o.chipLinks
      rackLinks := o.rackLinks, measured := true }
    modules := t.modules.mapIdx fun i m => { m with measW := if m.powered then o.modW.getD i 0 else 0 } }

/-! ## Plinth messages (R738, R742, R743) -/

/-- A request message (R738): its key is what a resend is matched by (R743); `header`: its reserved bytes, TYPE, TOTAL, GEN are 0, LEN is
0 but for a WRITE, and DATA is 0 beyond LEN; `fits`: LEN is what the medium and the message hold. -/
structure TrayReq where
  node : Nat
  target : Nat
  seq : Nat
  op : Nat
  index : Nat
  sub : Nat
  offset : Nat
  header : Bool
  fits : Bool
  data : List Byte
deriving DecidableEq, Repr, Inhabited

/-- DATA bytes of a message: 44 on CAN FD (requesters below 64), 1,024 on Ethernet. -/
def mediumMax (src : Nat) : Nat := if src < 64 then 44 else 1024

def parseMsg (src : Nat) (m : List Byte) : TrayReq :=
  let len := field m 12 2
  let op := field m 4 1
  { node := field m 1 1, target := field m 2 1, seq := field m 3 1, op := op, index := field m 6 2, sub := field m 8 1
    offset := field m 10 2
    header := zeroBytes m 5 1 && zeroBytes m 9 1 && zeroBytes m 14 6 && (op == 2 || len == 0) && (m.drop (20 + len)).all (· == 0)
    fits := len ≤ mediumMax src && 20 + len ≤ m.length
    data := (m.drop 20).take len }

def TrayReq.key (r : TrayReq) : List Nat := [r.seq, r.op, r.target, r.index, r.sub, r.offset]

/-- A request ends: its response goes to the requester and is stored (R738, R739, R743). `code` 0 is OK. -/
def Tray.respond (t : Tray) (src : Nat) (msg : List Byte) (code typ size gen : Nat) (data : List Byte) : Tray :=
  let r := parseMsg src msg
  let d := (if code == 0 then data else toLe 4 code).take (mediumMax src)
  let body := toLe 1 2 ++ toLe 1 t.node ++ toLe 1 r.target ++ toLe 1 r.seq ++ toLe 1 (if code == 0 then 1 else 2) ++ toLe 1 typ
    ++ toLe 2 r.index ++ toLe 1 r.sub ++ toLe 1 0 ++ toLe 2 r.offset ++ toLe 2 d.length ++ toLe 2 size ++ toLe 4 gen ++ d
  let out := if src < 64 then body ++ List.replicate (64 - body.length) 0 else body
  { t with asked := (t.asked.map fun (a : Asked) => if a.src == src && a.key == r.key then { a with answer := some out } else a) }.out
    (.response src out)

/-! ## Values of objects (R752, R795, R802, R824–R826) -/

/-- The objects that are persisted (R824). -/
def persisted (index sub : Nat) : Bool :=
  (index == 0x8000 && [3, 5, 8, 9].contains sub) || (index == 0x1110 && 2 ≤ sub && sub ≤ 5)

/-- The objects of class DRAIN (R795, R802). -/
def drainObj (index sub : Nat) : Bool := index == 0x8000 && (sub == 3 || sub == 8)

/-- What is wrong with a value of an RW object: VALUE_RANGE, VALUE_RESERVED, or 0 (R725, R752, R802, R826). -/
def trayValueBad (index sub v : Nat) : Nat :=
  let range (ok : Bool) : Nat := if ok then 0 else acValueRange
  if index == 0x1110 then (if sub == 2 then reservedUnless (v ≤ 1) else if sub == 4 then range (8 ≤ v && v ≤ 30) else 0)
  else if index == 0x8050 then range (v < 2 ^ 25 && v % 1024 == 0)
  else if sub == 3 then range (v ≤ 7)
  else if sub == 5 then range (2400 ≤ v && v ≤ 6800)
  else if sub == 8 then reservedUnless (v < 16)
  else range ((List.range 4).all fun i => 400 ≤ bits v (16 * i) 16 && bits v (16 * i) 16 ≤ 1500)

/-- An RW object takes a value. -/
def Tray.put (t : Tray) (index sub v : Nat) : Tray :=
  let p := t.persist
  if index == 0x8050 then t.updImages fun i => { i with offset := v }
  else
    { t with persist :=
        if index == 0x1110 then
          (if sub == 2 then { p with ipv4Mode := v } else if sub == 3 then { p with ipv4Address := v }
           else if sub == 4 then { p with ipv4Prefix := v } else { p with ipv4Gateway := v })
        else if sub == 3 then { p with rackNumber := v }
        else if sub == 5 then { p with limitW := v }
        else if sub == 8 then { p with moduleEnable := v }
        else { p with chipCapW := (List.range 4).map fun i => bits v (16 * i) 16 } }

/-- Values take effect together, as one apply (R89, R764, R824). -/
def Tray.takeMembers (t : Tray) (l : List Member) : Tray :=
  let t := t.each l fun m t => t.put m.index m.sub m.val
  let t := { t with generation := (t.generation + 1) % 2 ^ 32 }
  let t := if l.any fun m => persisted m.index m.sub then t.updImages fun i => { i with dictDue := true } else t
  if l.any fun m => m.index == 0x8000 && (m.sub == 5 || m.sub == 9) then t.writeCaps else t

/-- A change that a tray drain carried takes effect and its request ends (R744, R795). -/
def Tray.takeChange (t : Tray) (c : TrayChange) : Tray :=
  let t := t.takeMembers c.members
  let t := if c.commit then t.updCommits fun k => { k with result := 0, failMember := 0, generation := t.generation } else t
  let r := parseMsg c.ask.src c.ask.msg
  t.respond c.ask.src c.ask.msg 0 1 r.data.length t.generation []

end Sys2Proof.Machine
end

