-- ==== Sys2Proof/Machine/TrayRack.lean ====
section
/-! DEFINITION. The rack: frames of the rack bus, shelves and ceilings, coolant, rack start and stop, and the tray drain (R741,
R758–R792). -/
namespace Sys2Proof.Machine

/-! ## Fault, drain (R773, R784, R786, R790–R795) -/

/-- A drain ends without its sequence or with it: the change that it carried takes effect (R795). -/
def Tray.endDrain (t : Tray) : Tray :=
  let c := t.drain.bind (·.change)
  let t := { t with drain := none }
  match c with
  | some c => t.takeChange c
  | none => t

/-- The tray enters FAULT; `bit`: the alarm that is set (R773, R784). -/
def Tray.fault (t : Tray) (bit : Nat) : Tray :=
  { t.endDrain with state := 7, start := none, failed := t.failed ||| (if bit == 0 then 0 else 2 ^ bit) }

/-- DRAINED; after a change, the tray starts again from step 1 (R791, R795). -/
def Tray.drained (t : Tray) : Tray :=
  let again := (t.drain.bind (·.change)).isSome
  let t := t.endDrain
  if again then { t with state := 1, start := some { step := 1, since := t.time } } else { t with state := 5 }

/-- Step 4: the modules are off, so the host module is told to shut down (R791). -/
def Tray.shutHost (t : Tray) : Tray :=
  if !t.hostOn then t.drained
  else { t with drain := (t.drain.map fun (d : TrayDrain) => { d with step := 4, shutdownAt := t.time }) }.out .hostShutdown

/-- AdminDown 1 goes to every port of a chip (R791). -/
def Tray.portsDown (t : Tray) (pos : Nat) : Tray := t.each (List.range 18) fun q t => t.fw pos (0x4010 + q) 8 1

/-- PowerDown goes to every chip that has not powered down; the CDU's first announcement leaves chips with live contexts (R786, R791). -/
def Tray.chipsDown (t : Tray) (d : TrayDrain) (o : ChipObs) : Tray :=
  t.each t.on fun p t =>
    if (t.mod p).pd ≥ 1 || (d.planned && !d.forced && bitAt o.live p) then t else t.fw p 0x2090 1 (if d.forced then 2 else 1)

/-- A tray drain begins (R791). -/
def Tray.drainStart (t : Tray) (forced planned : Bool) (change : Option TrayChange) : Tray :=
  let t := { t with state := 4, drain := some { forced := forced, planned := planned, change := change } }
  t.each t.on fun p t => t.portsDown p

/-- Every powered chip has passed a step, or has powered down. -/
def Tray.allOn (t : Tray) (ok : Nat → Bool) : Bool := t.on.all fun p => ok p || (t.mod p).pd ≥ 2

/-- The tray drain advances; what a chip has not yet taken is written again (R747, R786, R791, R792). -/
def Tray.drainStep (t : Tray) (o : ChipObs) : Tray :=
  match t.drain with
  | none => t
  | some d =>
    let t := t.each t.on fun p t => t.updMod p fun m => { m with pd := o.pd.getD p 0 }
    let t := t.each t.on fun p t => if (t.mod p).pd == 3 then t.unpower p else t
    if d.step == 1 then
      if t.allOn (bitAt o.adminDown) then { t with drain := some { d with step := 2 } }.chipsDown d o
      else t.each (t.on.filter fun p => !bitAt o.adminDown p) fun p t => t.portsDown p
    else if d.step == 2 then
      if t.allOn fun _ => false then (t.each t.on fun p t => t.unpower p).shutHost else t.chipsDown d o
    else if o.hostOff then (t.host false).drained
    else t

/-- TRAY_DRAIN_STEP (R791). -/
def execTrayDrainStep (now : Nat) (obs : ChipObs) (s : State) : Out := .next (s.onTray 0 now fun t => t.drainStep obs)

/-- HOST_SHUTDOWN_TIMEOUT: 120 s after the signal the host's power is removed all the same (R778, R791). -/
def execHostShutdownTimeout (now : Nat) (s : State) : Out :=
  .next (s.onTray 0 now fun t =>
    match t.drain with
    | some d =>
      if d.step == 4 && d.shutdownAt + 120000000000 ≤ t.time then
        ({ t with failed := t.failed ||| 2 ^ 15 }.host false).drained
      else t
    | none => t)

/-- The CDU announces a stop in 5 s or less: every chip still powered is powered down by force, and the host is off (R786). -/
def Tray.forceStop (t : Tray) : Tray :=
  if t.drain.any fun d => d.planned && d.forced then t
  else
    let step := (t.drain.map (·.step)).getD 0
    let change := t.drain.bind (·.change)
    let t := { t with state := 4, start := none, drain := some { step := 2, forced := true, planned := true, change := change } }
    let t := t.each t.on fun p t => t.fw p 0x2090 1 2
    let t := t.host false
    if step == 4 || t.on.isEmpty then t.drained else t

/-- A CDU block acts on a compute tray (R786). -/
def Tray.cduStop (t : Tray) (block : List Byte) : Tray :=
  let ms := field block 24 4
  if ms == 0 || ms > 30000 then t
  else if ms ≤ 5000 then (if [2, 3, 4, 8].contains t.state then t.forceStop else t)
  else if t.state == 3 then t.drainStart false true none
  else t

/-! ## Frames of the bus (R741, R762, R763, R766) -/

/-- A switch tray notes since when no compute tray has been RUNNING, once one has (R787). -/
def Tray.watchCompute (t : Tray) (before : Bool) : Tray :=
  if (List.range 24).any t.running then { t with noCompute := none }
  else if before then { t with noCompute := some t.time }
  else t

/-- What a controller makes of a change of the nodes it has heard. -/
def Tray.reheard (t : Tray) (rack : List Heard) : Tray :=
  let before := (List.range 24).any t.running
  let t := { t with rack := rack }
  if t.kind == 2 then t.settle else if t.kind == 3 then t.watchCompute before else t

/-- STATE_FRAME_RECEIVE: a STATE or EMERGENCY frame of another node is taken (R741, R762, R763, R786). -/
def execStateFrameReceive (who now node : Nat) (emergency : Bool) (block : List Byte) (s : State) : Out :=
  .next (s.onTray who now fun t =>
    if block.length != 60 || node ≥ 64 || node == t.node || t.busOpen then t
    else
      let t := if emergency then t else { t with busLost := false, lastFrame := t.time }
      let t := t.reheard ({ node := node, time := t.time, block := block } :: t.rack.filter (·.node != node))
      if t.kind == 2 && node == 29 then t.cduStop block else t)

/-- STATE_FRAME_TIMEOUT: a node's block is older than 50 ms (R762, R778, R804). -/
def execStateFrameTimeout (who now node : Nat) (s : State) : Out :=
  .next (s.onTray who now fun t =>
    if t.rack.any fun h => h.node == node && h.fresh && h.time + 50000000 < t.time then
      t.reheard (t.rack.map fun h => if h.node == node then { h with fresh := false } else h)
    else t)

/-- STATE_FRAME_SEND: the tray's STATE frame, every 10 ms or after a change (R741). -/
def execStateFrameSend (who now : Nat) (obs : TraySense) (s : State) : Out :=
  .next (s.onTray who now fun t => (t.sense obs).sendBlock 1 3)

/-- EMERGENCY_FRAME_SEND: the alarms have changed from those last sent (R741). -/
def execEmergencyFrameSend (who now : Nat) (obs : TraySense) (s : State) : Out :=
  .next (s.onTray who now fun t =>
    let t := t.sense obs
    if t.alarms == field t.sentBlock 4 4 then t else t.sendBlock 0 4)

/-- BUS_LOST: no STATE frame for 50 ms: the ceiling of five healthy shelves (R763). -/
def execBusLost (now : Nat) (s : State) : Out :=
  .next (s.onTray 0 now fun t =>
    if t.busLost || t.time < t.lastFrame + 50000000 then t
    else { t with busLost := true, ceilHealthy := 5, higher := none }.writeCaps)

/-- CEILING_RAISE: a higher healthy count has held for 10 s (R766). -/
def execCeilingRaise (now : Nat) (s : State) : Out :=
  .next (s.onTray 0 now fun t =>
    if !t.busLost && t.higher.any fun h => h + 10000000000 ≤ t.time then { t with ceilHealthy := t.healthy, higher := none }.writeCaps
    else t)

/-- CAP_CHECK: a CapW found above the value last written is written again (R765). -/
def execCapCheck (now : Nat) (caps : List Nat) (s : State) : Out :=
  .next (s.onTray 0 now fun t => t.each t.on fun p t =>
    if caps.getD p 0 > (t.mod p).capLast then t.fw p 0x2000 2 (t.mod p).capLast else t)

/-! ## Coolant (R768–R775) -/

/-- COOLANT_OK is driven. -/
def Tray.coolant (t : Tray) (on : Bool) : Tray := if t.coolantOk == on then t else { t with coolantOk := on }.out (.coolantOk on)

/-- The conditions of R769 have held for 5 s. -/
def Tray.flowGood (t : Tray) : Bool := t.flowSince.any fun f => f + 5000000000 ≤ t.time

/-- COOLANT_OK is deasserted under R770, and power is to go 100 ms later for a leak (R773, R779). -/
def Tray.flowCheck (t : Tray) : Tray :=
  let x := t.sensed
  let t :=
    if t.coolantOk && (t.lowFlow ≥ 3 || !x.latched || x.wet) then
      { t.coolant false with
        flowStops := t.flowStops + 1, okAt := t.time, flowLost := true
        state := if t.state == 3 && !x.wet then 8 else t.state }
    else t
  if x.wet && !t.coolantOk && t.state != 7 && t.leakOff.isNone then { t with leakOff := some (t.okAt + 100000000) } else t

/-- COOLANT_OK is asserted again once R769 holds: the stopped chips are reset warm and the tray is RUNNING again (R771, R772). -/
def Tray.flowReturn (t : Tray) : Tray :=
  let starting := t.start.any fun st => st.step < 4
  if t.flowLost && !t.coolantOk && t.flowGood && t.okAt + 10000000 ≤ t.time && t.state != 7 && t.leakOff.isNone && !starting then
    let t := { t.coolant true with flowLost := false }
    let t := if t.state == 4 then t else t.each t.on fun p t => (t.updMod p fun m => { m with pd := 0 }).fw p 0x7000 4 1
    { t with state := if t.state == 8 then 3 else t.state }
  else t

/-- FLOW_SAMPLE: the tray samples its flow, temperatures, latches and leak sensor (R768–R772, R781). -/
def execFlowSample (who now flow supply ret : Nat) (latched wet : Bool) (s : State) : Out :=
  .next (s.onTray who now fun t =>
    if t.kind == 4 then t
    else
      let good := flow ≥ (if t.kind == 2 then 1050 else 350) && (t.kind == 3 || (latched && !wet))
      let t := { t with
        sensed := { t.sensed with flow := flow, supply := supply, ret := ret, latched := latched, wet := wet, flowed := true }
        lowFlow := if flow < 600 then t.lowFlow + 1 else 0
        flowSince := if good then some (t.flowSince.getD t.time) else none }
      if t.kind == 2 then t.flowCheck.flowReturn else t)

/-- LEAK_POWER_REMOVE: 100 ms after the deassertion for a leak, module and host power go and the tray is in FAULT (R773). -/
def execLeakPowerRemove (now : Nat) (s : State) : Out :=
  .next (s.onTray 0 now fun t =>
    if t.leakOff.any (· ≤ t.time) then ({ (t.each t.on fun p t => t.unpower p).host false with leakOff := none }).fault 0 else t)

/-- MODULE_THERMTRIP: the module's 12 V is removed (R774). -/
def execModuleThermtrip (now pos : Nat) (s : State) : Out :=
  .next (s.onTray 0 now fun t =>
    if pos < 4 && (t.mod pos).powered then (t.unpower pos).updMod pos fun m => { m with tripped := true } else t)

/-! ## Start (R781–R784, R803, R816, R836) -/

/-- A copy of the boot image (0 A, 1 B) is valid: magic, LENGTH and CRC of its header (R821). -/
def copyValid (m : Mem) (magic size : Nat) : Bool :=
  let h := Mem.bytes m 0xFF 0 16
  let n := field h 8 4
  field h 0 4 == magic && 32 ≤ n && n ≤ size && crc32 (Mem.bytes m 0xFF 16 (n - 16)) == field h 12 4
/-- The magic and size of the image and the dictionary copies (R821, R824). -/
def imageMagic : Nat := 0x53594D47
def imageSize : Nat := 2 ^ 25
def dictMagic : Nat := 0x53594450
def dictSize : Nat := 2 ^ 20
def Tray.image (t : Tray) (copy : Nat) : Mem := if copy == 0 then t.images.a else t.images.b

/-- A chip that has left NOT_READY: ready, or, after a boot failure, reset once with the other image copy, or left out of service (R784,
R816, R836). -/
def Tray.bootResult (t : Tray) (o : StartObs) (pos : Nat) : Tray :=
  let b := o.boot.getD pos 0
  let other := 1 - (t.mod pos).copy
  if bitAt o.manufacture pos then t.unpower pos
  else if b == 0 then t.updMod pos fun m => { m with cycle := 3 }
  else if (b == 1 || b == 2) && !(t.mod pos).swapped && copyValid (t.image other) imageMagic imageSize then
    (((t.updMod pos fun m => { m with swapped := true, copy := other, since := t.time, seq := 0 }).out (.present pos other)).out
      (.chipReset pos true)).out (.chipReset pos false)
  else t.unpower pos

/-- Steps 7 and 8 for a chip: ChipId, the kept retirement records, CapW, and PERST_N (R657, R764, R782, R825). -/
def Tray.bringUp (t : Tray) (pos : Nat) : Tray :=
  let id := place t.persist.rackNumber 7 3 + place t.slot 2 5 + pos
  let t := t.fw pos 0x4000 1 id
  let t := t.each (t.persist.retired.getD pos []) fun r t => t.fw pos 0x5480 1 (field r 8 4)
  (t.writeCap pos).updMod pos (fun m => { m with cycle := 0, perst := false }) |>.out (.perst pos false)

/-- The chips that are waited for: their sidebands, then, when none is left, steps 7 and 8 (R782, R803). -/
def Tray.chipsStep (t : Tray) (o : StartObs) : Tray :=
  let t := t.each (t.on.filter fun p => (t.mod p).cycle == 2 && !bitAt o.notReady p) fun p t => t.bootResult o p
  if t.on.any fun p => (t.mod p).cycle == 2 then t
  else t.each (t.on.filter fun p => (t.mod p).cycle == 3) fun p t => t.bringUp p

/-- Step 4 is over: the tray enters STARTING and powers its host module (R782). -/
def Tray.starting (t : Tray) : Tray := { t with state := 2, start := some { step := 5, since := t.time } }.host true

/-- The start sequence goes on to a step. -/
def Tray.toStep (t : Tray) (n : Nat) : Tray := { t with start := some { step := n, since := t.time } }

/-- TRAY_START_STEP: the step that waits is over if its condition holds; a module that is being power-cycled goes on; one that tripped stays unpowered
until ModuleCycle names it (R774, R782, R803). -/
def Tray.startStep (t : Tray) (o : StartObs) : Tray :=
  match t.start with
  | some st =>
    if st.step ≤ 1 then
      (if o.busMs ≥ 1000 && o.lidClosed then { t with state := 1 }.toStep 2 else { t with start := some { st with step := 1 } })
    else if st.step == 2 then (if t.cduGood then t.toStep 3 else t)
    else if st.step == 3 then (if t.flowGood && t.okAt + 10000000 ≤ t.time then { t.coolant true with flowLost := false }.toStep 4 else t)
    else if st.step == 4 then (if (List.range 4).all fun i => t.running (24 + i) then t.starting else t)
    else if st.step == 5 then
      if o.hostReady then
        (t.each ((List.range 4).filter fun p => bitAt t.persist.moduleEnable p && !(t.mod p).tripped) fun p t => t.power p).toStep 6
      else t
    else
      let t := t.chipsStep o
      if t.on.any fun p => (t.mod p).cycle == 2 then t else { t with state := 3, start := none }
  | none =>
    if t.state == 7 then t else
    let t := t.each ((List.range 4).filter fun p => (t.mod p).cycle == 1 && (t.mod p).since + 1000000000 ≤ t.time) fun p t => t.power p
    t.chipsStep o

/-- TRAY_START_STEP (R782). -/
def execTrayStartStep (now : Nat) (obs : StartObs) (s : State) : Out := .next (s.onTray 0 now fun t => t.startStep obs)

/-- SWITCH_WAIT_TIMEOUT: 120 s after step 3 one switch tray RUNNING is enough (R782). -/
def execSwitchWaitTimeout (now : Nat) (s : State) : Out :=
  .next (s.onTray 0 now fun t =>
    if (t.start.any fun st => st.step == 4 && st.since + 120000000000 ≤ t.time) && (List.range 4).any fun i => t.running (24 + i) then
      t.starting
    else t)

/-- HOST_STANDBY_TIMEOUT: the host module has not reported standby ready in 60 s (R784). -/
def execHostStandbyTimeout (now : Nat) (s : State) : Out :=
  .next (s.onTray 0 now fun t =>
    if t.start.any fun st => st.step == 5 && st.since + 60000000000 ≤ t.time then t.fault 15 else t)

/-- CHIP_READY_TIMEOUT: a chip has not left NOT_READY in 2 s (R784). -/
def execChipReadyTimeout (now : Nat) (s : State) : Out :=
  .next (s.onTray 0 now fun t =>
    if t.modules.any fun m => m.powered && m.cycle == 2 && m.since + 2000000000 ≤ t.time then t.fault 11 else t)

/-! ## The other trays (R781, R787, R788) -/

/-- The load of a switch or management tray is powered or not. -/
def Tray.load (t : Tray) (on : Bool) : Tray :=
  if t.powered == on then t else { t with powered := on, state := (if on then 3 else 1), noCompute := none }.out (.load on)

/-- SWITCH_TRAY_START: bus, CDU and flow conditions have held (R781). -/
def execSwitchTrayStart (now busMs : Nat) (s : State) : Out :=
  .next (s.onTray 1 now fun t => if busMs ≥ 1000 && t.cduGood && t.flowGood then t.load true else t)

/-- SWITCH_TRAY_POWER_OFF: a stop within 1 s is announced, or no compute tray has been RUNNING for 10 s (R787). -/
def execSwitchTrayPowerOff (now : Nat) (s : State) : Out :=
  .next (s.onTray 1 now fun t =>
    let stop := (t.heard 29).any fun h => field h.block 24 4 != 0 && field h.block 24 4 ≤ 1000
    if stop || t.noCompute.any fun n => n + 10000000000 ≤ t.time then t.load false else t)

/-- MANAGEMENT_TRAY_START: the bus has been at least 48.0 V for 1 s (R781). -/
def execManagementTrayStart (now busMs : Nat) (s : State) : Out :=
  .next (s.onTray 2 now fun t => if busMs ≥ 1000 then t.load true else t)

end Sys2Proof.Machine
end

