-- ==== Sys2Proof/Machine/TrayImage.lean ====
section
/-! DEFINITION. The two copies of the boot image and of the tray dictionary in tray flash (R821–R827). A byte not listed is 0xFF, as
erased flash reads. -/
namespace Sys2Proof.Machine

/-- SEQ of a copy, or 0 where it is not valid (R826). -/
def copySeq (m : Mem) (magic size : Nat) : Nat := if copyValid m magic size then leNat (Mem.bytes m 0xFF 4 4) else 0

/-- What a start selects: the copy (0xFF none), what a diverge event says, whether the selected copy is saved again at once (R822). -/
structure Selected where
  copy : Nat
  diverge : Option Nat
  heal : Bool
deriving DecidableEq, Repr

/-- The copy that a start selects (R822). The header counts as used (log 116). -/
def selectCopy (a b : Mem) (magic size : Nat) : Selected :=
  let va := copyValid a magic size
  let vb := copyValid b magic size
  let n := max (leNat (Mem.bytes a 0xFF 8 4)) (leNat (Mem.bytes b 0xFF 8 4))
  if !va && !vb then ⟨0xFF, some 1, false⟩
  else if a == b then ⟨0, none, false⟩
  else if va && vb && a.within 0 n == b.within 0 n then ⟨0, some 0, false⟩
  else if va && vb then ⟨if copySeq b magic size > copySeq a magic size then 1 else 0, some 1, true⟩
  else ⟨if va then 0 else 1, some 1, true⟩

/-- Contents as a save writes them: SEQ one above the higher SEQ of the two copies (R823). -/
def saved (m a b : Mem) (magic size : Nat) : Mem :=
  Mem.putAll (some 0xFF) m 4 (toLe 4 (max (copySeq a magic size) (copySeq b magic size) + 1))

/-! ## The tray dictionary's contents (R824) -/

/-- The persisted objects as bytes, behind the header: a layout of the model's own (log 117). -/
def Persist.bytes (p : Persist) : List Byte :=
  toLe 1 p.rackNumber ++ toLe 1 p.moduleEnable ++ toLe 2 p.limitW ++ p.chipCapW.flatMap (toLe 2) ++ toLe 1 p.ipv4Mode
    ++ toLe 4 p.ipv4Address ++ toLe 1 p.ipv4Prefix ++ toLe 4 p.ipv4Gateway
    ++ p.retired.flatMap fun l => toLe 1 l.length ++ l.flatMap id

/-- The lists of records behind a count each. -/
def recordLists : Nat → List Byte → List (List (List Byte))
  | 0, _ => []
  | n + 1, l =>
    let k := field l 0 1
    ((List.range k).map fun i => (l.drop (1 + 16 * i)).take 16) :: recordLists n (l.drop (1 + 16 * k))

/-- The persisted objects from their bytes. -/
def Persist.ofBytes (l : List Byte) : Persist :=
  { rackNumber := field l 0 1, moduleEnable := field l 1 1, limitW := field l 2 2
    chipCapW := (List.range 4).map fun i => field l (4 + 2 * i) 2
    ipv4Mode := field l 12 1, ipv4Address := field l 13 4, ipv4Prefix := field l 17 1, ipv4Gateway := field l 18 4
    retired := recordLists 4 (l.drop 22) }

/-- A copy of the tray dictionary, with SEQ 0 (R821, R824). -/
def Persist.copy (p : Persist) : Mem :=
  let body := List.replicate 16 0 ++ p.bytes
  Mem.putAll (some 0xFF) [] 0 (toLe 4 dictMagic ++ toLe 4 0 ++ toLe 4 (16 + body.length) ++ toLe 4 (crc32 body) ++ body)

/-- The persisted objects of a copy. -/
def Persist.ofCopy (m : Mem) : Persist := .ofBytes (Mem.bytes m 0xFF 32 (leNat (Mem.bytes m 0xFF 8 4) - 32))

/-! ## Rows -/

/-- IMAGE_SAVE_COMPLETE: the staged image is in both copies (R823). -/
def execImageSaveComplete (who now : Nat) (s : State) : Out :=
  .next (s.onTray who now fun t =>
    if t.images.state != 1 then t
    else t.updImages fun i =>
      let m := saved i.staging i.a i.b imageMagic imageSize
      { i with a := m, b := m, state := 2 })

/-- DICT_SAVE: the persisted objects are in both copies (R824). -/
def execDictSave (who now : Nat) (s : State) : Out :=
  .next (s.onTray who now fun t =>
    if !t.images.dictDue then t
    else t.updImages fun i =>
      let m := saved t.persist.copy i.dictA i.dictB dictMagic dictSize
      { i with dictA := m, dictB := m, dictDue := false })

/-- Flash bytes that read differently. -/
def Images.worn (i : Images) (l : List FlashFault) : Images :=
  l.foldl (fun i f =>
    if f.off ≥ (if f.copy < 2 then imageSize else dictSize) then i
    else
      let w (m : Mem) : Mem := Mem.put (some 0xFF) m f.off (some f.byte)
      if f.copy == 0 then { i with a := w i.a } else if f.copy == 1 then { i with b := w i.b }
      else if f.copy == 2 then { i with dictA := w i.dictA } else { i with dictB := w i.dictB }) i

/-- The controller at its power-up: the copies compared, selected and healed (R822–R824). -/
def Tray.boot (old : Tray) (flash : List FlashFault) : Tray :=
  let i := old.images.worn flash
  let x := selectCopy i.a i.b imageMagic imageSize
  let y := selectCopy i.dictA i.dictB dictMagic dictSize
  let img := if x.copy == 1 then i.b else i.a
  let dict := if y.copy == 1 then i.dictB else i.dictA
  let chip := leNat (Mem.bytes img 0xFF 24 4)
  let newA := saved img i.a i.b imageMagic imageSize
  let newD := saved dict i.dictA i.dictB dictMagic dictSize
  let none_ := x.copy == 0xFF
  let t : Tray := {
    kind := old.kind, slot := old.slot, sent := old.sent
    persist := if y.copy == 0xFF then {} else Persist.ofCopy dict
    state := if none_ then 7 else 1
    start := if none_ || old.kind != 2 then none else some {}
    images := {
      a := if x.heal then newA else i.a, b := if x.heal then newA else i.b
      dictA := if y.heal then newD else i.dictA, dictB := if y.heal then newD else i.dictB
      selected := x.copy
      seq := if none_ then 0 else copySeq img imageMagic imageSize
      version := if none_ then 0 else leNat (Mem.bytes img 0xFF (chip + 8) 4) } }
  let t := match x.diverge with
    | some b => t.logEvent 0x0080 1 (toLe 1 b)
    | none => t
  if y.diverge.isSome then t.logEvent 0x0081 1 [] else t

/-- TRAY_CONTROLLER_START: tray time starts from 0 (R822, R824). -/
def execTrayControllerStart (who : Nat) (flash : List FlashFault) (s : State) : Out :=
  .next (s.setTray who ((s.trayAt who).boot flash))

/-! ## The tray's log (R757, R825) -/

/-- One new record of a chip: a gap in SEQ is logged, the record is copied, a retirement is kept. -/
def Tray.copyRecord (t : Tray) (pos : Nat) (r : LogRecord) : Tray :=
  let last := (t.mod pos).seq
  if r.seq ≤ last then t
  else
    let t := if r.seq == last + 1 then t
      else t.logEvent 0x0083 2 (toLe 4 pos ++ toLe 4 (last + 1) ++ toLe 4 (r.seq - last - 1))
    let t := { t with log := t.log.add 1024 r.time r.code r.source r.severity r.detail }
    let t := if r.code != 0x0030 then t
      else
        let d := r.detail.take 16 ++ List.replicate (16 - r.detail.length) 0
        { t with
          persist := { t.persist with retired := (t.persist.retired.modify pos fun l => l.drop (l.length - 254) ++ [d]) }
          images := { t.images with dictDue := true } }
    t.updMod pos fun m => { m with seq := r.seq }

/-- EVENT_LOG_POLL: the new records of a chip, in ascending SEQ; `seq` is its EventSeq (R757). -/
def execEventLogPoll (now pos seq : Nat) (recs : List LogRecord) (s : State) : Out :=
  .next (s.onTray 0 now fun t =>
    if pos ≥ 4 || !(t.mod pos).powered then t
    else
      let t := if seq < (t.mod pos).seq then t.updMod pos fun m => { m with seq := 0 } else t
      let t := t.each (recs.filter fun r => r.seq ≤ seq) fun r t => t.copyRecord pos r
      let last := (t.mod pos).seq
      if seq ≤ last then t
      else (t.logEvent 0x0083 2 (toLe 4 pos ++ toLe 4 (last + 1) ++ toLe 4 (seq - last))).updMod pos fun m => { m with seq := seq })

end Sys2Proof.Machine
end

