-- ==== Sys2Proof/Machine/TrayDict.lean ====
section
/-! DEFINITION. The dictionary of a tray controller and what writes of its objects do (R727–R732, R744, R749, R750, R752, R755, R757, R790,
R794, R795, R798, R802–R804, R825–R827, R841, R842). -/
namespace Sys2Proof.Machine

/-! ## Objects -/

def rwObj (o : DObj) : DObj := { o with acc := .rw }
/-- n characters that are fused, as printable bytes (R718). -/
def fusedText (n v : Nat) : List Byte := (toLe n v).map fun b => BitVec.ofNat 8 (0x20 + b.toNat % 95)

/-- Commits executed and not yet applied (R727). -/
def Tray.commitsPending (t : Tray) : Nat := b2n ((t.drain.bind (·.change)).any (·.commit))

/-- The objects that every tray controller has, by index. -/
def Tray.dictCommon (t : Tray) (index : Nat) : List DObj :=
  let fused := Config.trayFused t.kind
  let p := t.persist
  let i := t.images
  if index == 0x1000 then
    [oStr (textBytes "Ryumbiur Systems"), oStr (fusedText (fused 0 % 65) (fused 2)), oU8 t.kind, oU16 (fused 4), oStr (fusedText 16 (fused 5)),
     oU64 (fused 6), oU16 0x0100, oU32 i.version, oU32 i.seq]
  else if index == 0x1110 then
    [oDom (toLe 6 (fused 1)), rwObj (oU8 p.ipv4Mode), rwObj (oU32 (if p.ipv4Mode == 1 then Config.lease t.kind t.time else p.ipv4Address)),
     rwObj (oU8 p.ipv4Prefix), rwObj (oU32 p.ipv4Gateway), oU16 47240, oU8 t.node, oU32 t.canBusOff, oU32 t.duplicates]
  else if index == 0x1F00 then
    let c := t.commits
    [oCmd, oCmd, oU8 ((c.build.map (·.members.length)).getD 0), oU32 c.result, oU32 c.failMember, oU32 c.generation, oU8 t.commitsPending]
  else if index == 0x6000 then [oU32 t.log.seq, oU32 t.log.critical]
  else if 0x6010 ≤ index && index ≤ 0x6014 then
    let j := 255 * (index - 0x6010)
    (List.range (if index == 0x6014 then 4 else 255)).map fun k => oDom (t.log.at_ 1024 (j + k))
  else if index == 0x8030 then [oCmd, oU8 t.canLoopback]
  else if index == 0x8050 then
    [oU8 i.selected, oU32 (copySeq i.a imageMagic imageSize), oU32 (copySeq i.b imageMagic imageSize), rwObj (oU32 i.offset), oWo 1024, oCmd,
     oU8 i.state]
  else if index == 0x9000 then [oDom t.sentBlock, oU32 t.alarms, oU64 t.nodes]
  else []

/-- The objects of a compute tray (R749, R802, R825). -/
def Tray.dictCompute (t : Tray) (index : Nat) : List DObj :=
  let p := t.persist
  let x := t.sensed
  let b := t.ber
  if index == 0x8000 then
    [oU8 t.state, oU8 t.wait, rwObj (oU8 p.rackNumber), oU8 t.slot, rwObj (oU16 p.limitW), oU16 t.ceiling, oU8 t.healthy,
     rwObj (oU8 p.moduleEnable), rwObj (oDom (p.chipCapW.flatMap (toLe 2))), oCmd, oCmd, oU16 x.powerW, oU16 x.busMv]
  else if index == 0x8010 then
    [oU16 x.flow, oU16 x.supply, oU16 x.ret, oU8 (if t.coolantOk then 15 else 0), oU8 (b2n x.wet), oU32 t.flowStops]
  else if index == 0x8020 then [oCmd, oU8 b.state, oU16 b.bad.length, oU32 b.skipped, oU64 b.lastPeriodic]
  else if 0x8021 ≤ index && index < 0x8025 then [oDom ((b.results.getD (index - 0x8021) []).flatMap (toLe 4))]
  else if 0x8040 ≤ index && index < 0x8044 then
    (List.range 255).map fun i => oDom (recOr (p.retired.getD (index - 0x8040) []) 16 i)
  else if 0x8100 ≤ index && index < 0x8104 then
    let c := t.chan (index - 0x8100)
    [oU8 (if !(t.mod (index - 0x8100)).powered then 2 else c.state), oU32 c.transients, oU32 c.lasting, oCmd, oU8 c.queue.length]
  else []

/-- The node table of the management tray (R804). -/
def Tray.dictNodes (t : Tray) (index : Nat) : List DObj :=
  if 0x9100 ≤ index && index < 0x9140 then
    let h := t.rack.find? fun h => h.node == index - 0x9100
    [oDom ((h.map (·.block)).getD (List.replicate 60 0)), oU32 ((h.map fun x => (t.time - x.time) / 1000000).getD 0xFFFFFFFF)]
  else []

/-- The objects of an index from subindex 1 on; none: no object has the index. -/
def Tray.dict (t : Tray) (index : Nat) : List DObj :=
  let l := t.dictCommon index
  if !l.isEmpty then l else if t.kind == 2 then t.dictCompute index else if t.kind == 4 then t.dictNodes index else []

/-! ## Changes of RW objects (R727–R732, R795) -/

/-- A change of RW objects, single or of a commit: its abort code, 0 where it took effect; none where it waits for its tray drain. `ask`:
the request that waits (R730, R795). -/
def Tray.change (t : Tray) (l : List Member) (commit : Bool) (ask : Bridged) (o : ChipObs) : Tray × Option Nat :=
  let staged := match t.drain.bind (·.change) with
    | some c => l.any fun m => (commit || c.commit) && c.members.any fun n => n.index == m.index && n.sub == m.sub
    | none => false
  let done : Tray × Option Nat :=
    let t := t.takeMembers l
    (if commit then t.updCommits fun k => { k with result := 0, failMember := 0, generation := t.generation } else t, some 0)
  if staged then (t, some acObjectPending)
  else if !(l.any fun m => drainObj m.index m.sub) || [1, 5, 6, 7].contains t.state then done
  else if t.state == 4 then (t, some acDrainBusy)
  else if t.state != 3 || (t.on.any fun p => bitAt o.live p) then (t, some acStateConflict)
  else (t.drainStart false false (some ⟨l, ask, commit⟩), none)

/-- A write during a build is recorded as a member (R729). -/
def Tray.memberWrite (t : Tray) (b : Build) (index sub v : Nat) : Tray × Nat :=
  let known := b.members.any fun m => m.index == index && m.sub == sub
  if !known && b.members.length ≥ 32 then (t, acCommitFull)
  else if trayValueBad index sub v != 0 then (t, trayValueBad index sub v)
  else
    let l := if known then b.members.map fun m => if m.index == index && m.sub == sub then { m with val := v } else m
      else b.members ++ [⟨index, sub, v⟩]
    (t.updCommits fun c => { c with build := some { b with members := l } }, 0)

/-- A CMD of the commit object (R728, R730). -/
def Tray.commitCmd (t : Tray) (sub v : Nat) (ask : Bridged) (o : ChipObs) : Tray × Option Nat :=
  match t.commits.build with
  | none =>
    if sub == 2 || t.commitsPending ≥ 8 then (t, some acCommitSequence)
    else if v != 1 then (t, some acValueReserved)
    else ({ t with owner := ask.src }.updCommits fun c => { c with build := some { last := t.time } }, some 0)
  | some b =>
    if sub == 1 then (t, some acCommitSequence)
    else if v != 1 && v != 2 then (t, some acValueReserved)
    else
      let t := t.updCommits fun c => { c with build := none }
      if v == 2 then (t, some 0)
      else if b.members.isEmpty then (t.updCommits fun c => { c with result := 0 }, some 0)
      else
        let first := b.members.find? fun m => drainObj m.index m.sub
        match t.change b.members true ask o with
        | (t, some 0) => (t, some 0)
        | (t, some code) =>
          (t.updCommits fun c => { c with
            result := code, failMember := ((first.filter fun _ => code != acDrainBusy).map fun m => m.index * 256 + m.sub).getD 0 }, some code)
        | (t, none) => (t, none)

/-! ## CMD objects -/

/-- ServiceCommand (R790, R794): 1 DRAIN, 2 DRAIN_FORCED, 3 PULL, 4 RESUME. -/
def Tray.service (t : Tray) (v : Nat) (o : ChipObs) : Tray × Nat :=
  if v == 0 || v > 4 then (t, acValueReserved)
  else if v == 1 && t.state == 3 && !(t.on.any fun p => bitAt o.live p) then (t.drainStart false false none, 0)
  else if v == 2 && t.state == 3 then (t.drainStart true false none, 0)
  else if v == 3 && t.state == 5 then ({ t with busOpen := true, state := 6 }.out .busOpen, 0)
  else if v == 4 && (t.state == 5 || t.state == 7) && !t.sensed.wet then
    ({ t with state := 1, failed := 0, leakOff := none, start := some { step := 1, since := t.time } }, 0)
  else (t, acStateConflict)

/-- ModuleCycle (R803). -/
def Tray.cycleCmd (t : Tray) (v : Nat) (o : ChipObs) : Tray × Nat :=
  let pos := v - 1
  let m := t.mod pos
  if v == 0 || v > 4 then (t, acValueRange)
  else if m.cycle == 0 && ((m.tripped && !m.powered) || (m.powered && o.pd.getD pos 0 == 2)) then
    ((t.unpower pos).updMod pos fun m => { m with cycle := 1, since := t.time }, 0)
  else (t, acStateConflict)

/-- ImageCommand SAVE: the staged image is checked and its saving begins (R827). -/
def Tray.saveCmd (t : Tray) (v : Nat) : Tray × Nat :=
  if v != 1 then (t, acValueReserved)
  else if t.images.state == 1 then (t, acStateConflict)
  else (t.updImages fun i => { i with state := if copyValid i.staging imageMagic imageSize then 1 else 3 }, 0)

/-- ImageBlock: 1,024 staged bytes; ImageOffset goes on (R826). -/
def Tray.blockWrite (t : Tray) (d : List Byte) : Tray × Nat :=
  if t.images.state == 1 || t.images.offset ≥ imageSize then (t, acStateConflict)
  else (t.updImages fun i => { i with staging := Mem.putAll (some 0xFF) i.staging i.offset d, offset := i.offset + 1024 }, 0)

/-- CanLoopback: 50 frames in internal loopback, with a STATE frame before and after (R841, R842). -/
def Tray.canCmd (t : Tray) (v intact : Nat) : Tray × Nat :=
  if v != 1 then (t, acValueReserved) else ({ t.sendBlock 1 3 with canLoopback := min intact 50 }.sendBlock 1 3, 0)

/-- BerCommand INSTALL (R798). -/
def Tray.berCmd (t : Tray) (v : Nat) (o : ChipObs) : Tray × Nat :=
  if v != 1 then (t, acValueReserved)
  else if t.ber.state != 0 || t.on.any fun p => bitAt o.live p then (t, acStateConflict)
  else (t.updBer fun b => { b with state := 1, start := t.time }, 0)

/-- SmpReenable (R748). -/
def Tray.reenable (t : Tray) (pos v : Nat) : Tray × Nat :=
  if v != 1 then (t, acValueReserved) else (t.updChan pos fun c => { c with state := 0 }, 0)

/-- A CMD or WO object other than the commit object is written. -/
def Tray.cmd (t : Tray) (index sub : Nat) (d : List Byte) (o : ChipObs) : Tray × Nat :=
  let v := leNat d
  if index == 0x8000 then (if sub == 0x0A then t.service v o else t.cycleCmd v o)
  else if index == 0x8020 then t.berCmd v o
  else if index == 0x8030 then t.canCmd v o.intact
  else if index == 0x8050 then (if sub == 5 then t.blockWrite d else t.saveCmd v)
  else t.reenable (index - 0x8100) v

/-- The whole value of an object is written: its abort code, or none where it waits for a tray drain (R725, R729, R732). -/
def Tray.perform (t : Tray) (obj : DObj) (index sub : Nat) (d : List Byte) (ask : Bridged) (o : ChipObs) : Tray × Option Nat :=
  let once (x : Tray × Nat) : Tray × Option Nat := (x.1, some x.2)
  if t.commits.build.isSome && t.owner != ask.src then (t, some acCommitSequence)
  else if index == 0x1F00 then t.commitCmd sub (leNat d) ask o
  else if obj.acc == .cmd && t.commits.build.isSome then (t, some acCommitSequence)
  else if obj.acc != .rw then once (t.cmd index sub d o)
  else
    match t.commits.build with
    | some b => once (t.memberWrite b index sub (leNat d))
    | none =>
      if trayValueBad index sub (leNat d) != 0 then (t, some (trayValueBad index sub (leNat d)))
      else t.change [⟨index, sub, leNat d⟩] false ask o

end Sys2Proof.Machine
end

