-- ==== Sys2Proof/Machine/TrayPlinth.lean ====
section
/-! DEFINITION. Plinth requests to a tray controller: its own dictionary, the bridge to its chips, and the rows that write one of its
objects (R717–R721, R725, R738–R749). -/
namespace Sys2Proof.Machine

/-! ## The own dictionary (R719–R721, R744) -/

/-- The check of form of a request, in the order of R725. A DOMAIN is written in segments of any length that follow on (log 112). -/
def trayForm (objs : List DObj) (r : TrayReq) (got : Nat) : Nat × Option DObj :=
  if objs.isEmpty then (acObjectMissing, none)
  else
    match pickObj objs r.sub with
    | none => (acSubMissing, none)
    | some o =>
      let size := o.bytes.length
      let n := r.data.length
      let code :=
        if r.op == 2 then
          if o.acc == .ro then acAccessRo
          else if !r.fits then acTypeLength
          else if scalar o.typ then (if n != size || r.offset != 0 then acTypeLength else 0)
          else if n == 0 then acTypeLength
          else if r.offset + n > size then acOffsetRange
          else if r.offset != 0 && got != r.offset then acSegmentOrder
          else 0
        else if o.acc == .wo || o.acc == .cmd then acAccessWo
        else if scalar o.typ && r.offset != 0 then acTypeLength
        else if r.offset > size then acOffsetRange
        else 0
      (code, some o)

/-- A READ of the controller's own dictionary. -/
def Tray.ownRead (t : Tray) (src : Nat) (msg : List Byte) (r : TrayReq) : Tray :=
  match trayForm (t.dict r.index) r 0 with
  | (code, none) => t.respond src msg code 0 0 t.generation []
  | (code, some o) =>
    let n := o.bytes.length
    if code != 0 then t.respond src msg code o.typ n t.generation []
    else
      let whole := if r.offset == 0 then o.bytes else (t.capture.map (·.bytes)).getD o.bytes
      let t := if scalar o.typ then t else { t with capture := some ⟨r.index, r.sub, whole⟩ }
      t.respond src msg 0 o.typ n t.generation (whole.drop r.offset)

/-- A WRITE of the controller's own dictionary. -/
def Tray.ownWrite (t : Tray) (src : Nat) (msg : List Byte) (r : TrayReq) (obs : ChipObs) : Tray :=
  let part := t.partial_.filter fun _ => r.offset != 0
  let got := (part.map (·.bytes)).getD []
  match trayForm (t.dict r.index) r got.length with
  | (code, none) => t.respond src msg code 0 0 t.generation []
  | (code, some o) =>
    let n := o.bytes.length
    let d := got ++ r.data
    let t := { t with partial_ := none }
    if code != 0 then t.respond src msg code o.typ n t.generation []
    else if d.length < n then { t with partial_ := some ⟨r.index, r.sub, d⟩ }.respond src msg 0 o.typ n t.generation []
    else
      match t.perform o r.index r.sub d ⟨src, msg, t.time⟩ obs with
      | (t, some code) => t.respond src msg code o.typ n t.generation []
      | (t, none) => t

/-- A request for the controller's own dictionary (R720, R721, R731, R744). -/
def Tray.own (t : Tray) (src : Nat) (msg : List Byte) (r : TrayReq) (obs : ChipObs) : Tray :=
  let keep (op : Nat) (x : Option Segments) : Option Segments := x.filter fun c => r.op == op && c.index == r.index && c.sub == r.sub
  let t := { t with capture := keep 1 t.capture, partial_ := keep 2 t.partial_ }
  let t := if t.owner == src then t.updCommits fun c => { c with build := c.build.map fun b => { b with last := t.time } } else t
  if t.images.selected == 0xFF && !(r.op == 2 && r.index == 0x8050 && src ≥ 64) then t.respond src msg acStateConflict 0 0 t.generation []
  else if r.op == 0 then t.respond src msg 0 0 0 t.generation []
  else if r.op == 1 then t.ownRead src msg r
  else t.ownWrite src msg r obs

/-! ## The bridge (R745–R748) -/

/-- A request as it goes to a chip: a WRITE of more than 64 bytes in segments of 64 (R745). -/
def chipMsgs (pos : Nat) (msg : List Byte) : List TrayOut :=
  let n := field msg 12 2
  if n ≤ 64 then [.chipMsg pos msg]
  else (List.range (ceilDiv n 64)).map fun k =>
    let len := min 64 (n - 64 * k)
    .chipMsg pos (msg.take 10 ++ toLe 2 (field msg 10 2 + 64 * k) ++ toLe 2 len ++ (msg.drop 14).take 6 ++ (msg.drop (20 + 64 * k)).take len)

/-- The request at the front of a chip's queue is sent on (R745). -/
def Tray.sendOn (t : Tray) (pos : Nat) : Tray :=
  match (t.chan pos).queue with
  | [] => t
  | b :: rest => (t.updChan pos fun c => { c with queue := { b with sent := t.time } :: rest }).each (chipMsgs pos b.msg) fun o t => t.out o

/-- The front of a chip's queue has its answer; the next request is sent on. -/
def Tray.popChan (t : Tray) (pos : Nat) : Tray := (t.updChan pos fun c => { c with queue := c.queue.tail }).sendOn pos

/-- A request to a chip is queued or answered by the bridge (R746–R748). -/
def Tray.bridge (t : Tray) (src : Nat) (msg : List Byte) (r : TrayReq) : Tray :=
  let pos := r.target - 1
  let no (code : Nat) : Tray := t.respond src msg code 0 0 0 []
  if t.images.selected == 0xFF then no acStateConflict
  else if r.op == 2 && !r.fits then no acTypeLength
  else if r.op == 2 && t.owned pos (some src) then no acCommitSequence
  else if (t.chan pos).state == 1 then no acBridgeFailed
  else if (t.chan pos).queue.length ≥ 16 then no acBridgeBusy
  else
    let first := (t.chan pos).queue.isEmpty
    let t := t.updChan pos fun c => { c with
      queue := c.queue ++ [⟨src, msg, t.time⟩]
      owner := c.owner.map fun o => if o.1 == src then (src, t.time) else o }
    if first then t.sendOn pos else t

/-- A channel fails: every request to the chip is answered BRIDGE_FAILED (R748). -/
def Tray.chanFail (t : Tray) (pos : Nat) : Tray :=
  let l := (t.chan pos).queue
  let t := t.updChan pos fun c => { c with state := 1, lasting := c.lasting + 1, queue := [] }
  (t.each l fun b t => t.respond b.src b.msg acBridgeFailed 0 0 0 []).logEvent 0x0082 2 (toLe 1 pos)

/-- What a request that a chip has performed means for the bridge: who owns the chip's build, and which ports are back in service (R747,
R800). -/
def Tray.bridged (t : Tray) (pos : Nat) (src : Nat) (r : TrayReq) (ok : Bool) : Tray :=
  let v := leNat r.data
  if r.op != 2 then t
  else if r.index == 0x1F00 && r.sub == 1 && ok then t.updChan pos fun c => { c with owner := some (src, t.time) }
  else if r.index == 0x1F00 && r.sub == 2 && (v == 1 || v == 2) then t.updChan pos fun c => { c with owner := none }
  else if 0x4010 ≤ r.index && r.index < 0x4022 && r.sub == 8 && ok && v == 0 then
    t.updBer fun b => { b with held := b.held.filter (· != (pos, r.index - 0x4010)) }
  else t

/-- The front request of a chip ends with the chip's final status, or the channel fails (R716, R745, R746, R748). -/
def Tray.final (t : Tray) (f : BridgeFinal) : Tray :=
  let t := t.updChan f.pos fun c => { c with transients := c.transients + f.transients }
  if f.status == 0xFF then (if f.pos < 4 then t.chanFail f.pos else t)
  else
    match (t.chan f.pos).queue with
    | [] => t
    | b :: _ =>
      let r := parseMsg b.src b.msg
      let ready (t : Tray) (ok : Bool) : Tray :=
        (t.updChan f.pos fun c => { c with state := 0 }).bridged f.pos b.src r ok
      if f.status == 1 then ((ready t true).respond b.src b.msg 0 f.typ f.total f.gen f.data).popChan f.pos
      else if f.status == 2 then ((ready t false).respond b.src b.msg (field f.data 0 4) f.typ f.total f.gen []).popChan f.pos
      else if f.status == 4 then
        ((t.updChan f.pos fun c => { c with state := 3 }).respond b.src b.msg acNotReady 0 0 0 []).popChan f.pos
      else t

/-! ## Requests (R738, R742, R743, R796) -/

/-- A Plinth message from a requester: ignored, answered from store, refused, performed, or sent on. -/
def Tray.request (t : Tray) (src : Nat) (msg : List Byte) (obs : ChipObs) : Tray :=
  let r := parseMsg src msg
  if msg.length < 20 || (src < 64 && msg.length != 64) || field msg 0 1 != 1 || !(r.node == t.node || (r.node == 0xFF && src ≥ 64)) then t
  else
    match t.asked.find? fun a => a.src == src && a.key == r.key with
    | some a =>
      match a.answer with
      | some m => { t with duplicates := t.duplicates + 1 }.out (.response src m)
      | none => t
    | none =>
      let t := { t with asked := (({ src := src, key := r.key, answer := none } : Asked) :: t.asked.filter (·.src != src)).take 64 }
      if !r.header || r.op > 2 || r.target > 4 then t.respond src msg acInvalidRequest 0 0 t.generation []
      else if r.target == 0 then t.own src msg r obs
      else t.bridge src msg r

/-- A WRITE of one of the controller's own objects, as a message. -/
def Tray.writeMsg (t : Tray) (src seq index sub : Nat) (d : List Byte) : List Byte :=
  let m := toLe 1 1 ++ toLe 1 t.node ++ toLe 1 0 ++ toLe 1 seq ++ toLe 1 2 ++ toLe 1 0 ++ toLe 2 index ++ toLe 1 sub ++ toLe 1 0 ++ toLe 2 0
    ++ toLe 2 d.length ++ toLe 2 0 ++ toLe 4 0 ++ d
  if src < 64 then m ++ List.replicate (64 - m.length) 0 else m

/-- A requester writes one of the controller's own objects. -/
def State.trayWrite (s : State) (who now src seq index sub : Nat) (d : List Byte) (obs : ChipObs) : State :=
  s.onTray who now fun t => t.request src (t.writeMsg src seq index sub d) obs

/-- What a row observes of the chips where its object needs none of it. -/
def noObs : ChipObs := { adminDown := 0, pd := [], live := 0, hostOff := false, intact := 0 }

/-- PLINTH_REQUEST: a request comes; then final statuses come from chips (R743–R748). -/
def execPlinthRequest (who now src : Nat) (msg : List Byte) (obs : ChipObs) (finals : List BridgeFinal) (s : State) : Out :=
  .next (s.onTray who now fun t => (t.request src msg obs).each finals fun f t => t.final f)

/-- REQUEST_RESEND: the requester sends it again, with the same SEQ (R743, R796). -/
def execRequestResend (who now src : Nat) (msg : List Byte) (obs : ChipObs) (finals : List BridgeFinal) (s : State) : Out :=
  .next (s.onTray who now fun t => (t.request src msg obs).each finals fun f t => t.final f)

/-- BRIDGE_TIMEOUT: no final status 6 ms after the request was sent on (R746). -/
def execBridgeTimeout (now pos : Nat) (s : State) : Out :=
  .next (s.onTray 0 now fun t =>
    match (t.chan pos).queue with
    | [] => t
    | b :: _ => if b.sent + 6000000 ≤ t.time then (t.respond b.src b.msg acBridgeTimeout 0 0 0 []).popChan pos else t)

/-- SMP_REENABLE (R748, R749). -/
def execSmpReenable (now src seq pos val : Nat) (s : State) : Out :=
  .next (if pos ≥ 4 then s else s.trayWrite 0 now src seq (0x8100 + pos) 4 (toLe 1 val) noObs)

/-- COMMIT_BUILD_TIMEOUT: a build that has had no request from its owner for 1 s is discarded, on the chip or on a tray controller
(R731). -/
def execCommitBuildTimeout (tray : Option Nat) (now : Nat) (s : State) : Out :=
  match tray with
  | some who => .next (s.onTray who now fun t => t.updCommits (·.expire t.time))
  | none =>
    let s := s.at now
    .next (if s.serving then s.updCommits (·.expire s.now) else s)

/-! ## Service (R790–R798, R803, R826, R842) -/

/-- SERVICE_DRAIN: ServiceCommand 1 (R790). -/
def execServiceDrain (now src seq : Nat) (obs : ChipObs) (s : State) : Out := .next (s.trayWrite 0 now src seq 0x8000 0x0A (toLe 1 1) obs)
/-- SERVICE_DRAIN_FORCED: ServiceCommand 2 (R790). -/
def execServiceDrainForced (now src seq : Nat) (obs : ChipObs) (s : State) : Out :=
  .next (s.trayWrite 0 now src seq 0x8000 0x0A (toLe 1 2) obs)
/-- SERVICE_PULL: ServiceCommand 3 (R794). -/
def execServicePull (now src seq : Nat) (s : State) : Out := .next (s.trayWrite 0 now src seq 0x8000 0x0A (toLe 1 3) noObs)
/-- SERVICE_RESUME: ServiceCommand 4 (R794). -/
def execServiceResume (now src seq : Nat) (s : State) : Out := .next (s.trayWrite 0 now src seq 0x8000 0x0A (toLe 1 4) noObs)
/-- TRAY_DRAIN_OBJECT_WRITE: RackNumber (subindex 3) or ModuleEnable (8) is written (R795). -/
def execTrayDrainObjectWrite (now src seq sub val : Nat) (obs : ChipObs) (s : State) : Out :=
  .next (if sub == 3 || sub == 8 then s.trayWrite 0 now src seq 0x8000 sub (toLe 1 val) obs else s)
/-- MODULE_CYCLE (R803). -/
def execModuleCycle (now src seq val : Nat) (obs : ChipObs) (s : State) : Out := .next (s.trayWrite 0 now src seq 0x8000 0x0B (toLe 1 val) obs)
/-- BER_INSTALL (R798). -/
def execBerInstall (now src seq : Nat) (obs : ChipObs) (s : State) : Out := .next (s.trayWrite 0 now src seq 0x8020 1 (toLe 1 1) obs)
/-- CAN_LOOPBACK (R841, R842). -/
def execCanLoopback (who now src seq : Nat) (obs : ChipObs) (s : State) : Out := .next (s.trayWrite who now src seq 0x8030 1 (toLe 1 1) obs)
/-- IMAGE_BLOCK (R826). -/
def execImageBlock (who now src seq : Nat) (data : List Byte) (s : State) : Out := .next (s.trayWrite who now src seq 0x8050 5 data noObs)
/-- IMAGE_SAVE: ImageCommand 1 (R827). -/
def execImageSave (who now src seq : Nat) (s : State) : Out := .next (s.trayWrite who now src seq 0x8050 6 (toLe 1 1) noObs)

/-! ## Bit-error tests (R797–R802) -/

/-- The measured ratio of a lane in units of 1e-12 (R802). -/
def laneResult (errors nbits : Nat) (bad : Bool) : Nat :=
  if bad then 0xFFFFFFFF
  else if nbits == 0 || errors * 10 ^ 12 / nbits ≥ 0xFFFFFFFF then Config.laneRatio errors nbits % 2 ^ 32
  else errors * 10 ^ 12 / nbits

/-- A lane fails its test: a codeword was uncorrectable, or more than 2.4e-5 of its bits were wrong (R797). -/
def laneFails (errors nbits : Nat) (bad : Bool) : Bool := bad || errors * 10 ^ 7 > 240 * nbits

/-- A port's results are recorded lane by lane (R797, R801, R802). -/
def Tray.record (t : Tray) (o : BerObs) : Tray :=
  if o.pos ≥ 4 || o.port ≥ 18 then t
  else t.each (List.range 8) fun l t => t.updBer fun b =>
    let e := o.syms.getD l 0
    let i := 8 * o.port + l
    let rest := b.bad.filter (· != 144 * o.pos + i)
    { b with
      results := b.results.modify o.pos fun r => r.set i (laneResult e o.bits o.bad)
      bad := if laneFails e o.bits o.bad then (144 * o.pos + i) :: rest else rest }

/-- BER_INSTALL_END: 120 s have passed; the lanes are recorded (R798, R801). -/
def execBerInstallEnd (now : Nat) (results : List BerObs) (s : State) : Out :=
  .next (s.onTray 0 now fun t =>
    if t.ber.state != 1 || t.time < t.ber.start + 120000000000 then t
    else (t.each results fun o t => t.record o).updBer fun b => { b with state := 0 })

/-- A port is tested from this chip: a tray-link port from the chip of lower position (R659, R799). -/
def testedHere (pos port : Nat) : Bool := port ≥ 6 || port / 2 ≥ pos

/-- The next port's test begins: ports that are not spare-capable are skipped and counted; after the last one the periodic test ends (R799). -/
def Tray.berNext (t : Tray) (spare : List (Nat × Nat)) : List (Nat × Nat) → Tray
  | [] => t.updBer fun b => { b with state := 0, port := none, next := [], lastPeriodic := t.time }
  | (pos, port) :: rest =>
    if spare.contains (pos, port) then
      ((t.updBer fun b => { b with port := some (pos, port, t.time), next := rest }).fw pos (0x4010 + port) 8 1).fw pos 0x7100 1
        (6 + place port 8 8 + place 1 16 8 + place 10000 32 32)
    else (t.updBer fun b => { b with skipped := b.skipped + 1 }).berNext spare rest

/-- BER_PERIODIC: every 24 h the lanes are tested port by port; `up`: the chips' ports, `spare`: those that are spare-capable (R799). -/
def execBerPeriodic (now : Nat) (up spare : List (Nat × Nat)) (s : State) : Out :=
  .next (s.onTray 0 now fun t =>
    if t.state != 3 || t.ber.state != 0 || t.time < t.ber.periodicAt + 86400000000000 then t
    else
      let all := ((List.range 72).map fun i => (i / 18, i % 18)).filter fun x => up.contains x && testedHere x.1 x.2
      (t.updBer fun b => { b with state := 2, periodicAt := t.time }).berNext spare all)

/-- BER_PORT_TEST_END: a port's 10 s have passed: it returns to service, or is left ADMIN_DOWN, and the next one begins (R799, R800). -/
def execBerPortTestEnd (now : Nat) (result : BerObs) (spare : List (Nat × Nat)) (s : State) : Out :=
  .next (s.onTray 0 now fun t =>
    match t.ber.port with
    | some (pos, port, since) =>
      if t.ber.state != 2 || result.pos != pos || result.port != port || t.time < since + 10000000000 then t
      else
        let t := t.record result
        let bad := (List.range 8).any fun l => laneFails (result.syms.getD l 0) result.bits result.bad
        let t := if bad then t.updBer fun b => { b with held := (pos, port) :: b.held.filter (· != (pos, port)) }
          else t.fw pos (0x4010 + port) 8 0
        t.berNext spare t.ber.next
    | none => t)

end Sys2Proof.Machine
end

