-- ==== Sys2Proof/Machine/Dispatch.lean ====
section
/-! DEFINITION. The dispatch: one arm per command, each one direct call of its meaning. -/
namespace Sys2Proof.Machine

/-- The effect of a command on everything but the queue. -/
def exec (i : Instr) (s : State) : Host.Outcome State Fault Refusal :=
  match i with
  | .issueCycle tile holds => Sys2Proof.Machine.execIssueCycle tile holds s
  | .nop tile f => Sys2Proof.Machine.execNop tile f s
  | .movi tile f => Sys2Proof.Machine.execMovi tile f s
  | .mov tile f => Sys2Proof.Machine.execMov tile f s
  | .sel tile f => Sys2Proof.Machine.execSel tile f s
  | .rdspec tile f => Sys2Proof.Machine.execRdspec tile f s
  | .iadd tile f => Sys2Proof.Machine.execIadd tile f s
  | .isub tile f => Sys2Proof.Machine.execIsub tile f s
  | .imul tile f => Sys2Proof.Machine.execImul tile f s
  | .imulhi tile f => Sys2Proof.Machine.execImulhi tile f s
  | .imad tile f => Sys2Proof.Machine.execImad tile f s
  | .imin tile f => Sys2Proof.Machine.execImin tile f s
  | .imax tile f => Sys2Proof.Machine.execImax tile f s
  | .and tile f => Sys2Proof.Machine.execAnd tile f s
  | .or tile f => Sys2Proof.Machine.execOr tile f s
  | .xor tile f => Sys2Proof.Machine.execXor tile f s
  | .shl tile f => Sys2Proof.Machine.execShl tile f s
  | .shr tile f => Sys2Proof.Machine.execShr tile f s
  | .sar tile f => Sys2Proof.Machine.execSar tile f s
  | .popc tile f => Sys2Proof.Machine.execPopc tile f s
  | .clz tile f => Sys2Proof.Machine.execClz tile f s
  | .brev tile f => Sys2Proof.Machine.execBrev tile f s
  | .iaddi tile f => Sys2Proof.Machine.execIaddi tile f s
  | .isubi tile f => Sys2Proof.Machine.execIsubi tile f s
  | .imuli tile f => Sys2Proof.Machine.execImuli tile f s
  | .imulhii tile f => Sys2Proof.Machine.execImulhii tile f s
  | .imini tile f => Sys2Proof.Machine.execImini tile f s
  | .imaxi tile f => Sys2Proof.Machine.execImaxi tile f s
  | .andi tile f => Sys2Proof.Machine.execAndi tile f s
  | .ori tile f => Sys2Proof.Machine.execOri tile f s
  | .xori tile f => Sys2Proof.Machine.execXori tile f s
  | .shli tile f => Sys2Proof.Machine.execShli tile f s
  | .shri tile f => Sys2Proof.Machine.execShri tile f s
  | .sari tile f => Sys2Proof.Machine.execSari tile f s
  | .isetp tile f => Sys2Proof.Machine.execIsetp tile f s
  | .isetpi tile f => Sys2Proof.Machine.execIsetpi tile f s
  | .fsetp tile f => Sys2Proof.Machine.execFsetp tile f s
  | .plop tile f => Sys2Proof.Machine.execPlop tile f s
  | .vote tile f => Sys2Proof.Machine.execVote tile f s
  | .fadd tile f => Sys2Proof.Machine.execFadd tile f s
  | .fmul tile f => Sys2Proof.Machine.execFmul tile f s
  | .ffma tile f => Sys2Proof.Machine.execFfma tile f s
  | .fmin tile f => Sys2Proof.Machine.execFmin tile f s
  | .fmax tile f => Sys2Proof.Machine.execFmax tile f s
  | .frcp tile f => Sys2Proof.Machine.execFrcp tile f s
  | .frsq tile f => Sys2Proof.Machine.execFrsq tile f s
  | .fsqrt tile f => Sys2Proof.Machine.execFsqrt tile f s
  | .fexp2 tile f => Sys2Proof.Machine.execFexp2 tile f s
  | .flog2 tile f => Sys2Proof.Machine.execFlog2 tile f s
  | .fsin tile f => Sys2Proof.Machine.execFsin tile f s
  | .fcos tile f => Sys2Proof.Machine.execFcos tile f s
  | .hadd2 tile f => Sys2Proof.Machine.execHadd2 tile f s
  | .hmul2 tile f => Sys2Proof.Machine.execHmul2 tile f s
  | .hfma2 tile f => Sys2Proof.Machine.execHfma2 tile f s
  | .cvt tile f => Sys2Proof.Machine.execCvt tile f s
  | .shfl tile f => Sys2Proof.Machine.execShfl tile f s
  | .redux tile f => Sys2Proof.Machine.execRedux tile f s
  | .scanx tile f => Sys2Proof.Machine.execScanx tile f s
  | .ldl tile f => Sys2Proof.Machine.execLdl tile f s
  | .stl tile f => Sys2Proof.Machine.execStl tile f s
  | .atoml tile f => Sys2Proof.Machine.execAtoml tile f s
  | .ld tile f => Sys2Proof.Machine.execLd tile f s
  | .st tile f => Sys2Proof.Machine.execSt tile f s
  | .atom tile f => Sys2Proof.Machine.execAtom tile f s
  | .gather tile f => Sys2Proof.Machine.execGather tile f s
  | .scatter tile f => Sys2Proof.Machine.execScatter tile f s
  | .fence tile f => Sys2Proof.Machine.execFence tile f s
  | .fenceRetire tile tcu slot => Sys2Proof.Machine.execFenceRetire tile tcu slot s
  | .bra tile f => Sys2Proof.Machine.execBra tile f s
  | .brx tile f => Sys2Proof.Machine.execBrx tile f s
  | .call tile f => Sys2Proof.Machine.execCall tile f s
  | .ret tile f => Sys2Proof.Machine.execRet tile f s
  | .exit tile f => Sys2Proof.Machine.execExit tile f s
  | .exitRelease tile slot lane => Sys2Proof.Machine.execExitRelease tile slot lane s
  | .bar tile f => Sys2Proof.Machine.execBar tile f s
  | .barrierComplete tile bslot scope id => Sys2Proof.Machine.execBarrierComplete tile bslot scope id s
  | .evsig tile f => Sys2Proof.Machine.execEvsig tile f s
  | .evwait tile f => Sys2Proof.Machine.execEvwait tile f s
  | .evwaitResume tile slot lane => Sys2Proof.Machine.execEvwaitResume tile slot lane s
  | .evwaitTimeout now tile slot lane => Sys2Proof.Machine.execEvwaitTimeout now tile slot lane s
  | .evpoll tile f => Sys2Proof.Machine.execEvpoll tile f s
  | .trace tile f => Sys2Proof.Machine.execTrace tile f s
  | .traceq tile f => Sys2Proof.Machine.execTraceq tile f s
  | .phase tile f => Sys2Proof.Machine.execPhase tile f s
  | .sacq tile f => Sys2Proof.Machine.execSacq tile f s
  | .sacqWake tile slot => Sys2Proof.Machine.execSacqWake tile slot s
  | .srel tile f => Sys2Proof.Machine.execSrel tile f s
  | .chop tile f => Sys2Proof.Machine.execChop tile f s
  | .chwait tile f => Sys2Proof.Machine.execChwait tile f s
  | .chwaitReturn tile slot => Sys2Proof.Machine.execChwaitReturn tile slot s
  | .demandFetch tile tcu slot => Sys2Proof.Machine.execDemandFetch tile tcu slot s
  | .speculativeFetch tile tcu slot va => Sys2Proof.Machine.execSpeculativeFetch tile tcu slot va s
  | .storeBufferDrain tile index => Sys2Proof.Machine.execStoreBufferDrain tile index s
  | .blockPlace tile => Sys2Proof.Machine.execBlockPlace tile s
  | .launchQueueReserve now tile => Sys2Proof.Machine.execLaunchQueueReserve now tile s
  | .tileCntSnapTake fn tile val => Sys2Proof.Machine.execTileCntSnapTake fn tile val s
  | .counterLowRead fn addr size => Sys2Proof.Machine.execCounterLowRead fn addr size s
  | .counterHighRead fn addr => Sys2Proof.Machine.execCounterHighRead fn addr s
  | .lowerHalfWrite fn addr val => Sys2Proof.Machine.execLowerHalfWrite fn addr val s
  | .upperHalfWrite fn addr val => Sys2Proof.Machine.execUpperHalfWrite fn addr val s
  | .registerWrite fn addr size val => Sys2Proof.Machine.execRegisterWrite fn addr size val s
  | .doorbell fn q offset size val => Sys2Proof.Machine.execDoorbell fn q offset size val s
  | .nopCommand q raw => Sys2Proof.Machine.execNopCommand q raw s
  | .launch q raw host => Sys2Proof.Machine.execLaunch q raw host s
  | .launchComplete id => Sys2Proof.Machine.execLaunchComplete id s
  | .epochCommand q raw => Sys2Proof.Machine.execEpochCommand q raw s
  | .epochApplyTimeout now => Sys2Proof.Machine.execEpochApplyTimeout now s
  | .waitCommand q raw => Sys2Proof.Machine.execWaitCommand q raw s
  | .waitSatisfied id host => Sys2Proof.Machine.execWaitSatisfied id host s
  | .signalCommand q raw => Sys2Proof.Machine.execSignalCommand q raw s
  | .copyCommand q raw => Sys2Proof.Machine.execCopyCommand q raw s
  | .copyComplete id host => Sys2Proof.Machine.execCopyComplete id host s
  | .killCommand q raw => Sys2Proof.Machine.execKillCommand q raw s
  | .hstQResume fn q val => Sys2Proof.Machine.execHstQResume fn q val s
  | .hstQSkip fn q val => Sys2Proof.Machine.execHstQSkip fn q val s
  | .watchdog now id => Sys2Proof.Machine.execWatchdog now id s
  | .ctxCtrlCreate fn c val => Sys2Proof.Machine.execCtxCtrlCreate fn c val s
  | .ctxCtrlKill fn c val => Sys2Proof.Machine.execCtxCtrlKill fn c val s
  | .ctxCtrlRelease fn c val => Sys2Proof.Machine.execCtxCtrlRelease fn c val s
  | .ctxKill c val => Sys2Proof.Machine.execCtxKill c val s
  | .hostEventPost fn c val => Sys2Proof.Machine.execHostEventPost fn c val s
  | .tlbInvalidate fn c val => Sys2Proof.Machine.execTlbInvalidate fn c val s
  | .tlbInvalidateComplete c => Sys2Proof.Machine.execTlbInvalidateComplete c s
  | .faultArrival n => Sys2Proof.Machine.execFaultArrival n s
  | .killComplete c => Sys2Proof.Machine.execKillComplete c s
  | .eventDeadlock now c => Sys2Proof.Machine.execEventDeadlock now c s
  | .drainApply now => Sys2Proof.Machine.execDrainApply now s
  | .drainTimeout now => Sys2Proof.Machine.execDrainTimeout now s
  | .tcuSlotAssign tile => Sys2Proof.Machine.execTcuSlotAssign tile s
  | .tcuAdd tile slot f => Sys2Proof.Machine.execTcuAdd tile slot f s
  | .tcuSub tile slot f => Sys2Proof.Machine.execTcuSub tile slot f s
  | .tcuAnd tile slot f => Sys2Proof.Machine.execTcuAnd tile slot f s
  | .tcuOr tile slot f => Sys2Proof.Machine.execTcuOr tile slot f s
  | .tcuXor tile slot f => Sys2Proof.Machine.execTcuXor tile slot f s
  | .tcuShl tile slot f => Sys2Proof.Machine.execTcuShl tile slot f s
  | .tcuShr tile slot f => Sys2Proof.Machine.execTcuShr tile slot f s
  | .tcuSar tile slot f => Sys2Proof.Machine.execTcuSar tile slot f s
  | .tcuMul tile slot f => Sys2Proof.Machine.execTcuMul tile slot f s
  | .tcuSlt tile slot f => Sys2Proof.Machine.execTcuSlt tile slot f s
  | .tcuSltu tile slot f => Sys2Proof.Machine.execTcuSltu tile slot f s
  | .tcuAddi tile slot f => Sys2Proof.Machine.execTcuAddi tile slot f s
  | .tcuAndi tile slot f => Sys2Proof.Machine.execTcuAndi tile slot f s
  | .tcuOri tile slot f => Sys2Proof.Machine.execTcuOri tile slot f s
  | .tcuXori tile slot f => Sys2Proof.Machine.execTcuXori tile slot f s
  | .tcuLui tile slot f => Sys2Proof.Machine.execTcuLui tile slot f s
  | .tcuShli tile slot f => Sys2Proof.Machine.execTcuShli tile slot f s
  | .tcuShri tile slot f => Sys2Proof.Machine.execTcuShri tile slot f s
  | .tcuSari tile slot f => Sys2Proof.Machine.execTcuSari tile slot f s
  | .tcuLdw tile slot f => Sys2Proof.Machine.execTcuLdw tile slot f s
  | .tcuStw tile slot f => Sys2Proof.Machine.execTcuStw tile slot f s
  | .tcuLdv tile slot f => Sys2Proof.Machine.execTcuLdv tile slot f s
  | .tcuStv tile slot f => Sys2Proof.Machine.execTcuStv tile slot f s
  | .tcuBeq tile slot f => Sys2Proof.Machine.execTcuBeq tile slot f s
  | .tcuBne tile slot f => Sys2Proof.Machine.execTcuBne tile slot f s
  | .tcuBlt tile slot f => Sys2Proof.Machine.execTcuBlt tile slot f s
  | .tcuBge tile slot f => Sys2Proof.Machine.execTcuBge tile slot f s
  | .tcuBltu tile slot f => Sys2Proof.Machine.execTcuBltu tile slot f s
  | .tcuBgeu tile slot f => Sys2Proof.Machine.execTcuBgeu tile slot f s
  | .tcuJal tile slot f => Sys2Proof.Machine.execTcuJal tile slot f s
  | .tcuJr tile slot f => Sys2Proof.Machine.execTcuJr tile slot f s
  | .tcuSave tile slot f => Sys2Proof.Machine.execTcuSave tile slot f s
  | .tcuRestore tile slot f => Sys2Proof.Machine.execTcuRestore tile slot f s
  | .tcuTret tile slot f => Sys2Proof.Machine.execTcuTret tile slot f s
  | .tcuHret tile slot f => Sys2Proof.Machine.execTcuHret tile slot f s
  | .tcuSend tile slot f => Sys2Proof.Machine.execTcuSend tile slot f s
  | .messageArrival now tile slot => Sys2Proof.Machine.execMessageArrival now tile slot s
  | .messageRetry now tile slot => Sys2Proof.Machine.execMessageRetry now tile slot s
  | .sendStatus now tile slot => Sys2Proof.Machine.execSendStatus now tile slot s
  | .tcuRecv tile slot f => Sys2Proof.Machine.execTcuRecv tile slot f s
  | .tcuRecvw tile slot f => Sys2Proof.Machine.execTcuRecvw tile slot f s
  | .recvwWake tile slot => Sys2Proof.Machine.execRecvwWake tile slot s
  | .handlerDispatch tile slot => Sys2Proof.Machine.execHandlerDispatch tile slot s
  | .tcuPlace tile slot f => Sys2Proof.Machine.execTcuPlace tile slot f s
  | .placeWake tile slot => Sys2Proof.Machine.execPlaceWake tile slot s
  | .tcuStartb tile slot f => Sys2Proof.Machine.execTcuStartb tile slot f s
  | .tcuWaitb tile slot f => Sys2Proof.Machine.execTcuWaitb tile slot f s
  | .waitbWake tile slot => Sys2Proof.Machine.execWaitbWake tile slot s
  | .tcuRetire tile slot f => Sys2Proof.Machine.execTcuRetire tile slot f s
  | .tcuTevsig tile slot f => Sys2Proof.Machine.execTcuTevsig tile slot f s
  | .tcuRdsr tile slot f => Sys2Proof.Machine.execTcuRdsr tile slot f s
  | .tcuWrsr tile slot f => Sys2Proof.Machine.execTcuWrsr tile slot f s
  | .tcuFence tile slot f => Sys2Proof.Machine.execTcuFence tile slot f s
  | .tcuWrd tile slot f => Sys2Proof.Machine.execTcuWrd tile slot f s
  | .tcuWwr tile slot f => Sys2Proof.Machine.execTcuWwr tile slot f s
  | .tcuEnd tile slot f => Sys2Proof.Machine.execTcuEnd tile slot f s
  | .endComplete tile slot => Sys2Proof.Machine.execEndComplete tile slot s
  | .chiselOpStart tile => Sys2Proof.Machine.execChiselOpStart tile s
  | .chiselOpComplete tile op => Sys2Proof.Machine.execChiselOpComplete tile op s
  | .relaySliceArrival tile plus => Sys2Proof.Machine.execRelaySliceArrival tile plus s
  | .relayTimeout now tile op => Sys2Proof.Machine.execRelayTimeout now tile op s
  | .neuralBatchArrival n => Sys2Proof.Machine.execNeuralBatchArrival n s
  | .neuralBatchStart tile => Sys2Proof.Machine.execNeuralBatchStart tile s
  | .neuralWeightCacheFill tile => Sys2Proof.Machine.execNeuralWeightCacheFill tile s
  | .neuralBatchComplete tile => Sys2Proof.Machine.execNeuralBatchComplete tile s
  | .streamOpen tile slot f => Sys2Proof.Machine.execStreamOpen tile slot f s
  | .streamClose tile slot f => Sys2Proof.Machine.execStreamClose tile slot f s
  | .streamCloseComplete num => Sys2Proof.Machine.execStreamCloseComplete num s
  | .strCtxRangeWrite fn c val => Sys2Proof.Machine.execStrCtxRangeWrite fn c val s
  | .lineRequestIssue tile => Sys2Proof.Machine.execLineRequestIssue tile s
  | .lineArrival tile index host => Sys2Proof.Machine.execLineArrival tile index host s
  | .storeLineDone tile index => Sys2Proof.Machine.execStoreLineDone tile index s
  | .linkTransfer num => Sys2Proof.Machine.execLinkTransfer num s
  | .linkSlotDelivered num => Sys2Proof.Machine.execLinkSlotDelivered num s
  | .waitCycleScan now => Sys2Proof.Machine.execWaitCycleScan now s
  | .rayPacketArrival n => Sys2Proof.Machine.execRayPacketArrival n s
  | .visitArrival n => Sys2Proof.Machine.execVisitArrival n s
  | .visitReturn n => Sys2Proof.Machine.execVisitReturn n s
  | .nodeFetch arm ray => Sys2Proof.Machine.execNodeFetch arm ray s
  | .speculativeNodeFetch arm ray va => Sys2Proof.Machine.execSpeculativeNodeFetch arm ray va s
  | .neuralBatchSend arm => Sys2Proof.Machine.execNeuralBatchSend arm s
  | .neuralReply n => Sys2Proof.Machine.execNeuralReply n s
  | .placementPeriod now => Sys2Proof.Machine.execPlacementPeriod now s
  | .maquetteBuild fn p val => Sys2Proof.Machine.execMaquetteBuild fn p val s
  | .maquetteBuildComplete p => Sys2Proof.Machine.execMaquetteBuildComplete p s
  | .maquetteRelease fn p val => Sys2Proof.Machine.execMaquetteRelease fn p val s
  | .reload fn p val => Sys2Proof.Machine.execReload fn p val s
  | .traceAdmission now unit => Sys2Proof.Machine.execTraceAdmission now unit s
  | .binTimeout now unit bin => Sys2Proof.Machine.execBinTimeout now unit bin s
  | .packetSend now unit => Sys2Proof.Machine.execPacketSend now unit s
  | .binTimeoutAdjust now unit => Sys2Proof.Machine.execBinTimeoutAdjust now unit s
  | .hitArrival n => Sys2Proof.Machine.execHitArrival n s
  | .hitBinTimeout now unit bin => Sys2Proof.Machine.execHitBinTimeout now unit bin s
  | .hitRingWrite unit => Sys2Proof.Machine.execHitRingWrite unit s
  | .hitRingRetry unit => Sys2Proof.Machine.execHitRingRetry unit s
  | .dispatchBlock unit host => Sys2Proof.Machine.execDispatchBlock unit host s
  | .overloadSample now p => Sys2Proof.Machine.execOverloadSample now p s
  | .droopDetect tile detector mv => Sys2Proof.Machine.execDroopDetect tile detector mv s
  | .droopStretchEnd tile => Sys2Proof.Machine.execDroopStretchEnd tile s
  | .powerPeriod now act => Sys2Proof.Machine.execPowerPeriod now act s
  | .reconciliationWindow now reads => Sys2Proof.Machine.execReconciliationWindow now reads s
  | .voltageSettled die => Sys2Proof.Machine.execVoltageSettled die s
  | .pmbusReport now vin rail => Sys2Proof.Machine.execPmbusReport now vin rail s
  | .thermalSample now tiles base => Sys2Proof.Machine.execThermalSample now tiles base s
  | .thermalStep now => Sys2Proof.Machine.execThermalStep now s
  | .shedEnter now mv => Sys2Proof.Machine.execShedEnter now mv s
  | .shedExit now mv => Sys2Proof.Machine.execShedExit now mv s
  | .coolantStop now n => Sys2Proof.Machine.execCoolantStop now n s
  | .coolantGlitch => Sys2Proof.Machine.execCoolantGlitch s
  | .phaseMarkApply now p => Sys2Proof.Machine.execPhaseMarkApply now p s
  | .partLearnReset p val => Sys2Proof.Machine.execPartLearnReset p val s
  | .ageingEpoch => Sys2Proof.Machine.execAgeingEpoch s
  | .bar4Read fn offset bytes atomicOp => Sys2Proof.Machine.execBar4Read fn offset bytes atomicOp s
  | .bar4Write fn offset data => Sys2Proof.Machine.execBar4Write fn offset data s
  | .vfFlr vf => Sys2Proof.Machine.execVfFlr vf s
  | .linkDown => Sys2Proof.Machine.execLinkDown s
  | .linkRetrain speed width flit replays => Sys2Proof.Machine.execLinkRetrain speed width flit replays s
  | .completionFailure req host => Sys2Proof.Machine.execCompletionFailure req host s
  | .completionTimeout now req host => Sys2Proof.Machine.execCompletionTimeout now req host s
  | .msixUnmask vector => Sys2Proof.Machine.execMsixUnmask vector s
  | .hbmReadError now pa err => Sys2Proof.Machine.execHbmReadError now pa err s
  | .rowRetireComplete now stack index bad => Sys2Proof.Machine.execRowRetireComplete now stack index bad s
  | .patrolRead now stack err => Sys2Proof.Machine.execPatrolRead now stack err s
  | .hbmRefresh now stack => Sys2Proof.Machine.execHbmRefresh now stack s
  | .hbmTempRead now stack temp => Sys2Proof.Machine.execHbmTempRead now stack temp s
  | .retireRow now val => Sys2Proof.Machine.execRetireRow now val s
  | .loopbackPciePipe now cmd => Sys2Proof.Machine.execLoopbackPciePipe now cmd s
  | .loopbackPcieNearEnd now cmd => Sys2Proof.Machine.execLoopbackPcieNearEnd now cmd s
  | .loopbackHbmController now cmd => Sys2Proof.Machine.execLoopbackHbmController now cmd s
  | .loopbackHbmPhy now cmd => Sys2Proof.Machine.execLoopbackHbmPhy now cmd s
  | .loopbackNguaNearEndPcs now cmd => Sys2Proof.Machine.execLoopbackNguaNearEndPcs now cmd s
  | .loopbackNguaFarEndPma now cmd => Sys2Proof.Machine.execLoopbackNguaFarEndPma now cmd s
  | .loopbackNguaLinkLayer now cmd => Sys2Proof.Machine.execLoopbackNguaLinkLayer now cmd s
  | .loopbackNguaTransaction now cmd => Sys2Proof.Machine.execLoopbackNguaTransaction now cmd s
  | .loopbackStop now val => Sys2Proof.Machine.execLoopbackStop now val s
  | .loopbackEnd now obs => Sys2Proof.Machine.execLoopbackEnd now obs s
  | .frameReceive now port lanes => Sys2Proof.Machine.execFrameReceive now port lanes s
  | .trainFlitReceive now port => Sys2Proof.Machine.execTrainFlitReceive now port s
  | .trainingTimeout now port => Sys2Proof.Machine.execTrainingTimeout now port s
  | .portTrainRetry now port => Sys2Proof.Machine.execPortTrainRetry now port s
  | .dataFlitReceive now port => Sys2Proof.Machine.execDataFlitReceive now port s
  | .idleFlitReceive now port => Sys2Proof.Machine.execIdleFlitReceive now port s
  | .nakReceive now port => Sys2Proof.Machine.execNakReceive now port s
  | .replayTimeout now port => Sys2Proof.Machine.execReplayTimeout now port s
  | .packetStart now port => Sys2Proof.Machine.execPacketStart now port s
  | .putReceive now => Sys2Proof.Machine.execPutReceive now s
  | .getReceive now => Sys2Proof.Machine.execGetReceive now s
  | .eventReceive now => Sys2Proof.Machine.execEventReceive now s
  | .dataReceive now => Sys2Proof.Machine.execDataReceive now s
  | .ackReceive now => Sys2Proof.Machine.execAckReceive now s
  | .requestRetry now dst tid => Sys2Proof.Machine.execRequestRetry now dst tid s
  | .detourForward now => Sys2Proof.Machine.execDetourForward now s
  | .fabricQueuePoll now c q => Sys2Proof.Machine.execFabricQueuePoll now c q s
  | .fabricPut now c q host => Sys2Proof.Machine.execFabricPut now c q host s
  | .fabricGet now c q => Sys2Proof.Machine.execFabricGet now c q s
  | .fabricEvent now c q => Sys2Proof.Machine.execFabricEvent now c q s
  | .timeFlitSend now port => Sys2Proof.Machine.execTimeFlitSend now port s
  | .timeFlitReceive now port => Sys2Proof.Machine.execTimeFlitReceive now port s
  | .loopbackFlitReceive now port => Sys2Proof.Machine.execLoopbackFlitReceive now port s
  | .adminDown port => Sys2Proof.Machine.execAdminDown port s
  | .adminDownComplete now port => Sys2Proof.Machine.execAdminDownComplete now port s
  | .adminUp now port => Sys2Proof.Machine.execAdminUp now port s
  | .smpCsAssert now => Sys2Proof.Machine.execSmpCsAssert now s
  | .smpCsDeassert now => Sys2Proof.Machine.execSmpCsDeassert now s
  | .smpFrame now frame => Sys2Proof.Machine.execSmpFrame now frame s
  | .smpNop now => Sys2Proof.Machine.execSmpNop now s
  | .smpRead now => Sys2Proof.Machine.execSmpRead now s
  | .smpWrite now => Sys2Proof.Machine.execSmpWrite now s
  | .commitOpen now => Sys2Proof.Machine.execCommitOpen now s
  | .commitExecute now => Sys2Proof.Machine.execCommitExecute now s
  | .commitDiscard now => Sys2Proof.Machine.execCommitDiscard now s
  | .commitBuildTimeout tray now => Sys2Proof.Machine.execCommitBuildTimeout tray now s
  | .powerDownOrderly now => Sys2Proof.Machine.execPowerDownOrderly now s
  | .powerDownForced now => Sys2Proof.Machine.execPowerDownForced now s
  | .powerDownDone now => Sys2Proof.Machine.execPowerDownDone now s
  | .plinthRequest who now src msg obs finals => Sys2Proof.Machine.execPlinthRequest who now src msg obs finals s
  | .bridgeTimeout now pos => Sys2Proof.Machine.execBridgeTimeout now pos s
  | .smpReenable now src seq pos val => Sys2Proof.Machine.execSmpReenable now src seq pos val s
  | .requestResend who now src msg obs finals => Sys2Proof.Machine.execRequestResend who now src msg obs finals s
  | .stateFrameSend who now obs => Sys2Proof.Machine.execStateFrameSend who now obs s
  | .stateFrameReceive who now node emergency block => Sys2Proof.Machine.execStateFrameReceive who now node emergency block s
  | .emergencyFrameSend who now obs => Sys2Proof.Machine.execEmergencyFrameSend who now obs s
  | .busLost now => Sys2Proof.Machine.execBusLost now s
  | .ceilingRaise now => Sys2Proof.Machine.execCeilingRaise now s
  | .capCheck now caps => Sys2Proof.Machine.execCapCheck now caps s
  | .flowSample who now flow supply ret latched wet => Sys2Proof.Machine.execFlowSample who now flow supply ret latched wet s
  | .leakPowerRemove now => Sys2Proof.Machine.execLeakPowerRemove now s
  | .moduleThermtrip now pos => Sys2Proof.Machine.execModuleThermtrip now pos s
  | .trayStartStep now obs => Sys2Proof.Machine.execTrayStartStep now obs s
  | .hostStandbyTimeout now => Sys2Proof.Machine.execHostStandbyTimeout now s
  | .chipReadyTimeout now => Sys2Proof.Machine.execChipReadyTimeout now s
  | .switchWaitTimeout now => Sys2Proof.Machine.execSwitchWaitTimeout now s
  | .switchTrayPowerOff now => Sys2Proof.Machine.execSwitchTrayPowerOff now s
  | .serviceDrain now src seq obs => Sys2Proof.Machine.execServiceDrain now src seq obs s
  | .serviceDrainForced now src seq obs => Sys2Proof.Machine.execServiceDrainForced now src seq obs s
  | .servicePull now src seq => Sys2Proof.Machine.execServicePull now src seq s
  | .serviceResume now src seq => Sys2Proof.Machine.execServiceResume now src seq s
  | .trayDrainStep now obs => Sys2Proof.Machine.execTrayDrainStep now obs s
  | .hostShutdownTimeout now => Sys2Proof.Machine.execHostShutdownTimeout now s
  | .trayDrainObjectWrite now src seq sub val obs => Sys2Proof.Machine.execTrayDrainObjectWrite now src seq sub val obs s
  | .moduleCycle now src seq val obs => Sys2Proof.Machine.execModuleCycle now src seq val obs s
  | .berInstall now src seq obs => Sys2Proof.Machine.execBerInstall now src seq obs s
  | .berInstallEnd now results => Sys2Proof.Machine.execBerInstallEnd now results s
  | .berPeriodic now up spare => Sys2Proof.Machine.execBerPeriodic now up spare s
  | .berPortTestEnd now result spare => Sys2Proof.Machine.execBerPortTestEnd now result spare s
  | .canLoopback who now src seq obs => Sys2Proof.Machine.execCanLoopback who now src seq obs s
  | .eventLogPoll now pos seq recs => Sys2Proof.Machine.execEventLogPoll now pos seq recs s
  | .imageBlock who now src seq data => Sys2Proof.Machine.execImageBlock who now src seq data s
  | .imageSave who now src seq => Sys2Proof.Machine.execImageSave who now src seq s
  | .imageSaveComplete who now => Sys2Proof.Machine.execImageSaveComplete who now s
  | .dictSave who now => Sys2Proof.Machine.execDictSave who now s
  | .trayControllerStart who flash => Sys2Proof.Machine.execTrayControllerStart who flash s
  | .keyGenerate now fn val => Sys2Proof.Machine.execKeyGenerate now fn val s
  | .keyLoad now fn val => Sys2Proof.Machine.execKeyLoad now fn val s
  | .keyErase now fn val => Sys2Proof.Machine.execKeyErase now fn val s
  | .unlockToken now token => Sys2Proof.Machine.execUnlockToken now token s
  | .unlockOpen now => Sys2Proof.Machine.execUnlockOpen now s
  | .intrusion now => Sys2Proof.Machine.execIntrusion now s
  | .pwrinGoodRise => Sys2Proof.Machine.execPwrinGoodRise s
  | .pwrinGoodFall => Sys2Proof.Machine.execPwrinGoodFall s
  | .chipRstNAssert => Sys2Proof.Machine.execChipRstNAssert s
  | .resetCommandCold now val => Sys2Proof.Machine.execResetCommandCold now val s
  | .bootComplete now obs => Sys2Proof.Machine.execBootComplete now obs s
  | .pfFlr now => Sys2Proof.Machine.execPfFlr now s
  | .hotReset now => Sys2Proof.Machine.execHotReset now s
  | .perstNAssert now => Sys2Proof.Machine.execPerstNAssert now s
  | .resetCommandWarm now val => Sys2Proof.Machine.execResetCommandWarm now val s
  | .warmResetComplete now coolant => Sys2Proof.Machine.execWarmResetComplete now coolant s
  | .jtagExtest => Sys2Proof.Machine.execJtagExtest s
  | .jtagIdcode => Sys2Proof.Machine.execJtagIdcode s
  | .jtagSamplePreload => Sys2Proof.Machine.execJtagSamplePreload s
  | .jtagClamp => Sys2Proof.Machine.execJtagClamp s
  | .jtagHighz => Sys2Proof.Machine.execJtagHighz s
  | .jtagExtestPulse => Sys2Proof.Machine.execJtagExtestPulse s
  | .jtagExtestTrain => Sys2Proof.Machine.execJtagExtestTrain s
  | .jtagTestInstruction code => Sys2Proof.Machine.execJtagTestInstruction code s
  | .jtagBypass code => Sys2Proof.Machine.execJtagBypass code s
  | .chipRstNDeassert => Sys2Proof.Machine.execChipRstNDeassert s
  | .perstNDeassert now => Sys2Proof.Machine.execPerstNDeassert now s
  | .linkUp speed width flit cfg => Sys2Proof.Machine.execLinkUp speed width flit cfg s
  | .intrusionNDeassert now => Sys2Proof.Machine.execIntrusionNDeassert now s
  | .frameLockLoss now port => Sys2Proof.Machine.execFrameLockLoss now port s
  | .stateFrameTimeout who now node => Sys2Proof.Machine.execStateFrameTimeout who now node s
  | .switchTrayStart now busMs => Sys2Proof.Machine.execSwitchTrayStart now busMs s
  | .managementTrayStart now busMs => Sys2Proof.Machine.execManagementTrayStart now busMs s
  | .loadReturn id host => Sys2Proof.Machine.execLoadReturn id host s

end Sys2Proof.Machine
end

