-- ==== Sys2Proof/Safety.lean ====
section
/-! DEFINITION. What the statements speak of: when a command completes, what it leaves unchanged, and when an instruction of the
thread engine or of a TCU slot issues and passes its checks. -/
namespace Sys2Proof.Machine

/-- The command completes in a next state of which P holds. -/
def Completes (c : Instr) (s : State) (P : State → Prop) : Prop := ∃ t, exec c s = .next t ∧ P t

/-- Nothing but the tiles and the number of free values drawn differs: memory, caches, registers of every other unit, the commands
that wait and the trays are as before. -/
def OnlyTiles (s t : State) : Prop := t = { s with tiles := t.tiles, freeCount := t.freeCount }

/-- Nothing differs but one tile (and the number of free values drawn). -/
def OnlyTile (s t : State) (tile : Nat) : Prop := OnlyTiles s t ∧ ∀ u, u ≠ tile → t.tile u = s.tile u

/-! ## The thread engine -/

/-- The lanes of an issue that the guard of its word lets act (R206, R213). -/
def guardedLanes (g : Group) (mask : List Nat) (w : Nat) : List Nat :=
  mask.filter fun k => match g.lane? k with
    | some l => l.guard w
    | none => false

/-- The tile's issued instruction is the word w, for the group, block and lanes of tc; the tile is clocked, the context may run, and
the word has no reserved field set and names no register beyond the kernel's (R69, R209, R213). -/
def Issues (s : State) (tile w : Nat) (tc : TC) : Prop :=
  tc.tile = tile ∧ s.clocked = true ∧ (s.tile tile).issued = some tc.i ∧ tc.i.word = w
    ∧ (s.tile tile).group? tc.i.slot = some tc.g ∧ (s.tile tile).block? tc.g.bslot = some tc.b
    ∧ tc.act = guardedLanes tc.g tc.i.mask w ∧ s.live tc.b.ctx = true ∧ reservedBad w tc.b.hdr.regs tc.g.width = false

/-- A lane after an instruction that gives each active lane the effect f: the other lanes of the issue only move on to the next
instruction (R213), lanes outside it are as before. -/
def laneAfter (tc : TC) (f : Nat → Lane → Lane) (k : Nat) (l : Lane) : Lane :=
  if k ∈ tc.act then { f k l with pc := (f k l).pc + 8 }
  else if k ∈ tc.i.mask then { l with pc := l.pc + 8 }
  else l

/-- The lanes of the issued group become what `after` makes of them; the group's other fields, the tile's other groups, everything else
of the tile (its local memory and its queues), every other tile and everything outside the tiles are as before, but that the instruction
has issued. -/
def LanesBecome (s t : State) (tc : TC) (after : Nat → Lane → Lane) : Prop :=
  OnlyTile s t tc.tile
    ∧ t.tile tc.tile = { s.tile tc.tile with issued := none, groups := (t.tile tc.tile).groups }
    ∧ (∀ slot, slot ≠ tc.i.slot → (t.tile tc.tile).group? slot = (s.tile tc.tile).group? slot)
    ∧ ∃ g, (t.tile tc.tile).group? tc.i.slot = some g ∧ g = { tc.g with lanes := g.lanes }
        ∧ ∀ k, g.lane? k = (tc.g.lane? k).map (after k)

/-- What an instruction does that acts lane by lane and goes on at the next instruction. -/
def LaneByLane (s t : State) (tc : TC) (f : Nat → Lane → Lane) : Prop := LanesBecome s t tc (laneAfter tc f)

/-- A lane after a branch: an active lane is at its target with the effect f, the other lanes of the issue go on (R213, R247). -/
def laneBranched (tc : TC) (target : Nat → Nat) (f : Lane → Lane) (k : Nat) (l : Lane) : Lane :=
  if k ∈ tc.act then { f l with pc := target k }
  else if k ∈ tc.i.mask then { l with pc := l.pc + 8 }
  else l

/-- The issue has stopped at a fault: its record waits for the context manager and every lane of the issue has stopped; nothing else
changes (R71, R212, R243). -/
def IssueFaults (s t : State) (tc : TC) (x : FaultInfo) : Prop :=
  ∃ m, LanesBecome s m tc (fun k l => if k ∈ tc.i.mask then { l with wait := .faulted } else l)
    ∧ t = { m with cm := { m.cm with faultQ := m.cm.faultQ ++ [x] } }

/-- What an instruction does that also stores to local memory: lanes as LaneByLane, and of all tiles only local memories differ, each only
in bytes that `stored` names. -/
def StoresLocal (s t : State) (tc : TC) (f : Nat → Lane → Lane) (stored : Nat → Nat → Prop) : Prop :=
  ∃ m, LaneByLane s m tc f ∧ t = { m with tiles := t.tiles } ∧ (∀ u, t.tile u = { m.tile u with localMem := (t.tile u).localMem })
    ∧ ∀ u a, ¬stored u a → t.localRead u a 1 = s.localRead u a 1

/-- The byte of a tile at an address lies in the n bytes at a target. -/
def inTarget (x : Nat × Nat) (n u a : Nat) : Prop := u = x.1 ∧ x.2 ≤ a ∧ a < x.2 + n

/-- Each active lane's local address is a multiple of its size and lies in the allocation that it names, at the target `at_` (R149, R180,
R242). -/
def LocalOk (s : State) (tc : TC) (f : MemF) (at_ : Nat → Nat × Nat) : Prop :=
  ∀ k ∈ tc.act, localAddr f (tc.lane k) % (sizeBytes f.size : Int) = 0
    ∧ s.localTarget tc.tile tc.b (localAddr f (tc.lane k)) (sizeBytes f.size) = some (at_ k)

/-- A context's count of an activity on a tile. -/
def Tile.actCount (t : Tile) (c j : Nat) : Nat := ((t.acts.find? (·.1 == (c, j))).map (·.2)).getD 0

/-- What a local access of n bytes adds to its effect (R126, R184–R187): its group waits for the replays of the words that its lanes reach
in the own tile's banks, the lanes that reached a neighbour wait for 6 cycles and the replays there (one more where the group's second issue
cycle follows), and each tile counts the words that its local memory was asked for; nothing else differs. -/
def LocalWaits (s t : State) (tc : TC) (atomic : Bool) (n : Nat) (at_ : Nat → Nat × Nat) : Prop :=
  let lanes (u : Nat) : List (Nat × Nat) := (tc.act.filter fun k => (at_ k).1 == u).map fun k => (k, (at_ k).2)
  let replays (u : Nat) : Nat := replayCycles atomic n (lanes u)
  let more : Nat := if (s.tile tc.tile).second then 1 else 0
  OnlyTiles s t
    ∧ (∀ u, t.tile u = { s.tile u with groups := (t.tile u).groups, acts := (t.tile u).acts })
    ∧ (∀ u, u ≠ tc.tile → (t.tile u).groups = (s.tile u).groups)
    ∧ (∀ u c j, u < s.tiles.length → (t.tile u).actCount c j
        = (s.tile u).actCount c j + if c = tc.b.ctx ∧ j = 5 then (lanes u).length * ((n + 3) / 4) else 0)
    ∧ (∀ slot, slot ≠ tc.i.slot → (t.tile tc.tile).group? slot = (s.tile tc.tile).group? slot)
    ∧ ∀ g, (s.tile tc.tile).group? tc.i.slot = some g → ∃ g', (t.tile tc.tile).group? tc.i.slot = some g'
        ∧ g' = { g with lanes := g'.lanes, replay := if replays tc.tile = 0 then g.replay else replays tc.tile + more }
        ∧ ∀ k, g'.lane? k = (g.lane? k).map fun l =>
            if k ∈ tc.act ∧ (at_ k).1 ≠ tc.tile ∧ l.wait = .run then { l with wait := .neighbour (6 + replays (at_ k).1 + more) } else l

/-- The checks of the accesses at VAs of the active lanes, in ascending lane order (R242): the state after the translations, and the lanes
up to the first that faults with their VA, leaf and physical address, and its fault; none where a lane of a gather or scatter is on an UNCACHED
or REGISTER page (R238). -/
def VaChecks (s : State) (tc : TC) (f : MemF) (acc : Access) (s' : State) (c : Option (Checked (Nat × Leaf × Nat))) : Prop :=
  vaLanes acc f tc (s.updTile tc.tile fun t => { t with issued := none }) = (s', c)

/-- The accesses at VAs of the active lanes pass their checks. -/
def VaOk (s : State) (tc : TC) (f : MemF) (acc : Access) (s' : State) (good : List (Nat × Nat × Leaf × Nat)) : Prop :=
  VaChecks s tc f acc s' (some ⟨good, none⟩)

/-- Where the word issues, the command completes and each active lane takes the effect f. -/
def RunsLanes (c : Instr) (s : State) (tile w : Nat) (tc : TC) (f : Nat → Lane → Lane) : Prop :=
  Issues s tile w tc → Completes c s fun t => LaneByLane s t tc f

/-! ## The TCU -/

/-- The slot's next instruction is the word w: the tile is clocked, the slot is ready and first among the tile's ready slots, w is the
word fetched, defined in the slot's mode and without a reserved field set (R287, R293, R301, R328). -/
def TcuIssues (s : State) (tile slot w : Nat) : Prop :=
  s.clocked = true ∧ s.tcuReady tile slot = true ∧ s.tcuFirst tile slot = true ∧ s.tcuWord tile slot = some w
    ∧ tcuDefined (bits w 26 6) = true ∧ tcuModeOk ((s.tile tile).tcu slot).trap (bits w 26 6) = true ∧ tcuBad w = false

/-- One more TCU instruction is counted on the tile, and its line of the instruction near cache has been used (R293, R885). -/
def State.tcuCounted (s : State) (tile slot : Nat) : State :=
  let c := (s.tile tile).tcu slot
  (s.icUsed tile c.ctx (c.image.base + c.pc)).updTile tile fun t => { t with tcuCnt := { t.tcuCnt with insns := t.tcuCnt.insns + 1 } }

/-- What a TCU instruction does that changes its slot alone: the slot's new state, the tile's other slots, everything else of the tile
but its count of TCU instructions and the order in which its instruction near cache was used, and every other tile as before. -/
def SlotOnly (s t : State) (tile slot : Nat) (c : Tcu) : Prop :=
  OnlyTile s t tile
    ∧ t.tile tile = { s.tile tile with
        tcus := (t.tile tile).tcus, ic := (t.tile tile).ic
        tcuCnt := { (s.tile tile).tcuCnt with insns := (s.tile tile).tcuCnt.insns + 1 } }
    ∧ (∀ x, x ∈ (t.tile tile).ic ↔ x ∈ (s.tile tile).ic)
    ∧ (t.tile tile).tcu slot = c ∧ ∀ x, x ≠ slot → (t.tile tile).tcu x = (s.tile tile).tcu x

/-! ## Command queues -/

/-- The queue starts the command c of opcode op: it is enabled, not halted, of an enabled partition, and holds commands; its next command
is read as c, in the state s1, which waits for no earlier command and passes the checks of R57 (R51–R57, R93, R735). -/
def CmdStarts (s : State) (q op : Nat) (raw : List Byte) (c : Cmd) (s1 : State) : Prop :=
  let x := s.queue q
  s.clocked = true ∧ s.boot.powerDown = 0 ∧ q < 128 ∧ x.enable = true ∧ x.halted = false ∧ x.waiting ≠ 0 ∧ (s.part x.part).enabled = true
    ∧ (∃ l, s.fetchCmd q raw = (s1, some l) ∧ parseCmd l = c) ∧ c.opcode = op ∧ op ≤ 6
    ∧ (c.barrier = true ∨ op = 4 → x.outstanding = []) ∧ c.reserved = false
    ∧ (op ≠ 0 → op ≠ 2 → (s1.ctx c.ctx).part = x.part ∧ s1.live c.ctx = true ∧ s1.held c.ctx = false)

/-- Nothing differs but the queue's registers. -/
def OnlyQueue (s t : State) (q : Nat) : Prop :=
  t = { s with cm := { s.cm with queues := t.cm.queues } } ∧ ∀ r, r ≠ q → t.queue r = s.queue r

/-- The queue after a command has started: its head is past the command. -/
def HostQ.past (x : HostQ) : HostQ := { x with head := (x.head + 1) % x.size, errAtHead := false }

/-- The context's kill has started for a fault of this code (R71, R72). -/
def KillStarted (t : State) (c code : Nat) : Prop :=
  (t.ctx c).state = .killing ∧ ∃ r, (t.ctx c).record = some r ∧ r.info.code = code ∧ r.info.ctx = c

/-! ## Tray controllers -/

/-- A message reaches the controller's server: long enough, on CAN FD of 64 bytes, a REQUEST for this node (R738, R742, R743). -/
def Tray.takes (t : Tray) (src : Nat) (msg : List Byte) : Prop :=
  20 ≤ msg.length ∧ (src < 64 → msg.length = 64) ∧ field msg 0 1 = 1
    ∧ ((parseMsg src msg).node = t.node ∨ ((parseMsg src msg).node = 0xFF ∧ 64 ≤ src))

/-- A response to a request: its status (1 OK, 2 ABORT), the data it brings, and the request's SEQ, TARGET, INDEX, SUB and OFFSET (R738). -/
def Answers (r : TrayReq) (out : List Byte) (status : Nat) (data : List Byte) : Prop :=
  field out 0 1 = 2 ∧ field out 4 1 = status ∧ field out 12 2 = data.length ∧ (out.drop 20).take data.length = data
    ∧ field out 2 1 = r.target ∧ field out 3 1 = r.seq ∧ field out 6 2 = r.index ∧ field out 8 1 = r.sub ∧ field out 10 2 = r.offset

/-- The controller can perform a write of one of its own objects: it has an image in use and no open build, and this is not the request it
keeps from the requester (R743, R822). -/
def Tray.free (t : Tray) (src seq index sub : Nat) (d : List Byte) : Prop :=
  t.node < 256 ∧ t.images.selected ≠ 0xFF ∧ t.commits.build = none
    ∧ ∀ a ∈ t.asked, ¬(a.src = src ∧ a.key = (parseMsg src (t.writeMsg src seq index sub d)).key)

/-- A write of an object of a controller has ended with an abort code, 0 for none, and left the controller as `f`, but for what its server
keeps of the request; the response is the last thing sent. -/
def TrayDone (s t : State) (who src code : Nat) (f : Tray) : Prop :=
  ∃ out asked, t = s.setTray who { f with asked := asked, capture := none, partial_ := none, sent := f.sent ++ [.response src out] }
    ∧ field out 4 1 = (if code = 0 then 1 else 2) ∧ (code ≠ 0 → field out 20 4 = code)

end Sys2Proof.Machine
end

