-- ==== Sys2Proof/Certificates/Slice0/Obligations.lean ====
section
/-! DEFINITION. The statements about the model, for the provers; each docstring says what its statement says, and OBLIGATIONS.json lists
them with the rules they rest on. -/
open Sys2Proof Sys2Proof.Machine

/-- MOV, SEL, IADD, ISUB, IMUL, IMULHI, IMIN, IMAX, AND, OR, XOR, SHL, SHR, SAR, IMAD, POPC, CLZ and BREV: where the word issues, the
command completes; each active lane's destination register takes the result that R215 gives, every lane of the issue moves on by 8, and
no other register, predicate, lane, group, byte of memory, tile or unit changes. MOVI, IADDI, ISUBI, IMULI, IMULHII, IMINI, IMAXI, ANDI,
ORI, XORI, SHLI, SHRI and SARI: as the REG forms, with IMM32 in place of SRCB; where the word issues, the command completes, the
destination register of each active lane takes the result and nothing else changes. The values that POPC, CLZ and BREV write: POPC the
number of set bits; CLZ 32 for zero and otherwise the c for which the highest set bit is bit 31 - c; BREV the word whose bit i is bit 31
- i of the operand. -/
def Obligations.IntegerResults : Prop :=
  (∀ (s : State) (tile : Nat) (f : RegF) (tc : TC),
    let run (op : Nat) (c : Instr) (v : Lane → Word) : Prop :=
      RunsLanes c s tile (encReg op f) tc fun _ l => l.setGr f.dst (v l)
    let two (g : Word → Word → Word) (l : Lane) : Word := g (l.gr f.srca) (l.gr f.srcb)
    run 0x03 (.mov tile f) (fun l => l.gr f.srca)
    ∧ run 0x04 (.sel tile f) (fun l => if l.pr (f.mod % 8) then l.gr f.srca else l.gr f.srcb)
    ∧ run 0x10 (.iadd tile f) (two fun a b => a + b)
    ∧ run 0x11 (.isub tile f) (two fun a b => a - b)
    ∧ run 0x12 (.imul tile f) (two fun a b => BitVec.ofNat 32 (a.toNat * b.toNat))
    ∧ run 0x13 (.imulhi tile f) (two fun a b =>
        if f.mod % 2 = 1 then BitVec.ofInt 32 (a.toInt * b.toInt / 2 ^ 32) else BitVec.ofNat 32 (a.toNat * b.toNat / 2 ^ 32))
    ∧ run 0x15 (.imin tile f) (two fun a b => if (if f.mod % 2 = 1 then a.sle b else a.ule b) then a else b)
    ∧ run 0x16 (.imax tile f) (two fun a b => if (if f.mod % 2 = 1 then a.sle b else a.ule b) then b else a)
    ∧ run 0x17 (.and tile f) (two fun a b => a &&& b)
    ∧ run 0x18 (.or tile f) (two fun a b => a ||| b)
    ∧ run 0x19 (.xor tile f) (two fun a b => a ^^^ b)
    ∧ run 0x1A (.shl tile f) (two fun a b => BitVec.ofNat 32 (a.toNat * 2 ^ (b.toNat % 32)))
    ∧ run 0x1B (.shr tile f) (two fun a b => BitVec.ofNat 32 (a.toNat / 2 ^ (b.toNat % 32)))
    ∧ run 0x1C (.sar tile f) (two fun a b => BitVec.ofInt 32 (a.toInt / 2 ^ (b.toNat % 32)))
    ∧ run 0x14 (.imad tile f) (fun l => BitVec.ofNat 32 ((l.gr f.srca).toNat * (l.gr f.srcb).toNat + (l.gr f.srcc).toNat))
    ∧ run 0x1D (.popc tile f) (fun l => popc (l.gr f.srca))
    ∧ run 0x1E (.clz tile f) (fun l => clz (l.gr f.srca))
    ∧ run 0x1F (.brev tile f) (fun l => brev (l.gr f.srca)))
  ∧ (∀ (s : State) (tile : Nat) (f : ImmF) (tc : TC),
    let run (op : Nat) (c : Instr) (g : Word → Word → Word) : Prop :=
      RunsLanes c s tile (encImm op f) tc fun _ l => l.setGr f.dst (g (l.gr f.srca) f.imm)
    run 0x02 (.movi tile f) (fun _ b => b)
    ∧ run 0x20 (.iaddi tile f) (fun a b => a + b)
    ∧ run 0x21 (.isubi tile f) (fun a b => a - b)
    ∧ run 0x22 (.imuli tile f) (fun a b => BitVec.ofNat 32 (a.toNat * b.toNat))
    ∧ run 0x23 (.imulhii tile f) (fun a b =>
        if f.mod4 % 2 = 1 then BitVec.ofInt 32 (a.toInt * b.toInt / 2 ^ 32) else BitVec.ofNat 32 (a.toNat * b.toNat / 2 ^ 32))
    ∧ run 0x25 (.imini tile f) (fun a b => if (if f.mod4 % 2 = 1 then a.sle b else a.ule b) then a else b)
    ∧ run 0x26 (.imaxi tile f) (fun a b => if (if f.mod4 % 2 = 1 then a.sle b else a.ule b) then b else a)
    ∧ run 0x27 (.andi tile f) (fun a b => a &&& b)
    ∧ run 0x28 (.ori tile f) (fun a b => a ||| b)
    ∧ run 0x29 (.xori tile f) (fun a b => a ^^^ b)
    ∧ run 0x2A (.shli tile f) (fun a b => BitVec.ofNat 32 (a.toNat * 2 ^ (b.toNat % 32)))
    ∧ run 0x2B (.shri tile f) (fun a b => BitVec.ofNat 32 (a.toNat / 2 ^ (b.toNat % 32)))
    ∧ run 0x2C (.sari tile f) (fun a b => BitVec.ofInt 32 (a.toInt / 2 ^ (b.toNat % 32))))
  ∧ (∀ v : Word,
    (popc v).toNat = ((List.range 32).filter fun i => bitAt v.toNat i).length
    ∧ (v = 0 → (clz v).toNat = 32)
    ∧ (v ≠ 0 → (clz v).toNat < 32 ∧ 2 ^ (31 - (clz v).toNat) ≤ v.toNat ∧ v.toNat < 2 ^ (32 - (clz v).toNat))
    ∧ ∀ i, i < 32 → bitAt (brev v).toNat i = bitAt v.toNat (31 - i))

/-- Where the word issues, the predicate that DST names takes the condition of the compare field (R218 for integers: EQ, NE, the signed and
the unsigned orders; R219 for FP32, where a NaN makes every condition but NE and the NaN test false), or AND, OR, XOR or ANDN of two predicates
(R220), in each active lane; nothing else changes but the program counters. -/
def Obligations.CompareAndPredicateResults : Prop :=
  ∀ (s : State) (tile : Nat) (f : RegF) (fi : ImmF) (tc : TC),
    let order (c : Nat) (a b : Word) : Bool :=
      ([a == b, a != b, a.slt b, a.sle b, b.slt a, b.sle a, a.ult b, a.ule b, b.ult a, b.ule a] : List Bool).getD c (b.ule a)
    RunsLanes (.isetp tile f) s tile (encReg 0x30 f) tc (fun _ l => l.setPr f.dst (order (f.mod % 16) (l.gr f.srca) (l.gr f.srcb)))
    ∧ RunsLanes (.isetpi tile fi) s tile (encImm 0x31 fi) tc (fun _ l => l.setPr fi.dst (order fi.mod4 (l.gr fi.srca) fi.imm))
    ∧ RunsLanes (.fsetp tile f) s tile (encReg 0x32 f) tc (fun _ l => l.setPr f.dst (fpCmp (f.mod % 16) (l.gr f.srca) (l.gr f.srcb)))
    ∧ (∀ c a b, (fp32.unpack (BitVec.toNat a)).isNan || (fp32.unpack (BitVec.toNat b)).isNan →
        fpCmp c a b = (c == 1 || 7 ≤ c))
    ∧ RunsLanes (.plop tile f) s tile (encReg 0x33 f) tc (fun _ l => l.setPr f.dst
        (let a := l.pr f.srca
         let b := l.pr f.srcb
         ([a && b, a || b, xor a b, a && !b] : List Bool).getD (f.mod % 4) false))

/-- Reading register n after writing it gives the value; every other register and every predicate is as before; the same for
predicates pr0 to pr6; predicate 7 reads as 1 whatever was written. -/
def Obligations.LaneRegistersAndPredicates : Prop :=
  ∀ (l : Lane) (n : Nat) (v : Word) (b : Bool),
    (n < l.regs.length → (l.setGr n v).gr n = v) ∧ (∀ m, m ≠ n → (l.setGr n v).gr m = l.gr m) ∧ (∀ p, (l.setGr n v).pr p = l.pr p)
    ∧ (n < 7 → n < l.preds.length → (l.setPr n b).pr n = b) ∧ (∀ m, m ≠ n → (l.setPr n b).pr m = l.pr m)
    ∧ (∀ m, (l.setPr n b).gr m = l.gr m) ∧ l.pr 7 = true ∧ (l.setPr n b).pr 7 = true

/-- Where the word issues, each active lane's destination takes the one rounding of the exact sum, product or product plus addend of the
operands (each operand and the result flushed where MOD[2] says so), the minimum or maximum, the same on two packed FP16 halves, or the
conversion; nothing else changes but the program counters. -/
def Obligations.FloatingPointResults : Prop :=
  ∀ (s : State) (tile : Nat) (f : RegF) (tc : TC),
    let run (op : Nat) (c : Instr) (v : Lane → Nat) : Prop :=
      RunsLanes c s tile (encReg op f) tc fun _ l => l.setGr f.dst (BitVec.ofNat 32 (v l))
    let m := RMode.code (f.mod % 4)
    let fl := bitAt f.mod 2
    let x (k : Fmt) (v : Nat) : FVal := k.operand fl v
    let half (v : Word) (h : Nat) : Nat := v.toNat / 2 ^ (16 * h) % 2 ^ 16
    let both (g : Nat → Nat) : Nat := g 0 + 65536 * g 1
    run 0x40 (.fadd tile f) (fun l =>
      fp32.round m fl false (.add m (x fp32 (l.gr f.srca).toNat) (x fp32 (l.gr f.srcb).toNat)))
    ∧ run 0x41 (.fmul tile f) (fun l =>
      fp32.round m fl false (.mul (x fp32 (l.gr f.srca).toNat) (x fp32 (l.gr f.srcb).toNat)))
    ∧ run 0x42 (.ffma tile f) (fun l =>
      fp32.round m fl false (.add m (.mul (x fp32 (l.gr f.srca).toNat) (x fp32 (l.gr f.srcb).toNat)) (x fp32 (l.gr f.srcc).toNat)))
    ∧ run 0x43 (.fmin tile f) (fun l => fMinMax false f.mod (l.gr f.srca).toNat (l.gr f.srcb).toNat)
    ∧ run 0x44 (.fmax tile f) (fun l => fMinMax true f.mod (l.gr f.srca).toNat (l.gr f.srcb).toNat)
    ∧ run 0x4C (.hadd2 tile f) (fun l => both fun h =>
      fp16.round m fl false (.add m (x fp16 (half (l.gr f.srca) h)) (x fp16 (half (l.gr f.srcb) h))))
    ∧ run 0x4D (.hmul2 tile f) (fun l => both fun h =>
      fp16.round m fl false (.mul (x fp16 (half (l.gr f.srca) h)) (x fp16 (half (l.gr f.srcb) h))))
    ∧ run 0x4E (.hfma2 tile f) (fun l => both fun h =>
      fp16.round m fl false (.add m (.mul (x fp16 (half (l.gr f.srca) h)) (x fp16 (half (l.gr f.srcb) h))) (x fp16 (half (l.gr f.srcc) h))))
    ∧ run 0x4F (.cvt tile f) (fun l => (cvt f.mod (l.gr f.srca)).toNat)

/-- For both values that MOD may have (0, and 4, which flushes): FMIN and FMAX of a number and a NaN, in either order, is the number (flushed
to the zero of its sign where MOD is 4 and it is subnormal); of two NaNs 0x7FC0_0000; FMIN of the two zeros of unlike sign is -0.0 and
FMAX is +0.0, in either order. -/
def Obligations.MinimumAndMaximumOfSpecialValues : Prop :=
  ∀ m, m = 0 ∨ m = 4 →
    (∀ (max : Bool) (a b : Nat), a < 2 ^ 32 → b < 2 ^ 32 → (fp32.unpack a).isNan = false → (fp32.unpack b).isNan = true →
      let n := if m = 4 ∧ a / 2 ^ 23 % 256 = 0 then a / 2 ^ 31 * 2 ^ 31 else a
      fMinMax max m a b = n ∧ fMinMax max m b a = n)
    ∧ (∀ (max : Bool) (a b : Nat), (fp32.unpack a).isNan = true → (fp32.unpack b).isNan = true → fMinMax max m a b = 0x7FC00000)
    ∧ fMinMax false m 0x80000000 0 = 0x80000000 ∧ fMinMax false m 0 0x80000000 = 0x80000000
    ∧ fMinMax true m 0x80000000 0 = 0 ∧ fMinMax true m 0 0x80000000 = 0

/-- Where the word issues, the command completes with some value in each active lane's destination register and no other change but the
program counters; a value that is NaN is 0x7FC0_0000. (The values are free within what the log, entry 10, says; the statement holds for
each.) Rounding a value into FP32 or FP16, in every mode and with and without flushing, gives a NaN code only for a NaN, and then
0x7FC0_0000 or 0x7E00: so every result of FADD, FMUL, FFMA, FMIN, FMAX, HADD2, HMUL2 and HFMA2 that is NaN is the canonical one. -/
def Obligations.UnaryAndCanonicalResults : Prop :=
  (∀ (s : State) (tile : Nat) (f : RegF) (tc : TC),
    let run (op : Nat) (c : Instr) : Prop :=
      Issues s tile (encReg op f) tc → ∃ v : Nat → Word,
        (Completes c s fun t => LaneByLane s t tc fun k l => l.setGr f.dst (v k))
        ∧ ∀ k, (fp32.unpack (v k).toNat).isNan = true → v k = 0x7FC00000
    run 0x45 (.frcp tile f) ∧ run 0x46 (.frsq tile f) ∧ run 0x47 (.fsqrt tile f) ∧ run 0x48 (.fexp2 tile f)
    ∧ run 0x49 (.flog2 tile f) ∧ run 0x4A (.fsin tile f) ∧ run 0x4B (.fcos tile f))
  ∧ (∀ (mode : RMode) (flush : Bool) (v : FVal),
    ((fp32.unpack (fp32.round mode flush false v)).isNan = true → v = .nan ∧ fp32.round mode flush false v = 0x7FC00000)
    ∧ ((fp16.unpack (fp16.round mode flush false v)).isNan = true → v = .nan ∧ fp16.round mode flush false v = 0x7E00))

/-- Where the word issues: SHFL gives SRCA of the lane that SRCB[5:0] names, the lane's own where that one is not active; REDUX the sum, signed
minimum, signed maximum, and, or, or exclusive or of SRCA over the active lanes; SCANX the sum of SRCA over active lanes of lower number;
VOTE any or all of a predicate in a predicate, or its ballot in one register (two for groups of 64); RDSPEC the special register, in a
pair for selectors 0x0C to 0x0E; NOP nothing. Nothing else changes but the program counters. -/
def Obligations.CrossLaneResults : Prop :=
  ∀ (s : State) (tile : Nat) (f : RegF) (p : SpcF) (tc : TC),
    let src (k : Nat) : Word := (tc.lane k).gr f.srca
    let own (k : Nat) : Bool := (tc.lane k).pr f.srca
    let fold (g : Word → Word → Word) : Word :=
      match tc.act.map src with
      | [] => 0
      | a :: r => r.foldl g a
    RunsLanes (.shfl tile f) s tile (encReg 0x60 f) tc (fun _ l => l.setGr f.dst
      (if (l.gr f.srcb).toNat % 64 ∈ tc.act then src ((l.gr f.srcb).toNat % 64) else l.gr f.srca))
    ∧ RunsLanes (.redux tile f) s tile (encReg 0x61 f) tc (fun _ l => l.setGr f.dst
      (([fold (· + ·), fold fun a b => if a.sle b then a else b, fold fun a b => if a.sle b then b else a, fold (· &&& ·),
        fold (· ||| ·), fold (· ^^^ ·)] : List Word).getD (f.mod % 8) (fold (· ^^^ ·))))
    ∧ RunsLanes (.scanx tile f) s tile (encReg 0x62 f) tc (fun k l => l.setGr f.dst
      (((tc.act.filter (· < k)).map src).foldl (· + ·) 0))
    ∧ (f.mod % 4 = 0 → RunsLanes (.vote tile f) s tile (encReg 0x34 f) tc (fun _ l => l.setPr f.dst (tc.act.any own)))
    ∧ (f.mod % 4 = 1 → RunsLanes (.vote tile f) s tile (encReg 0x34 f) tc (fun _ l => l.setPr f.dst (tc.act.all own)))
    ∧ (f.mod % 4 = 2 → RunsLanes (.vote tile f) s tile (encReg 0x34 f) tc (fun _ l =>
        l.setN f.dst (if tc.g.width = 64 then 2 else 1) (ballot tc f.srca)))
    ∧ RunsLanes (.rdspec tile p) s tile (encSpc 0x05 p) tc (fun k l =>
        l.setN p.dst (if 0x0C ≤ p.spec % 256 ∧ p.spec % 256 ≤ 0x0E then 2 else 1) (rdspec s tc k (p.spec % 256)))
    ∧ RunsLanes (.nop tile p) s tile (encSpc 0x01 p) tc (fun _ l => l)

/-- Where the word issues and every active lane's local address is aligned and within its allocation: LDL gives each active lane's
destination the bytes there, sign-extended where the SIGNED bit says so, and changes no memory; STL stores each active lane's source
there, so that (local memories being in their canonical form) a location reads as the highest active lane's bytes, and every byte of every tile's local memory outside the stored ones
reads as before. Otherwise the program counters move, the group waits for the replays at its tile's banks, the lanes that reached a neighbour
wait 6 cycles and the replays there, and each tile's power counter takes the words; nothing else changes. -/
def Obligations.LocalLoadsAndStoresComplete : Prop :=
  ∀ (s : State) (tile : Nat) (f : MemF) (tc : TC) (at_ : Nat → Nat × Nat),
    let n := sizeBytes f.size
    LocalOk s tc f at_ →
    (Issues s tile (encMem 0x70 f) tc → Completes (.ldl tile f) s fun t => ∃ m,
        LaneByLane s m tc (fun k l => l.setN f.dst (sizeRegs f.size) (loadValue f.signed (s.localRead (at_ k).1 (at_ k).2 n)))
        ∧ LocalWaits m t tc false n at_)
    ∧ (Issues s tile (encMem 0x71 f) tc → Completes (.stl tile f) s fun t =>
        (∃ m, StoresLocal s m tc (fun _ l => l) (fun u a => ∃ k ∈ tc.act, inTarget (at_ k) n u a) ∧ LocalWaits m t tc false n at_)
        ∧ ∀ k ∈ tc.act, (∀ j ∈ tc.act, k < j → ∀ a, inTarget (at_ k) n (at_ k).1 a → ¬inTarget (at_ j) n (at_ k).1 a) →
            tc.i.mask.Pairwise (· < ·) → (∀ u, Mem.wf (some 0) (s.tile u).localMem) →
            t.localRead (at_ k).1 (at_ k).2 n = toLe n ((tc.lane k).getN f.dst (sizeRegs f.size)))

/-- Where the word issues and every active lane's address is aligned and within its allocation: ATOML completes with some old value in each
active lane's destination; where no other active lane's element meets a lane's, that value is what memory held, and the element now
holds the operation's result, for CAS of the new value in DST and the compare value in SRCB. Bytes outside the elements read as before; lanes
wait for the replays as in a load, a pass for each lane at a word.
ADD wraps; MIN and MAX order as signed or unsigned words; AND, OR and XOR are bitwise; EXCH takes the operand; CAS takes the new value
where the old one equals the compare value and else keeps it: on 4-byte elements. -/
def Obligations.LocalAtomicsAndTheirOperations : Prop :=
  (∀ (s : State) (tile : Nat) (f : MemF) (tc : TC) (at_ : Nat → Nat × Nat),
    let n := sizeBytes f.size
    let r := sizeRegs f.size
    LocalOk s tc f at_ → Issues s tile (encMem 0x72 f) tc → tc.i.mask.Pairwise (· < ·) → (∀ u, Mem.wf (some 0) (s.tile u).localMem) →
    ∃ old : Nat → Nat, Completes (.atoml tile f) s fun t =>
      (∃ m, StoresLocal s m tc (fun k l => l.setN f.dst r (old k)) (fun u a => ∃ k ∈ tc.act, inTarget (at_ k) n u a)
        ∧ LocalWaits m t tc true n at_)
      ∧ ∀ k ∈ tc.act, (∀ j ∈ tc.act, k ≠ j → ∀ a, inTarget (at_ k) n (at_ k).1 a → ¬inTarget (at_ j) n (at_ k).1 a) →
          let l := tc.lane k
          let m := leNat (s.localRead (at_ k).1 (at_ k).2 n)
          old k = m ∧ t.localRead (at_ k).1 (at_ k).2 n = toLe n
            (if f.subop = 9 then (if m = l.getN f.srcb r then l.getN f.dst r else m) else atomApply f.subop n m (l.getN f.srcb r) 0))
  ∧ (∀ a b c : Word,
    let r (op : Nat) : Word := BitVec.ofNat 32 (atomApply op 4 a.toNat b.toNat c.toNat)
    r 0 = a + b ∧ r 1 = (if a.sle b then a else b) ∧ r 2 = (if a.sle b then b else a) ∧ r 3 = (if a.ule b then a else b)
    ∧ r 4 = (if a.ule b then b else a) ∧ r 5 = a &&& b ∧ r 6 = a ||| b ∧ r 7 = a ^^^ b ∧ r 8 = b ∧ r 9 = (if a = c then b else a))

/-- Where ST or SCATTER issues and its lanes pass their checks (no lane of a SCATTER being on an UNCACHED or REGISTER page), or do so up to a
lane that faults, and the store buffer has room for the lanes that pass: the command completes; the bytes of each of these lanes are what a
load of the tile now takes from the store buffer where no later lane stores over them; buffered bytes that no lane stores to are as before; no
register and no other tile changes; the lanes of the issue go on at the next instruction, or where a lane faulted its record waits and they
stop. With no room the command changes nothing: the instruction waits. A barred SCATTER raises PERMISSION (0x05) for its lowest active lane.
A line of a tile's store buffer, for UNCACHED and REGISTER types with no earlier line of its type (else it stays), leaves the buffer: a
DEVICE line to the device cache, an UNCACHED line to HBM, a REGISTER line as a write over PCIe, any other to the host write buffer where that
has room or a line it combines with (else it stays); a line of the host write buffer leaves as one write over PCIe. Every other tile and
buffer is as before. -/
def Obligations.StoresEnterTheBufferAndDrain : Prop :=
  (∀ (s s' : State) (tile : Nat) (f : MemF) (tc : TC) (good : List (Nat × Nat × Leaf × Nat)) (bad : Option FaultInfo),
    let n := sizeBytes f.size
    let key := s.keySlot tc.b.ctx
    let run (op : Nat) (acc : Access) (c : Instr) : Prop :=
      Issues s tile (encMem op f) tc →
      let fits := (s.tile tile).sb.length
          + linesNeeded (s.tile tile).sb key (good.map fun (_, _, l, pa) => (l.typ, pa / 128)) ≤ sbLines
      (VaChecks s tc f acc s' (some ⟨good, bad⟩) → fits → (∀ b ∈ (s.tile tile).sb, Mem.wf none b.cells) →
        Completes c s fun t =>
          t = { s' with tiles := t.tiles, cm := { s'.cm with faultQ := s'.cm.faultQ ++ bad.toList } }
          ∧ (∀ u, u ≠ tile → t.tile u = s'.tile u)
          ∧ t.tile tile = { s'.tile tile with
              groups := (t.tile tile).groups, sb := (t.tile tile).sb, nc := (t.tile tile).nc, pcieDests := (t.tile tile).pcieDests }
          ∧ (∀ typ pa len, (∀ x ∈ good, x.2.2.1.typ ≠ typ ∨ x.2.2.2 + n ≤ pa ∨ pa + len ≤ x.2.2.2) →
              sbForward (t.tile tile).sb typ key pa len = sbForward (s.tile tile).sb typ key pa len)
          ∧ (∀ pre x post, good = pre ++ x :: post →
              (∀ y ∈ post, y.2.2.1.typ ≠ x.2.2.1.typ ∨ y.2.2.2 + n ≤ x.2.2.2 ∨ x.2.2.2 + n ≤ y.2.2.2) →
              sbForward (t.tile tile).sb x.2.2.1.typ key x.2.2.2 n
                = cellsAt x.2.2.2 (toLe n ((tc.lane x.1).getN f.dst (sizeRegs f.size))))
          ∧ (∀ slot, slot ≠ tc.i.slot → (t.tile tile).group? slot = (s.tile tile).group? slot)
          ∧ ∃ g, (t.tile tile).group? tc.i.slot = some g ∧ ∀ k, (g.lane? k).map (fun l => (l.regs, l.preds, l.wait, l.pc))
              = (tc.g.lane? k).map fun l =>
                  if k ∈ tc.i.mask then (if bad = none then (l.regs, l.preds, l.wait, l.pc + 8) else (l.regs, l.preds, .faulted, l.pc))
                  else (l.regs, l.preds, l.wait, l.pc))
      ∧ (VaChecks s tc f acc s' (some ⟨good, bad⟩) → ¬fits → exec c s = .next s)
      ∧ (VaChecks s tc f acc s' none → Completes c s fun t => ∃ x : FaultInfo, IssueFaults s' t tc x
          ∧ x.code = 0x05 ∧ x.ctx = tc.b.ctx ∧ x.tile = tile ∧ x.lane = tc.act.headD 0 ∧ x.pc = tc.i.pc ∧ x.detail = 3)
    run 0x74 .store (.st tile f) ∧ run 0x77 .scatter (.scatter tile f))
  ∧ (∀ (s : State) (tile i : Nat) (b : SbLine),
    s.clocked = true →
    let out (c : Nat) : PcieMsg := .write (b.key + 1) c b.cells
    let first := (b.cells.head?.map (·.1)).getD 0
    let rest := s.updTile tile fun u => { u with sb := u.sb.eraseIdx i }
    let drain := exec (.storeBufferDrain (some tile) i) s
    let behind := ∃ x ∈ (s.tile tile).sb.take i, x.typ = b.typ
    let combines := ∃ x ∈ s.mem.hwb, x.typ = b.typ ∧ x.key = b.key ∧ x.line = b.line
    ((s.tile tile).sb[i]? = some b →
      (b.typ = 0 → drain = .next { rest with mem := rest.mem.write b.key b.line b.cells })
      ∧ (b.typ = 2 → drain = .next (if behind then s else { rest with mem := rest.mem.writeHbm b.key b.line b.cells }))
      ∧ (b.typ = 3 → drain = .next (if behind then s else rest.post (out first)))
      ∧ (b.typ = 1 ∨ b.typ = 4 → drain
          = .next (if s.mem.hwb.length < 256 ∨ combines then { rest with mem := { rest.mem with hwb := sbPut rest.mem.hwb b } } else s)))
    ∧ (s.mem.hwb[i]? = some b →
      exec (.storeBufferDrain none i) s = .next (({ s with mem := { s.mem with hwb := s.mem.hwb.eraseIdx i } }).post (out first))))

/-- Where LD, GATHER or ATOM issues, at least one lane is active, the accesses pass their checks and no lane of a GATHER is barred: the command
completes with one more outstanding load on the tile, of a number that no other has, for this group and context, with the destination register, the
element size, and for each active lane its VA, type and physical address, and for ATOM its operation and operands; the lanes go on at
the next instruction with their registers as before; other groups and other tiles are as before. With no lane in HOST memory no request leaves
over PCIe; of an LD or GATHER, with tags free for them, one read of each distinct HOST line that the near cache does not hold has left. A GATHER
with a lane on an UNCACHED or REGISTER page raises PERMISSION (0x05) for its lowest active lane. For an
outstanding load of a thread group that no earlier load of its owner meets, whose queued HBM reads wait for no row copy, and that waits with no
fault of its own: LOAD_RETURN, where every lane reads without error and the host bytes are there, for an atomic where every lane has been
performed, removes the load and writes each lane's value to its destination registers, the other lanes of the group being as before; where a
lane's read ends in an error, its record waits and the load is gone. -/
def Obligations.LoadsGoOutAndReturn : Prop :=
  (∀ (s s' : State) (tile : Nat) (f : MemF) (tc : TC) (good : List (Nat × Nat × Leaf × Nat)),
    let key := s.keySlot tc.b.ctx
    let wants := ((good.filter fun x => x.2.2.1.typ == 1 && !(s.tile tile).nc.any (·.holds true key (x.2.2.2 / 128))).map
      (·.2.2.2 / 128)).eraseDups
    let run (op : Nat) (acc : Access) (c : Instr) (atom : Lane → Option AtomOp) : Prop :=
      Issues s tile (encMem op f) tc → VaOk s tc f acc s' good → tc.act ≠ [] →
      Completes c s fun t =>
        (∀ u, u ≠ tile → t.tile u = s.tile u)
        ∧ (∃ r, ((∀ x ∈ (s.tile tile).loads, x.id ≠ r.id) → (t.tile tile).loads = (s.tile tile).loads ++ [r]) ∧ r.id = s'.cm.nextId ∧ r.owner = ⟨tile, tc.i.slot, 0⟩
            ∧ r.ctx = tc.b.ctx ∧ r.bytes = sizeBytes f.size ∧ r.signed = f.signed ∧ r.dst = f.dst ∧ r.fault = none
            ∧ r.lanes.map (fun x => (x.lane, x.va, x.typ, x.pa, x.atom))
                = good.map fun (k, va, l, pa) => (k, va, l.typ, pa, atom (tc.lane k)))
        ∧ t.tile tile = { s.tile tile with
            issued := none, groups := (t.tile tile).groups, loads := (t.tile tile).loads, sb := (t.tile tile).sb }
        ∧ ((∀ x ∈ good, x.2.2.1.typ ≠ 1) → t.hst = s'.hst ∧ (t.tile tile).sb = (s.tile tile).sb)
        ∧ (acc = .load ∨ acc = .gather → s.hst.up = true → wants.length ≤ s.tagsFree →
            ∀ l ∈ wants, .read (key + 1) (l * 128) 128 s'.cm.nextId ∈ t.hst.sent)
        ∧ (∀ slot, slot ≠ tc.i.slot → (t.tile tile).group? slot = (s.tile tile).group? slot)
        ∧ ∃ g, (t.tile tile).group? tc.i.slot = some g ∧ ∀ k, g.lane? k = (tc.g.lane? k).map (laneAfter tc (fun _ l => l) k)
    let r := sizeRegs f.size
    run 0x73 .load (.ld tile f) (fun _ => none)
    ∧ run 0x76 .gather (.gather tile f) (fun _ => none)
    ∧ (Issues s tile (encMem 0x76 f) tc → VaChecks s tc f .gather s' none → Completes (.gather tile f) s fun t =>
        ∃ x : FaultInfo, IssueFaults s' t tc x ∧ x.code = 0x05 ∧ x.ctx = tc.b.ctx ∧ x.tile = tile ∧ x.lane = tc.act.headD 0 ∧ x.detail = 2)
    ∧ run 0x75 (.atomic f.subop) (.atom tile f) (fun l =>
        some (if f.subop = 9 then ⟨9, l.getN f.dst r, l.getN f.srcb r⟩ else ⟨f.subop, l.getN f.srcb r, 0⟩)))
  ∧ (∀ (s s' : State) (id : Nat) (host : Mem) (r : LoadRec) (vs : List (Nat × Nat)) (bad : Option (LaneLoad × Nat × Nat)) (g : Group),
    s.clocked = true → s.load? id = some r → r.owner.slot < 64 →
    (((s.tile r.owner.tile).loads.takeWhile (·.id != id)).any (·.meets r)) = false → s.pcHeld (some id) = false →
    s.hst.up = true → r.fault = none →
    let served := s.pcTake (some id)
    ((r.isAtomic = false ∧ s.hostWants r = [] ∧ s.hostMissing r host = false ∧ served.lanesReturn r host [] r.lanes = (s', vs, bad))
      ∨ (r.isAtomic = true ∧ ∃ a, served.atomRun r host false [] r.lanes = a ∧ (a.rest = [] ∨ a.bad ≠ none) ∧ a.s = s' ∧ a.bad = bad
          ∧ vs = r.vals ++ a.vals)) →
    r.owner.tile < s'.tiles.length → (s'.tile r.owner.tile).group? r.owner.slot = some g →
    Completes (.loadReturn id host) s fun t =>
      (t.tile r.owner.tile).loads = (s'.tile r.owner.tile).loads.filter (·.id ≠ r.id)
      ∧ (bad = none → t.cm = s'.cm ∧ ∃ g', (t.tile r.owner.tile).group? r.owner.slot = some g'
          ∧ ∀ k, g'.lane? k = (g.lane? k).map fun l =>
              match vs.find? (·.1 == k) with
              | some v => l.setN r.dst (if r.bytes ≤ 4 then 1 else r.bytes / 4) v.2
              | none => l)
      ∧ ∀ x code detail, bad = some (x, code, detail) → ∃ i : FaultInfo, t.cm = { s'.cm with faultQ := s'.cm.faultQ ++ [i] }
          ∧ i.code = code ∧ i.detail = detail ∧ i.ctx = r.ctx ∧ i.tile = r.owner.tile ∧ i.lane = x.lane ∧ i.addr = x.va ∧ i.valid = 0x0F)

/-- Where the word issues, FENCE makes each active lane wait in a fence of the scope in SPEC[1:0]. Once the accesses that a waiting fence of a
group or a TCU slot orders have reached the point of its scope, FENCE_RETIRE completes: with PCIe destinations to confirm and the link up it
first sends a zero-length read to each, as far as tags are free for all of them; with none, or once these reads were sent and have completed,
what waits runs again, a DEVICE or SYSTEM fence having invalidated the partition's data near cache lines on the tile and a SYSTEM one forgetting
the destinations that it confirmed; with the link down the fence faults with PERMISSION (0x05) at a destination. Where the word issues, BAR
makes the active lanes wait at the barrier of its scope and ID, a CLUSTER barrier outside a cluster being a BLOCK barrier. When the scope has
a group and every thread of it waits at that barrier or has exited, BARRIER_COMPLETE lets the waiting threads of each group of the scope
run again; no register, predicate or program counter changes. -/
def Obligations.FencesAndBarriers : Prop :=
  (∀ (s : State) (tile slot : Nat) (tcu : Bool) (f : SpcF) (tc : TC) (w : FenceW),
    RunsLanes (.fence tile f) s tile (encSpc 0x78 f) tc (fun _ l =>
      { l with wait := .fence (f.spec % 4) (bitAt f.spec 2) (encSpc 0x78 f) none })
    ∧ (s.clocked = true → s.fence? tile tcu slot = some w → s.live w.ctx = true → s.fenceReady w = true →
        let waiters (s : State) (lane : Lane → Lane) (c : Tcu → Tcu) : State :=
          if tcu then s.updTcu tile slot c else s.updGroup tile slot fun g => g.updLanes w.lanes fun _ l => lane l
        let invalidated := if w.scope < 2 then s
          else s.updTile tile fun t => { t with nc := t.nc.filter (·.part != (s.ctx w.ctx).part) }
        let forgotten := if tcu ∧ w.scope = 3 then
            invalidated.updTile tile fun t => { t with pcieDests := t.pcieDests.filter (·.1 != w.ctx) } else invalidated
        (w.dests = [] ∨ (s.hst.up = true ∧ w.asked ≠ none) →
          exec (.fenceRetire tile tcu slot) s = .next (waiters forgotten
            (fun l => { l with wait := .run, pcieDests := if w.scope = 3 then [] else l.pcieDests }) fun c => { c with state := .run }))
        ∧ (w.dests ≠ [] → s.hst.up = true → w.asked = none → w.dests.length ≤ s.tagsFree →
          Completes (.fenceRetire tile tcu slot) s fun t =>
            t = { s with tiles := t.tiles, hst := t.hst }
            ∧ t.hst = { s.hst with sent := s.hst.sent ++ w.dests.map fun d => .zeroRead ((s.ctx w.ctx).part + 1) d }
            ∧ ∃ x, t.fence? tile tcu slot = some x ∧ x.asked = some s.now ∧ x.scope = w.scope ∧ ∀ d ∈ w.dests, d ∈ x.dests)
        ∧ (w.dests ≠ [] → s.hst.up = false → Completes (.fenceRetire tile tcu slot) s fun t =>
            ∃ i : FaultInfo, t.cm = { s.cm with faultQ := s.cm.faultQ ++ [i] } ∧ i.code = 0x05 ∧ i.ctx = w.ctx ∧ i.tile = tile
              ∧ i.addr = w.dests.headD 0)))
  ∧ (∀ (s : State) (tile bslot scope id : Nat) (f : SpcF) (tc : TC),
    RunsLanes (.bar tile f) s tile (encSpc 0x85 f) tc (fun _ l =>
      { l with wait := .barrier (if f.spec % 4 = 2 ∧ tc.b.cluster = none then 1 else f.spec % 4) (f.spec / 4 % 8) })
    ∧ (s.clocked = true →
        let gs := s.barrierScope tile bslot scope
        gs ≠ [] → (∀ x ∈ gs, ∀ l, some l ∈ x.2.lanes → l.wait = .barrier scope id ∨ l.wait = .exited) →
        (∀ u, ((s.tile u).groups.map (·.slot)).Nodup) →
        Completes (.barrierComplete tile bslot scope id) s fun t =>
          OnlyTiles s t ∧ ∀ u, t.tile u = { s.tile u with groups := (s.tile u).groups.map fun g =>
            if (u, g) ∈ gs then
              { g with lanes := g.lanes.map (Option.map fun l => if l.wait = .barrier scope id then { l with wait := .run } else l) }
            else g }))

/-- Where the word issues: BRA and CALL move each active lane to PC + 8 times the sign-extended displacement, CALL with PC + 8 in its
destination pair; BRX and RET move each active lane to the address in its SRCA pair where every such address is a multiple of 8; the
other lanes of the issue go to the next instruction. Nothing else changes. -/
def Obligations.BranchesAndCallsComplete : Prop :=
  ∀ (s : State) (tile : Nat) (f : BrnF) (tc : TC),
    let run (op : Nat) (c : Instr) (ok : Prop) (target : Nat → Nat) (e : Lane → Lane) : Prop :=
      Issues s tile (encBrn op f) tc → ok → Completes c s fun t => LanesBecome s t tc (laneBranched tc target e)
    let near := (((tc.i.pc : Int) + 8 * f.disp.toInt) % 2 ^ 64).toNat
    let far (k : Nat) : Nat := (tc.lane k).getN f.srca 2
    let aligned := ∀ k ∈ tc.act, far k % 8 = 0
    run 0x80 (.bra tile f) True (fun _ => near) id
    ∧ run 0x82 (.call tile f) True (fun _ => near) (fun l => l.setN f.dst 2 (tc.i.pc + 8))
    ∧ run 0x81 (.brx tile f) aligned far id
    ∧ run 0x83 (.ret tile f) aligned far id

/-- Where BRX or RET issues and some active lane's target is not a multiple of 8, the lowest such lane raises MISALIGNED (code 0x03) with
the branch's PC and the target as ADDR, and the issue stops; where every active lane's target is a multiple of 8, each active lane moves to
the address in its SRCA pair. -/
def Obligations.MisalignedBranchTargetFaults : Prop :=
  ∀ (s : State) (tile : Nat) (f : BrnF) (tc : TC),
    let far (k : Nat) : Nat := (tc.lane k).getN f.srca 2
    let run (op : Nat) (c : Instr) : Prop :=
      Issues s tile (encBrn op f) tc →
        ((∀ k ∈ tc.act, far k % 8 = 0) → Completes c s fun t => LanesBecome s t tc (laneBranched tc far id))
        ∧ ∀ pre k post, tc.act = pre ++ k :: post → (∀ j ∈ pre, far j % 8 = 0) → far k % 8 ≠ 0 →
            Completes c s fun t => ∃ x : FaultInfo, IssueFaults s t tc x
              ∧ x.code = 0x03 ∧ x.ctx = tc.b.ctx ∧ x.tile = tile ∧ x.lane = k ∧ x.pc = tc.i.pc ∧ x.addr = far k
    run 0x81 (.brx tile f) ∧ run 0x83 (.ret tile f)

/-- A word of any thread instruction that has issued with a reserved field set, or naming a register the kernel has not declared, raises
RESERVED_FIELD (0x02), whatever the lanes' predicates are; and a word of an opcode that R215 does not assign raises ILLEGAL_OPCODE (0x01)
when it is chosen to issue. Either record has LANE 0xFF, the group slot, UNIT 0 and VALID bits 1 (INSN) and 3 (PC), and the lanes of the
issue stop. -/
def Obligations.ReservedFieldsFaultWhateverTheGuard : Prop :=
  ∀ (s : State) (tile w : Nat) (tc : TC) (c : Instr),
    let record (x : FaultInfo) (code : Nat) : Prop :=
      x.code = code ∧ x.ctx = tc.b.ctx ∧ x.tile = tile ∧ x.unit = 0 ∧ x.lane = 0xFF ∧ x.group = tc.i.slot ∧ x.pc = tc.i.pc ∧ x.insn = w
        ∧ x.valid = 0x0A
    let issued : Prop :=
      tc.tile = tile ∧ s.clocked = true ∧ (s.tile tile).issued = some tc.i ∧ tc.i.word = w
        ∧ (s.tile tile).group? tc.i.slot = some tc.g ∧ (s.tile tile).block? tc.g.bslot = some tc.b
        ∧ tc.act = guardedLanes tc.g tc.i.mask w ∧ s.live tc.b.ctx = true ∧ reservedBad w tc.b.hdr.regs tc.g.width = true
    (issued → c.threadWord? = some (tile, w) → Completes c s fun t => ∃ x, IssueFaults s t tc x ∧ record x 0x02)
    ∧ (∀ r : Ready, opDefined (bits r.w 56 8) = false → w = r.w → tc.i = { slot := r.g.slot, pc := r.c.pc, mask := r.c.mask, word := w } →
        tile < s.tiles.length → (s.tile tile).block? r.g.bslot = some tc.b →
        ∃ x, (s.issue tile r).cm.faultQ = s.cm.faultQ ++ [x] ∧ record x 0x01
          ∧ ∀ g k l, ((s.issue tile r).tile tile).group? r.g.slot = some g → g.lane? k = some l → k ∈ r.c.mask → l.wait = .faulted)

/-- Where EXIT issues while the block has another group with a live thread: the active threads have ended, or, where their group has
hit-ring rays outstanding, wait at the EXIT; nothing else changes. A thread that waits so, in a group with no such ray outstanding, has
ended after EXIT_RELEASE. Where the threads that end are the last of their block, the block of a TCU slot is marked exited and its groups
and registers are free. -/
def Obligations.ThreadsExit : Prop :=
  ∀ (s : State) (tile slot lane : Nat) (f : BrnF) (tc : TC) (g : Group) (l : Lane),
    let others (b x : Nat) : Prop := ∃ g ∈ (s.tile tile).groups, g.slot ≠ x ∧ g.bslot = b ∧ g.done = false
    (Issues s tile (encBrn 0x84 f) tc → others tc.b.bslot tc.i.slot → tc.b.exited = false →
      Completes (.exit tile f) s fun t => LanesBecome s t tc fun k l =>
        if k ∈ tc.act then { l with wait := if tc.g.ringRays = 0 then .exited else .hits }
        else if k ∈ tc.i.mask then { l with pc := l.pc + 8 } else l)
    ∧ (Issues s tile (encBrn 0x84 f) tc → tc.g.ringRays = 0 → tc.b.tcu ≠ none → ((s.tile tile).groups.map (·.slot)).Nodup →
        (∀ g ∈ (s.tile tile).groups, g.bslot = tc.b.bslot → g = tc.g) → (∀ k l, tc.g.lane? k = some l → k ∈ tc.act ∨ l.wait = .exited) →
        Completes (.exit tile f) s fun t =>
          (t.tile tile).block? tc.b.bslot = some { tc.b with exited := true, regUnits := 0 }
          ∧ (t.tile tile).groups = (s.tile tile).groups.filter (·.bslot ≠ tc.b.bslot))
    ∧ (s.clocked = true → (s.tile tile).group? slot = some g → g.ringRays = 0 → g.lane? lane = some l → l.wait = .hits →
        others g.bslot slot → (∀ b, (s.tile tile).block? g.bslot = some b → b.exited = false) →
        Completes (.exitRelease tile slot lane) s fun t => OnlyTile s t tile
          ∧ ∃ g', (t.tile tile).group? slot = some g' ∧ g'.lane? lane = some { l with wait := .exited }
            ∧ ∀ k, k ≠ lane → g'.lane? k = g.lane? k)

/-- Where the word issues: EVSIG without CLUSTER adds the number of active lanes to the counter of the own block, and EVPOLL gives each
active lane the counter; EVWAIT makes each active lane wait with its target and timeout. EVWAIT_RESUME lets a waiting lane whose counter
minus target is at least 0 as a signed word go on with status 0, EVWAIT_TIMEOUT one whose timeout has passed with status 0 or 1 by the
same test. The status goes to the lane's destination register and nothing else changes, but that the context's quiet window ends and the
power manager's pacing records of fabric event lines (IDs 48 and above) may change. Where PHASE issues with an active lane, one mark with the partition of the block's context,
the phase in SPEC[2:0], the tag in SPEC[26:3] and the time joins the power manager's marks; with no active lane none does. The lanes go
on; nothing else changes. -/
def Obligations.EventsAndPhaseMarks : Prop :=
  (∀ (s : State) (tile : Nat) (f : SpcF) (tc : TC),
    (Issues s tile (encSpc 0x90 f) tc → bitAt f.spec 8 = false → Completes (.evsig tile f) s fun t =>
      ∃ m, LaneByLane s m tc (fun _ l => l) ∧ t = m.updBlock tile tc.b.bslot fun b =>
        { b with events := b.events.modify (f.spec % 32) (· + BitVec.ofNat 32 tc.act.length) })
    ∧ RunsLanes (.evpoll tile f) s tile (encSpc 0x92 f) tc (fun _ l => l.setGr f.dst (s.eventCounter tc.b (f.spec / 2 ^ 16 % 256)))
    ∧ (Issues s tile (encSpc 0x91 f) tc → Completes (.evwait tile f) s fun t =>
        let id := f.spec / 2 ^ 16 % 256
        let us := f.spec % 2 ^ 16
        let until_ := if us = 0 then none else some (s.now + us * 1000)
        ∃ m, LaneByLane s m tc (fun _ l => { l with wait := .evwait id (l.gr f.srca) until_ f.dst })
          ∧ t = { m with pwr := t.pwr } ∧ (id < 48 → t.pwr = s.pwr))
    ∧ ∀ (slot lane id dst now : Nat) (g : Group) (b : Block) (l : Lane) (target : Word) (until_ : Option Nat),
        s.clocked = true → (s.tile tile).group? slot = some g → (s.tile tile).block? g.bslot = some b → s.live b.ctx = true →
        g.lane? lane = some l → l.wait = .evwait id target until_ dst →
        let there := 0 ≤ (s.eventCounter b id - target).toInt
        let goes (s' : State) (c : Instr) (status : Word) : Prop :=
          Completes c s fun t =>
            t = { (s'.updGroup tile slot fun g => g.updLane lane fun l => { l with wait := .run }.setGr dst status).updCtx b.ctx
                    fun c => { c with quietSince := none } with pwr := t.pwr }
            ∧ (id < 48 → t.pwr = s.pwr)
        (there → goes s (.evwaitResume tile slot lane) 0)
        ∧ (∀ t, until_ = some t → t ≤ max s.now now → goes (s.at now) (.evwaitTimeout now tile slot lane) (if there then 0 else 1)))
  ∧ (∀ (s : State) (tile : Nat) (f : SpcF) (tc : TC), Issues s tile (encSpc 0xA2 f) tc →
    let mark : PhaseMark :=
      { part := (s.ctx tc.b.ctx).part, phase := f.spec % 8, tag := f.spec / 8 % 2 ^ 24, time := s.now, tile := tile }
    let marks : List PhaseMark := if tc.act = [] then [] else [mark]
    Completes (.phase tile f) s fun t => ∃ m, LaneByLane s m tc (fun _ l => l)
      ∧ t = { m with pwr := { m.pwr with marks := m.pwr.marks ++ marks } })

/-- Where TRACE issues with an active lane, the descriptor within the allocation, no rule of it broken, and for ring return a valid ring:
one more TRACE is held at the sorter of the tile's quadrant, with a ray for each active lane whose origin, direction and limits are the
lane's eight registers and whose cookie is SRCB; the group counts the rays under the descriptor's event (or as dispatched), the active
lanes wait until admission, and nothing outside the tile's group and the sorters changes. TRACEQ gives each active lane the count. -/
def Obligations.TraceRaysReachTheSorter : Prop :=
  ∀ (s : State) (tile : Nat) (f : SpcF) (tc : TC),
    let a := tc.b.base + f.spec / 2 ^ 15 % 2 ^ 13 * 64
    let raw := s.localRead tile a 64
    let d := parseTrace raw
    let q := quadrant tile
    let n := tc.act.length
    RunsLanes (.traceq tile f) s tile (encSpc 0xA1 f) tc (fun _ l =>
        l.setGr f.dst (BitVec.ofNat 32 ((tc.g.rays.map (·.2)).foldl (· + ·) 0 + tc.g.dispRays)))
    ∧ (Issues s tile (encSpc 0xA0 f) tc → tc.act ≠ [] → f.spec / 2 ^ 15 % 2 ^ 13 * 64 + 64 ≤ tc.b.size →
        traceBad raw tc.b.tcu.isNone = false → (d.ret = 0 → s.ringSize tile tc.b d.ring ≠ none) → q < s.srt.units.length →
        Completes (.trace tile f) s fun t =>
          t = { s with tiles := t.tiles, srt := t.srt } ∧ (∀ u, u ≠ tile → t.tile u = s.tile u)
          ∧ t.tile tile = { s.tile tile with issued := none, groups := (t.tile tile).groups }
          ∧ (∃ rays : List Ray, rays.length = n ∧ (t.unit q).held = (s.unit q).held ++ [⟨rays, tc.act, tc.b.tcu.isNone, s.now⟩]
              ∧ ∀ i k, tc.act[i]? = some k → ∃ r, rays[i]? = some r ∧ r.id = s.srt.nextRay + i ∧ r.ctx = tc.b.ctx ∧ r.d = d
                ∧ r.cookie = ((tc.lane k).gr f.srcb).toNat
                ∧ r.org ++ [r.tmin] ++ r.dir ++ [r.tmax] = (List.range 8).map fun j => ((tc.lane k).gr (f.srca + j)).toNat)
          ∧ ∃ g, (t.tile tile).group? tc.i.slot = some g
              ∧ g.dispRays = tc.g.dispRays + (if d.ret = 0 then 0 else n) ∧ (d.ret ≠ 0 → g.rays = tc.g.rays)
              ∧ (g.rays.map (·.2)).foldl (· + ·) 0 = (tc.g.rays.map (·.2)).foldl (· + ·) 0
                  + (if d.ret = 0 then n * max 1 (tc.g.rays.filter (·.1 == d.event)).length else 0)
              ∧ ∀ k, g.lane? k = (tc.g.lane? k).map (laneAfter tc (fun _ l => { l with wait := .traceHeld }) k))

/-- TRACE_ADMISSION of the one held TRACE of a unit, of a live context, that fits admits it: its rays pass admission and none is held any
more. BIN_TIMEOUT flushes a bin whose age has reached its partition's timeout: the bin is free, its rays are the last packet of the flush
queue. PACKET_SEND of a unit's one packet, with no ray expired, sends all its rays to the Armature for which it is bound, or of its live image's
homes to the one with the fewest occupied slots, where that has room.
BIN_TIMEOUT_ADJUST adjusts each enabled partition, and an adjusted timeout is a multiple of 10 ns within 200 to 2000 ns and MIN_TO to
MAX_TO, where those leave a range. -/
def Obligations.SortersAdmitBinAndSendRays : Prop :=
  ∀ (s : State) (now u : Nat), s.clocked = true → u < s.srt.units.length →
    let s' := s.at now
    (∀ h r, (s.unit u).held = [h] → (∀ x ∈ h.rays, s.live x.ctx = true) → s'.admitFrom u h false = some r →
      Completes (.traceAdmission now u) s fun t => t = s'.admitHeld u h r ∧ (t.unit u).held = [])
    ∧ (∀ bin b, (s.unit u).bins.find? (·.num == bin) = some b → (s.binTo u (s.ctx b.bid.ctx).part).t ≤ s'.now - b.since →
        Completes (.binTimeout now u bin) s fun t =>
          (t.unit u).bins = (s.unit u).bins.filter (·.num ≠ b.num) ∧ (t.unit u).flush = (s.unit u).flush ++ [{ bid := b.bid, rays := b.rays }]
          ∧ (t.unit u).slots = (s.unit u).slots ∧ t = { s' with srt := t.srt })
    ∧ (∀ p arm, (s.unit u).flush = [p] → s.live p.bid.ctx = true → p.rays ≠ [] → s.homeUsed arm + p.rays.length ≤ 1024 →
        (p.bid.home = some arm ∨ (p.bid.home = none ∧ p.alone = false ∧ ∃ i, s.imageFor p.bid.ctx p.bid.tree = some i ∧ arm ∈ i.homes
          ∧ ∀ x ∈ i.homes, s.homeUsed arm < s.homeUsed x ∨ (s.homeUsed arm = s.homeUsed x ∧ arm ≤ x))) → (∀ r ∈ p.rays, s'.rayExpired r = false) →
        Completes (.packetSend now u) s fun t =>
          (t.unit u).flush = [] ∧ t.arm = { s.arm with rayFlight := s.arm.rayFlight ++ [{ arm := arm, rays := p.rays }] }
          ∧ t = { s' with srt := t.srt, arm := t.arm })
    ∧ exec (.binTimeoutAdjust now u) s
        = .next (s'.each ((List.range 32).filter fun p => (s.part p).enabled) fun p s => s.adjustTo u p)
    ∧ ∀ p, p < (s.unit u).tos.length →
        let lo := max 200 ((s.srtPart p).minTo * 10)
        let hi := min 2000 ((s.srtPart p).maxTo * 10)
        lo ≤ hi → let t := ((s.adjustTo u p).binTo u p).t
          lo ≤ t ∧ t ≤ hi ∧ t % 10 = 0

/-- HIT_ARRIVAL of a hit of a live context takes it from the way and joins it to the bin of its identity: a bin that is not filled by it
grows by it, one that is filled flushes. HIT_BIN_TIMEOUT flushes a bin whose age has reached the timeout. HIT_RING_WRITE writes the next
packet in order that waits behind no full ring, HIT_RING_RETRY the one packet that found its ring full, counting a ring that still is; where the
ring of the block that the packet names has room for all of it, every record is written, in order of admission, to the ring's next places, TAIL grows by their number modulo 2^32, and the packet is done. -/
def Obligations.HitsAreBinnedAndDelivered : Prop :=
  ∀ (s : State) (u : Nat), s.clocked = true → u < s.srt.units.length →
    (∀ n h b, s.arm.hits[n]? = some h → s.live h.ray.ctx = true → h.ray.unit = u →
      ((s.unit u).hitBins.find? fun b => b.ctx == h.ray.ctx && b.material == h.cand.material && b.dest == h.ray.dest) = some b →
      Completes (.hitArrival n) s fun t =>
        t.arm = { s.arm with hits := s.arm.hits.eraseIdx n } ∧ t = { s with arm := t.arm, srt := t.srt }
        ∧ (b.hits.length + 1 < s.hitFull b.dest → (t.unit u).hitq = (s.unit u).hitq
            ∧ (t.unit u).hitBins = (s.unit u).hitBins.map fun y => if y.num = b.num then { b with hits := b.hits ++ [h] } else y)
        ∧ (s.hitFull b.dest ≤ b.hits.length + 1 → (t.unit u).hitBins = (s.unit u).hitBins.filter (·.num ≠ b.num)
            ∧ (t.unit u).hitq = (s.unit u).hitq ++ [{ ctx := b.ctx, dest := b.dest, hits := b.hits ++ [h] }]))
    ∧ (∀ now bin b, (s.unit u).hitBins.find? (·.num == bin) = some b →
        (s.binTo u (s.ctx b.ctx).part).t ≤ max s.now now - b.since →
        Completes (.hitBinTimeout now u bin) s fun t =>
          (t.unit u).hitBins = (s.unit u).hitBins.filter (·.num ≠ bin)
          ∧ (t.unit u).hitq = (s.unit u).hitq ++ [{ ctx := b.ctx, dest := b.dest, hits := b.hits }]
          ∧ t = { s.at now with srt := t.srt })
    ∧ (∀ p, s.nextHit u = some p → p.isRing = true → exec (.hitRingWrite u) s = .next (s.ringWrite u p))
    ∧ (∀ p, s.fullRings u = [p] → exec (.hitRingRetry u) s = .next (let t := s.ringWrite u p
        if (t.unit u).hitq.contains p then t.srtCount u 11 1 else t))
    ∧ ∀ (p : HitPacket) (tile bslot launch ring : Nat) (b : Block), p.dest = .ring tile bslot launch ring →
        ((s.tile tile).blocks.find? fun b => b.bslot == bslot && b.launch == launch && b.ctx == p.ctx) = some b →
        Mem.wf (some 0) (s.tile tile).localMem →
        let a := b.base + ring
        let word (s : State) (o : Nat) : Nat := leNat (s.localRead tile (a + o) 4)
        let size := 2 ^ leNat (s.localRead tile (a + 8) 1)
        let free := size - (word s 4 + 2 ^ 32 - word s 0) % 2 ^ 32
        p.hits.length ≤ free → p.hits ≠ [] →
        let t := s.ringWrite u p
        (t.unit u).hitq = (s.unit u).hitq.erase p ∧ word t 4 = (word s 4 + p.hits.length) % 2 ^ 32
        ∧ ∀ i h, (hitsByAdmission p.hits)[i]? = some h →
            t.localRead tile (a + 32 + 32 * ((word s 4 + i) % size)) 32 = h.bytes

/-- DISPATCH_BLOCK of the next packet for a dispatch, whose kernel header reads and meets the rules, on a tile of the quadrant in the
context's mask where its block of one group fits: the packet leaves the unit and the block is placed on the first such tile after the one
last used for the launch; where it fits on none, it waits in the launch queue of the first of these tiles; a header that breaks the rules raises
TRACE_DESCRIPTOR (0x0B) with the header's VA. OVERLOAD_SAMPLE of a partition none of whose rays is held ends its overload; one whose samples have been
overloaded for 10 ms and that has not been reported sets its OVERLOAD flag, counts it and logs event 0x0050. -/
def Obligations.DispatchAndOverloadOfRays : Prop :=
  ∀ (s s1 : State) (u now p : Nat) (k : HitPacket) (launch va tile : Nat) (host : Mem) (raw : List Byte),
    s.clocked = true →
    (s.nextHit u = some k → k.dest = .dispatch launch va →
      s.readVa (.armature (48 + u)) k.ctx host .load k.deadline 2 va 32 = (s1, .ok raw) →
      let gone (s : State) : State := s.updUnit u fun x => { x with hitq := x.hitq.erase k }
      (dispatchBad raw (s.launchWidth launch) = true → Completes (.dispatchBlock u host) s fun t =>
        ∃ i : FaultInfo, t = (gone s1).raise i ∧ i.code = 0x0B ∧ i.ctx = k.ctx ∧ i.unit = 5 ∧ i.unitId = u ∧ i.addr = va)
      ∧ (dispatchBad raw (s.launchWidth launch) = false →
      let w : WaitBlock :=
        { launch := launch, ctx := k.ctx, tcu := none, hdr := parseKHdr raw, start := true, since := s1.now, arrival := s1.cm.nextId
          blockId := 0xFFFFFFFF
          disp := some { unit := u, deadline := k.deadline, hits := (hitsByAdmission k.hits).map fun h => (h.ray.id, h.bytes) } }
      let s2 := s1.fresh.2
      let tiles := s2.dispatchTiles u k.ctx (((s2.unit u).last.find? (·.1 == launch)).map (·.2))
      let used := (gone s2).updUnit u fun x => { x with last := (launch, tile) :: x.last.filter (·.1 != launch) }
      (tiles.find? (fun t => (s2.placeable t w).isSome) = some tile →
        exec (.dispatchBlock u host) s = .next (used.placeOne tile w none))
      ∧ (tiles.head? = some tile → (∀ t ∈ tiles, s2.placeable t w = none) →
        exec (.dispatchBlock u host) s = .next (used.updTile tile fun x => { x with waiting := x.waiting ++ [w] }))))
    ∧ (p < s.srt.parts.length →
        let isOver := s.srt.units.any fun u => u.held.any fun h => h.rays.any fun r => (s.ctx r.ctx).part == p
        (isOver = false → Completes (.overloadSample now p) s fun t =>
          (t.srtPart p).since = none ∧ (t.srtPart p).raised = false ∧ (t.srtPart p).count = (s.srtPart p).count)
        ∧ (isOver = true → ∀ t0, (s.srtPart p).since = some t0 → 10000000 ≤ max s.now now - t0 → (s.srtPart p).raised = false →
            Completes (.overloadSample now p) s fun t =>
              (t.srtPart p).overload = true ∧ (t.srtPart p).raised = true ∧ (t.srtPart p).count = (s.srtPart p).count + 1
              ∧ t.log = s.log.add 64 (max s.now now) 0x0050 5 1 [BitVec.ofNat 8 p]))

/-- On a stream bound to the block, with an active lane: SACQ gives the active lanes the OFFSET of the next slot where one can be
acquired and no group waits, and the stream has one more slot acquired; 0xFFFF_FFFF at the end of the stream; and else makes them wait, the
group last in the stream's order. SACQ_WAKE gives the slot to the lanes of the oldest wait once it can be acquired. SREL of the oldest slot
that the group acquired, where that is the stream's next one to be consumed, moves the stream's consumed count past it. Of the state only
tiles and streams change. -/
def Obligations.SlotsAreAcquiredAndReleased : Prop :=
  ∀ (s : State) (tile slot : Nat) (f : SpcF) (tc : TC) (x : Stream),
    let num := f.spec % 4096
    let became (t : State) (tile slot : Nat) (g0 : Group) (acq : List (Nat × Nat)) (after : Nat → Lane → Lane) : Prop :=
      t = { s with tiles := t.tiles, str := t.str }
      ∧ ∃ g, (t.tile tile).group? slot = some g ∧ g = { g0 with lanes := g.lanes, acquired := acq }
          ∧ ∀ k, g.lane? k = (g0.lane? k).map (after k)
    (Issues s tile (encSpc 0xB0 f) tc → tc.act ≠ [] → s.boundStream tile tc.b num = some x →
      let isOver := x.ended && x.acquired == x.produced
      (isOver = true → Completes (.sacq tile f) s fun t => LaneByLane s t tc fun _ l => l.setGr f.dst 0xFFFFFFFF)
      ∧ (isOver = false → x.canAcquire = true → x.waiters = [] → Completes (.sacq tile f) s fun t =>
          became t tile tc.i.slot tc.g (tc.g.acquired ++ [(x.id, x.acquired)])
            (laneAfter tc fun _ l => l.setGr f.dst (x.slotOffset tc.b x.acquired))
          ∧ ∃ y, t.stream? num = some y ∧ y.acquired = x.acquired + 1)
      ∧ (isOver = false → (x.canAcquire = false ∨ x.waiters ≠ []) → Completes (.sacq tile f) s fun t =>
          became t tile tc.i.slot tc.g tc.g.acquired (laneAfter tc fun _ l => { l with wait := .sacq num f.dst })
          ∧ ∃ y, t.stream? num = some y ∧ y.waiters = x.waiters ++ [(tc.i.slot, tc.act)]))
    ∧ (∀ h, Issues s tile (encSpc 0xB1 f) tc → tc.act ≠ [] → s.boundStream tile tc.b num = some x →
        tc.g.acquired.find? (·.1 == x.id) = some h → Completes (.srel tile f) s fun t =>
          became t tile tc.i.slot tc.g (tc.g.acquired.erase h) (laneAfter tc fun _ l => l)
          ∧ (x.inbound = true → h.2 = x.consumed → ∃ y, t.stream? num = some y ∧ x.consumed < y.consumed))
    ∧ ∀ (g : Group) (b : Block) (ls : List Nat) (more : List (Nat × List Nat)),
        s.clocked = true → (s.tile tile).group? slot = some g → (s.tile tile).block? g.bslot = some b → s.live b.ctx = true →
        g.sacqNums = [num] → s.boundStream tile b num = some x → x.waiters = (slot, ls) :: more → x.ended = false →
        x.canAcquire = true → Completes (.sacqWake tile slot) s fun t =>
          became t tile slot g (g.acquired ++ [(x.id, x.acquired)]) (fun k l =>
            match l.wait with
            | .sacq n dst => if n = num ∧ k ∈ ls then { l.setGr dst (x.slotOffset b x.acquired) with wait := .run } else l
            | _ => l)
          ∧ ∃ y, t.stream? num = some y ∧ y.acquired = x.acquired + 1 ∧ y.waiters = more

/-- A scan at which no stream is stuck changes only the time. Breaking a cycle counts one escape where its oldest member without a token
finds a free token at its port, and else raises STREAM_DEADLOCK (0x09) for the context of its youngest member. A write of STR_CTX_RANGE by
the PF for a FREE context, of a range within 0 to 4095 that overlaps no other context's, sets it as one apply; any other write sets the
refused flag and no range. -/
def Obligations.WaitCyclesAndStreamRanges : Prop :=
  ∀ (s : State) (now c : Nat) (v : DWord), s.clocked = true →
    ((∀ n, (s.at now).stuck n = false) → exec (.waitCycleScan now) s = .next (s.at now))
    ∧ (∀ (cyc : List Stream) (e y : Stream), e ∈ cyc → y ∈ cyc → (∀ z ∈ cyc, z ≠ y → z.id < y.id) →
        let free := s.freeTokens e.tile ≠ 0
        (e.token = false → (∀ z ∈ cyc, z.token = false → z ≠ e → e.id < z.id) → free →
          (s.escape cyc).str.escapes = s.str.escapes + 1 ∧ (s.escape cyc).str.deadlocks = s.str.deadlocks
            ∧ (s.escape cyc).cm = s.cm)
        ∧ ((∀ z ∈ cyc, z.token = true) ∨ (e.token = false ∧ (∀ z ∈ cyc, z.token = false → z ≠ e → e.id < z.id) ∧ ¬free) →
          (s.escape cyc).str.deadlocks = s.str.deadlocks + 1
            ∧ ∃ x : FaultInfo, (s.escape cyc).cm.faultQ = s.cm.faultQ ++ [x] ∧ x.code = 0x09 ∧ x.ctx = y.ctx ∧ x.unit = 3 ∧ x.unitId = y.num))
    ∧ (c < 64 → s.str.ranges.length = 64 →
        let base := v.toNat % 4096
        let count := v.toNat / 4096 % 8192
        let clash := ∃ o r, o ≠ c ∧ s.str.ranges[o]? = some r ∧ count ≠ 0 ∧ r.2 ≠ 0 ∧ base < r.1 + r.2 ∧ r.1 < base + count
        ((s.ctx c).state = .free → base + count ≤ 4096 → ¬clash → Completes (.strCtxRangeWrite 0 c v) s fun t =>
          t.str = { s.str with ranges := s.str.ranges.set c (base, count) } ∧ t.cm.applyGen = (s.cm.applyGen + 1) % 2 ^ 32)
        ∧ (((s.ctx c).state ≠ .free ∨ 4096 < base + count ∨ clash) → Completes (.strCtxRangeWrite 0 c v) s fun t =>
          t.str = { s.str with refused := true } ∧ t.cm = s.cm))

/-- Where CHOP issues with an active lane and a descriptor that meets every check, one operation with that descriptor is last in the tile's
queue and its STATUS byte reads 0xFF; with no active lane nothing is read. A descriptor or a range outside the allocation raises LOCAL_BOUNDS
(0x0A) at its OFFSET, a field that breaks a rule or a stream whose slots are no multiple of 2,048 bytes RESERVED_FIELD (0x02), and a stream not
open for the context on the tile PERMISSION (0x05), with VALID 0x0B, and nothing is queued. CHWAIT makes the active lanes wait while an
operation of their group has not completed, and CHWAIT_RETURN lets them run when none has not, and else changes nothing. CHISEL_OP_START of
a free engine takes the eligible operation that no eligible one ranks before, unless a batch that may start ranks before it, and its fill begins.
CHISEL_OP_COMPLETE of a drained operation whose slices are all forwarded, and RELAY_TIMEOUT of one that has waited 100 us for a slice or for the
acceptance of one, take it from the queue with STATUS 0 and 1. -/
def Obligations.ChiselOperationsQueueAndEnd : Prop :=
  ∀ (s : State) (tile : Nat) (f : SpcF) (tc : TC),
    let off := f.spec / 2 ^ 15 % 2 ^ 13 * 64
    let raw := s.localRead tile (tc.b.base + off) 64
    let d := parseChop raw
    let status (t : State) (o : ChiselOp) : List Byte := t.localRead tile (o.desc + 56) 1
    (Issues s tile (encSpc 0xB8 f) tc →
      let inside := off + 64 ≤ tc.b.size
      let stream := s.openOn tile tc.b.ctx d.stream
      let fails (code addr : Nat) : Prop := Completes (.chop tile f) s fun t => ∃ x : FaultInfo, IssueFaults s t tc x
        ∧ x.code = code ∧ x.addr = addr ∧ x.ctx = tc.b.ctx ∧ x.tile = tile ∧ x.group = tc.i.slot ∧ x.pc = tc.i.pc ∧ x.valid = 0x0B
      (tc.act = [] → Completes (.chop tile f) s fun t => LaneByLane s t tc fun _ l => l)
      ∧ (tc.act ≠ [] → inside → chopBad raw (tile % 12) = false → d.outside tc.b.size = none →
          (d.bsrc = 1 → ∃ x, stream = some x ∧ x.slotBytes % 2048 = 0) → Mem.wf (some 0) (s.tile tile).localMem →
          Completes (.chop tile f) s fun t => ∃ o : ChiselOp,
            (t.tile tile).chs = { (s.tile tile).chs with ops := (s.tile tile).chs.ops ++ [o] }
            ∧ o.d = d ∧ o.stage = .queued ∧ o.ctx = tc.b.ctx ∧ o.group = tc.i.slot ∧ o.desc = tc.b.base + off ∧ status t o = [0xFF]
            ∧ t = { s with tiles := t.tiles, cm := { s.cm with nextId := s.cm.nextId + 1 } } ∧ (∀ u, u ≠ tile → t.tile u = s.tile u)
            ∧ (∀ u a, (u ≠ tile ∨ a ≠ o.desc + 56) → t.localRead u a 1 = s.localRead u a 1)
            ∧ ∃ g, (t.tile tile).group? tc.i.slot = some g ∧ ∀ k, g.lane? k = (tc.g.lane? k).map (laneAfter tc (fun _ l => l) k))
      ∧ (tc.act ≠ [] → ¬inside → fails 0x0A off)
      ∧ (tc.act ≠ [] → inside → chopBad raw (tile % 12) = true → fails 0x02 off)
      ∧ (tc.act ≠ [] → inside → chopBad raw (tile % 12) = false → ∀ o, d.outside tc.b.size = some o → fails 0x0A o)
      ∧ (tc.act ≠ [] → inside → chopBad raw (tile % 12) = false → d.outside tc.b.size = none → d.bsrc = 1 →
          (stream = none → fails 0x05 off) ∧ ∀ x, stream = some x → x.slotBytes % 2048 ≠ 0 → fails 0x02 off))
    ∧ RunsLanes (.chwait tile f) s tile (encSpc 0xB9 f) tc (fun _ l =>
        if (s.tile tile).groupOps tc.g = [] then l else { l with wait := .chwait })
    ∧ ∀ (now slot : Nat) (g : Group) (o : ChiselOp), s.clocked = true → tile < s.tiles.length →
        ((s.tile tile).group? slot = some g → exec (.chwaitReturn tile slot) s
          = .next (if (s.tile tile).groupOps g = [] then s.updGroup tile slot fun g =>
              { g with lanes := g.lanes.map (Option.map fun l => if l.wait = .chwait then { l with wait := .run } else l) } else s))
        ∧ (let c := (s.tile tile).chs
           c.run = none → (∀ x ∈ c.ops, x.running = false) → s.nextOp tile = some o →
           (o ∈ c.ops ∧ o.stage = .queued ∧ s.live o.ctx = true ∧ s.sliceReady tile o = true
             ∧ ∀ x ∈ c.ops, x.stage = .queued → s.live x.ctx = true → s.sliceReady tile x = true →
                 c.ops.find? (fun y => y.stage == .queued && y.group == x.group && y.gid == x.gid) = some x → x.rank.lt o.rank = false)
           ∧ ((∃ b, s.nextBatch tile = some b ∧ s.batchReady tile b = true ∧ b.rank.lt o.rank = true) →
               exec (.chiselOpStart tile) s = .next s)
           ∧ ((∀ b, s.nextBatch tile = some b → s.batchReady tile b = true → b.rank.lt o.rank = false) →
               Completes (.chiselOpStart tile) s fun t =>
                 t = { s with tiles := t.tiles, str := t.str } ∧ (∀ u, u ≠ tile → t.tile u = s.tile u)
                 ∧ (∃ y ∈ (t.tile tile).chs.ops, y.id = o.id ∧ y.d = o.d ∧ y.acc = List.replicate (o.d.m * o.d.n) 0
                     ∧ y.stage = if o.d.bsrc < 2 then .sourceFill 16
                         else .accFill (24 + if o.d.accum then (4 * o.d.m * o.d.n + 255) / 256 else 0))
                 ∧ (o.d.bsrc = 0 → t = s.updOp tile o.id fun o =>
                     { o with stage := if o.d.bsrc ≥ 2 then .accFill o.d.accCycles else .sourceFill 16
                              acc := List.replicate (o.d.m * o.d.n) 0 })))
        ∧ ((s.tile tile).chs.ops.find? (·.id == o.id) = some o → s.live o.ctx = true → Mem.wf (some 0) (s.tile tile).localMem →
            (o.stage = .drained → (o.d.fwd = 0 ∨ o.d.slices ≤ o.accepted) → Completes (.chiselOpComplete tile o.id) s fun t =>
              OnlyTile s t tile ∧ (t.tile tile).chs.ops = (s.tile tile).chs.ops.filter (·.id ≠ o.id) ∧ status t o = [0]
              ∧ ∀ a, a ≠ o.desc + 56 → t.localRead tile a 1 = s.localRead tile a 1)
            ∧ ((2 ≤ o.d.bsrc ∧ o.received < o.d.slices) ∨ (o.d.fwd ≠ 0 ∧ o.accepted < o.d.slices) →
              o.progress + 100000 ≤ max s.now now → Completes (.relayTimeout now tile o.id) s fun t =>
                (t.tile tile).chs.ops = (s.tile tile).chs.ops.filter (·.id ≠ o.id) ∧ status t o = [1]
                ∧ ∀ a, a ≠ o.desc + 56 → t.localRead tile a 1 = s.localRead tile a 1))

/-- RELAY_SLICE_ARRIVAL moves the oldest slice bound for this tile from the upstream neighbour's output buffers to this tile's input
buffers, for the operation that it matches, where fewer than 4 are in use. NEURAL_BATCH_ARRIVAL queues a batch of a live context at its tile
where fewer than 16 wait, and else refuses it. NEURAL_WEIGHT_CACHE_FILL keeps the block of the first batch that misses it, where it reads
and meets its checks, and else raises the fault that the checks or the read give and discards the batch. NEURAL_BATCH_START puts the batch of
earliest deadline, whose block is in the weight cache, on the engine where it is free and no operation that may start ranks before the batch,
or at a slice boundary of an operation of later deadline, and NEURAL_BATCH_COMPLETE sends the outputs of a batch that has run all its phases
back to its Armature. -/
def Obligations.RelaySlicesAndNeuralBatches : Prop :=
  ∀ (s : State) (tile : Nat), s.clocked = true → tile < s.tiles.length →
    let c := (s.tile tile).chs
    (∀ plus u b up o, upstream tile plus = some u → (s.tile u).chs.outBuf.find? (·.plus == plus) = some b →
      (s.tile u).chs.ops.find? (·.id == b.op) = some up → (s.tile tile).relayMatch up plus = some o → s.live o.ctx = true →
      (c.inBuf.filter (·.plus == plus)).length < 4 → Completes (.relaySliceArrival tile plus) s fun t =>
        (t.tile tile).chs.inBuf = c.inBuf ++ [{ b with op := o.id }] ∧ (t.tile u).chs.outBuf = (s.tile u).chs.outBuf.erase b
        ∧ OnlyTiles s t)
    ∧ (∀ n x, s.bus.flight[n]? = some x → x.tile = tile → s.live x.batch.ctx = true → Completes (.neuralBatchArrival n) s fun t =>
        t.bus.flight = s.bus.flight.eraseIdx n
        ∧ (c.batches.length < 16 →
            (t.tile tile).chs = { c with batches := c.batches ++ [{ x.batch with arr := s.now }] } ∧ t.bus.refused = s.bus.refused)
        ∧ (16 ≤ c.batches.length → t.tiles = s.tiles ∧ t.bus.refused = s.bus.refused ++ [x.batch]))
    ∧ (∀ b s1 r, c.batches.find? (fun b => s.live b.ctx && !s.batchReady tile b) = some b →
        (s.chsCount tile 9).readDevice (.tile tile) b.ctx b.va 64 b.deadline = (s1, r) →
        let fails (s : State) (code : Nat) : Prop := Completes (.neuralWeightCacheFill tile) s fun t => ∃ i : FaultInfo,
          t = (s1.raise i).updChs tile (fun c => { c with batches := c.batches.erase b }) ∧ i.code = code ∧ i.ctx = b.ctx ∧ i.addr = b.va
            ∧ i.unit = 2 ∧ i.unitId = b.armature
        (∀ e, r = .error e → fails s e.code)
        ∧ (∀ h code, r = .ok h → netCheck h = some code → fails s code)
        ∧ ∀ h s2 w, r = .ok h → netCheck h = none → s1.readDevice (.tile tile) b.ctx b.va (field h 12 4) b.deadline = (s2, .ok w) →
            exec (.neuralWeightCacheFill tile) s
              = .next (s2.updChs tile fun c => { c with nwc := nwcPut c.nwc ⟨(s2.ctx b.ctx).part, b.va, w⟩ }))
    ∧ (∀ b w, c.run = none → s.nextBatch tile = some b → s.live b.ctx = true →
        (c.ops.find? ChiselOp.running = none ∧ (∀ o, s.nextOp tile = some o → o.rank.lt b.rank = false)
          ∨ ∃ o, c.ops.find? ChiselOp.running = some o ∧ (o.stage = .compute ∧ o.mac = 0 ∨ o.stage = .drained)
              ∧ dlLt b.deadline o.deadline = true) →
        (c.nwc.find? fun w => w.part == (s.ctx b.ctx).part && w.va == b.va) = some w → Completes (.neuralBatchStart tile) s fun t =>
          OnlyTile s t tile ∧ (t.tile tile).chs.batches = c.batches.erase b
          ∧ (t.tile tile).chs.run = some { batch := b, block := w.data, phases := netPhases w.data b.points.length }
          ∧ (t.tile tile).chs.ops = c.ops.map fun o => if o.stage = .compute then { o with stage := .resume 4 } else o)
    ∧ (∀ r, c.run = some r → r.phases = [] → s.live r.batch.ctx = true → Completes (.neuralBatchComplete tile) s fun t =>
        (t.tile tile).chs.run = none ∧ t.bus.replies = s.bus.replies ++
          [{ armature := r.batch.armature, req := r.batch.req, ctx := r.batch.ctx, outs := r.batch.points.map (netEval r.block) }])

/-- Where the slot's next instruction is the word: ADD, SUB, AND, OR, XOR, SHL, SHR, SAR, MUL, SLT and SLTU give the destination register
their result on SA and SB, and ADDI, ANDI, ORI, XORI, SHLI, SHRI, SARI and LUI theirs on SA and the immediate (sign-extended for ADDI,
zero extended for the logic ones); the slot goes on at the next instruction, one more instruction is counted, and nothing else changes.
Where the slot's next instruction is the word: a conditional branch whose compare is false goes on at the next instruction; one whose
compare is true, JAL and JR go to their target (the branch's offset plus 4 times the signed displacement, for JR the offset in SA), JAL
with the next offset in register 15, where the target is a multiple of 4 inside the code; a target that is not a multiple of 4 raises
MISALIGNED (0x03), another one outside the code PERMISSION (0x05) with DETAIL 4, and the slot halts. -/
def Obligations.TcuArithmeticBranchesAndJumps : Prop :=
  (∀ (s : State) (tile slot : Nat) (f : TaF) (i : TiF),
    let c := (s.tile tile).tcu slot
    let run (w : Nat) (x : Instr) (dst : Nat) (v : Word) : Prop :=
      TcuIssues s tile slot w → Completes x s fun t => SlotOnly s t tile slot ({ c with pc := c.pc + 4 }.setReg dst v)
    let a := c.reg f.sa
    let b := c.reg f.sb
    let r (op : Nat) (x : Instr) (v : Word) : Prop := run (encTa op f) x f.dst v
    let q (op : Nat) (x : Instr) (v : Word) : Prop := run (encTi op i) x i.dst v
    let e := c.reg i.sa
    i.imm < 2 ^ 16 →
    r 0x01 (.tcuAdd tile slot f) (a + b) ∧ r 0x02 (.tcuSub tile slot f) (a - b) ∧ r 0x03 (.tcuAnd tile slot f) (a &&& b)
    ∧ r 0x04 (.tcuOr tile slot f) (a ||| b) ∧ r 0x05 (.tcuXor tile slot f) (a ^^^ b)
    ∧ r 0x06 (.tcuShl tile slot f) (BitVec.ofNat 32 (a.toNat * 2 ^ (b.toNat % 32)))
    ∧ r 0x07 (.tcuShr tile slot f) (BitVec.ofNat 32 (a.toNat / 2 ^ (b.toNat % 32)))
    ∧ r 0x08 (.tcuSar tile slot f) (BitVec.ofInt 32 (a.toInt / 2 ^ (b.toNat % 32)))
    ∧ r 0x09 (.tcuMul tile slot f) (BitVec.ofNat 32 (a.toNat * b.toNat))
    ∧ r 0x0A (.tcuSlt tile slot f) (if a.slt b then 1 else 0) ∧ r 0x0B (.tcuSltu tile slot f) (if a.ult b then 1 else 0)
    ∧ q 0x10 (.tcuAddi tile slot i) (e + (BitVec.ofNat 16 i.imm).signExtend 32)
    ∧ q 0x11 (.tcuAndi tile slot i) (e &&& BitVec.ofNat 32 i.imm) ∧ q 0x12 (.tcuOri tile slot i) (e ||| BitVec.ofNat 32 i.imm)
    ∧ q 0x13 (.tcuXori tile slot i) (e ^^^ BitVec.ofNat 32 i.imm)
    ∧ q 0x14 (.tcuLui tile slot i) (BitVec.ofNat 32 (i.imm * 2 ^ 16))
    ∧ q 0x15 (.tcuShli tile slot i) (BitVec.ofNat 32 (e.toNat * 2 ^ (i.imm % 32)))
    ∧ q 0x16 (.tcuShri tile slot i) (BitVec.ofNat 32 (e.toNat / 2 ^ (i.imm % 32)))
    ∧ q 0x17 (.tcuSari tile slot i) (BitVec.ofInt 32 (e.toInt / 2 ^ (i.imm % 32))))
  ∧ (∀ (s : State) (tile slot : Nat) (f : TbF) (j : TjF) (g : TaF),
    let c := (s.tile tile).tcu slot
    let jump (w : Nat) (x : Instr) (target : Int) (e : Tcu → Tcu) : Prop :=
      TcuIssues s tile slot w →
        (target % 4 = 0 → 64 ≤ target → target < (c.image.codeBytes : Int) →
          Completes x s fun t => SlotOnly s t tile slot { e c with pc := target.toNat })
        ∧ ∀ code detail, (target % 4 ≠ 0 ∧ code = 0x03 ∧ detail = 0)
              ∨ (target % 4 = 0 ∧ (target < 64 ∨ (c.image.codeBytes : Int) ≤ target) ∧ code = 0x05 ∧ detail = 4) →
            Completes x s fun t => ((t.tile tile).tcu slot).state = .halted
              ∧ ∃ r : FaultInfo, t.cm = { s.cm with faultQ := s.cm.faultQ ++ [r] } ∧ r.code = code ∧ r.detail = detail ∧ r.ctx = c.ctx
                ∧ r.tile = tile ∧ r.unit = 1 ∧ r.pc = c.pc ∧ r.insn = w ∧ r.valid = 0x0A
    let branch (op : Nat) (x : Instr) (p : Word → Word → Bool) : Prop :=
      (p (c.reg f.sa) (c.reg f.sb) = true → jump (encTb op f) x ((c.pc : Int) + 4 * (BitVec.ofNat 16 f.disp).toInt) id)
      ∧ (p (c.reg f.sa) (c.reg f.sb) = false → TcuIssues s tile slot (encTb op f) →
          Completes x s fun t => SlotOnly s t tile slot { c with pc := c.pc + 4 })
    f.disp < 2 ^ 16 → j.disp < 2 ^ 26 →
    branch 0x20 (.tcuBeq tile slot f) (fun a b => a == b) ∧ branch 0x21 (.tcuBne tile slot f) (fun a b => a != b)
    ∧ branch 0x22 (.tcuBlt tile slot f) (fun a b => a.slt b) ∧ branch 0x23 (.tcuBge tile slot f) (fun a b => b.sle a)
    ∧ branch 0x24 (.tcuBltu tile slot f) (fun a b => a.ult b) ∧ branch 0x25 (.tcuBgeu tile slot f) (fun a b => b.ule a)
    ∧ jump (encTj 0x26 j) (.tcuJal tile slot j) ((c.pc : Int) + 4 * (BitVec.ofNat 26 j.disp).toInt)
        (fun x => x.setReg 15 (BitVec.ofNat 32 (c.pc + 4)))
    ∧ jump (encTa 0x27 g) (.tcuJr tile slot g) ((c.reg g.sa).toNat : Int) id)

/-- Where the slot's next instruction is the word: LDW of an aligned local address within its reach gives the destination the word there;
STW stores the register there and changes no other byte of local memory (either counts one word in the tile's power counters); an address that is
not a multiple of 4 raises MISALIGNED (0x03), one out of reach LOCAL_BOUNDS (0x0A), and the slot halts. LDV of an aligned VA that translates
leaves one load outstanding for the slot, which waits for it; STV of one stores into the tile's store buffer where that has room, and else changes
nothing. FENCE makes the slot wait in a fence of its scope. Apart from that the slot goes on at the next instruction. -/
def Obligations.TcuMemoryAccesses : Prop :=
  ∀ (s s' : State) (tile slot : Nat) (f : TiF) (k : TsF) (l : Leaf) (pa : Nat),
    let c := (s.tile tile).tcu slot
    let a := tcuLocal c f
    let n := { c with pc := c.pc + 4 }
    let va := tcuVa c f
    let reach := a % 4 = 0 ∧ s.tcuReach tile slot a = true
    let counted := s.tcuCounted tile slot
    let fails (w : Nat) (x : Instr) : Prop := ∀ code, (a % 4 ≠ 0 ∧ code = 0x03) ∨ (a % 4 = 0 ∧ s.tcuReach tile slot a = false ∧ code = 0x0A) →
      TcuIssues s tile slot w → Completes x s fun t => ((t.tile tile).tcu slot).state = .halted
        ∧ ∃ r : FaultInfo, t.cm = { s.cm with faultQ := s.cm.faultQ ++ [r] } ∧ r.code = code ∧ r.ctx = c.ctx ∧ r.tile = tile ∧ r.unit = 1
            ∧ r.pc = c.pc ∧ r.addr = a ∧ r.insn = w ∧ r.valid = 0x0B
    (TcuIssues s tile slot (encTi 0x18 f) → reach →
      Completes (.tcuLdw tile slot f) s fun t =>
        SlotOnly (s.act tile c.ctx 5 1) t tile slot (n.setReg f.dst (BitVec.ofNat 32 (leNat (s.localRead tile a 4)))))
    ∧ (TcuIssues s tile slot (encTi 0x19 f) → reach → Mem.wf (some 0) (s.tile tile).localMem →
        Completes (.tcuStw tile slot f) s fun t => (∃ m, SlotOnly (s.act tile c.ctx 5 1) m tile slot n
            ∧ t = { m with tiles := t.tiles } ∧ ∀ u, t.tile u = { m.tile u with localMem := (t.tile u).localMem })
          ∧ t.localRead tile a 4 = toLe 4 (c.reg f.dst).toNat
          ∧ (∀ u b, u ≠ tile ∨ b < a ∨ a + 4 ≤ b → t.localRead u b 1 = s.localRead u b 1))
    ∧ fails (encTi 0x18 f) (.tcuLdw tile slot f) ∧ fails (encTi 0x19 f) (.tcuStw tile slot f)
    ∧ (TcuIssues s tile slot (encTi 0x1A f) → va % 4 = 0 → 0 ≤ va → va < 2 ^ 52 →
        counted.resolve (.tile tile) c.ctx va.toNat 4 .load = (s', .ok (l, pa)) →
        Completes (.tcuLdv tile slot f) s fun t => (t.tile tile).tcu slot = { n with state := .waitLoad s'.cm.nextId }
          ∧ ∃ r, ((∀ x ∈ (s.tile tile).loads, x.id ≠ r.id) → (t.tile tile).loads = (s.tile tile).loads ++ [r])
            ∧ r.id = s'.cm.nextId ∧ r.owner = ⟨tile, 64 + slot, 0⟩ ∧ r.ctx = c.ctx
            ∧ r.bytes = 4 ∧ r.dst = f.dst ∧ r.lanes.map (fun x => (x.va, x.typ, x.pa)) = [(va.toNat, l.typ, pa)])
    ∧ (TcuIssues s tile slot (encTi 0x1B f) → va % 4 = 0 → 0 ≤ va → va < 2 ^ 52 →
        counted.resolve (.tile tile) c.ctx va.toNat 4 .store = (s', .ok (l, pa)) →
        let needs := (s.tile tile).sb.length + linesNeeded (s.tile tile).sb (s.keySlot c.ctx) [(l.typ, pa / 128)]
        (64 < needs → exec (.tcuStv tile slot f) s = .next s)
        ∧ (needs ≤ 64 → Completes (.tcuStv tile slot f) s fun t =>
            ((t.tile tile).tcu slot).pc = c.pc + 4 ∧ ((t.tile tile).tcu slot).state = c.state
            ∧ (t.tile tile).sb = sbPut (s.tile tile).sb
              (newLine l.typ (s.keySlot c.ctx) c.ctx c.launch (pa / 128) (cellsAt pa (toLe 4 (c.reg f.dst).toNat)) ⟨tile, 64 + slot, 0⟩)))
    ∧ (TcuIssues s tile slot (encTs 0x3B k) → Completes (.tcuFence tile slot k) s fun t =>
        SlotOnly s t tile slot { n with state := .waitFence (k.sub % 4) (encTs 0x3B k) none })

/-- Where the slot's next instruction is the word, and outside trap mode: SAVE takes the next window where fewer than 8 are occupied, and
else traps with cause 1 for the window after the current one where fewer than 8 frames are spilled; RESTORE and HRET take the window before
where more than one is occupied, HRET with handlers on again at HPC, and else trap with cause 2 and 4 where a frame is spilled. A trap keeps the
offset and the cause, names the window, enters trap mode at the trap entry and is counted. In trap mode: WRD reads and WWR writes a register of the named window, and
TRET leaves trap mode at the offset kept, with one window fewer and one frame more after an overflow, or the reverse. -/
def Obligations.TcuWindowsAndTraps : Prop :=
  ∀ (s : State) (tile slot : Nat) (f : TsF),
    let c := (s.tile tile).tcu slot
    let go (op : Nat) (x : Instr) (e : Tcu) : Prop :=
      TcuIssues s tile slot (encTs op f) → Completes x s fun t => SlotOnly s t tile slot e
    let trap (op : Nat) (x : Instr) (cause wtgt : Nat) : Prop :=
      TcuIssues s tile slot (encTs op f) → Completes x s fun t =>
        (t.tile tile).tcuCnt.traps = (s.tile tile).tcuCnt.traps + 1 ∧ OnlyTile s t tile
        ∧ (t.tile tile).tcu slot = { c with
            trapPc := c.pc, trapCause := cause, wtgt := wtgt, trap := true, pc := c.image.trapEntry, state := .run }
    let isOver := c.trapCause = 1 ∨ c.trapCause = 3
    (c.trap = false →
      (c.wocc < 8 → go 0x28 (.tcuSave tile slot f) { c with pc := c.pc + 4, cwp := (c.cwp + 1) % 8, wocc := c.wocc + 1 })
      ∧ (8 ≤ c.wocc → c.wsp < 8 → trap 0x28 (.tcuSave tile slot f) 1 ((c.cwp + 1) % 8)))
    ∧ (1 < c.wocc →
        go 0x29 (.tcuRestore tile slot f) { c with pc := c.pc + 4, cwp := (c.cwp + 7) % 8, wocc := c.wocc - 1 }
        ∧ go 0x2B (.tcuHret tile slot f)
            { c with pc := c.hpc, hen := true, inHandler := false, cwp := (c.cwp + 7) % 8, wocc := c.wocc - 1 })
    ∧ (c.wocc ≤ 1 → 0 < c.wsp →
        trap 0x29 (.tcuRestore tile slot f) 2 ((c.cwp + 7) % 8) ∧ trap 0x2B (.tcuHret tile slot f) 4 ((c.cwp + 7) % 8))
    ∧ (isOver → go 0x2A (.tcuTret tile slot f) { c with trap := false, pc := c.trapPc, wocc := c.wocc - 1, wsp := c.wsp + 1 })
    ∧ (¬isOver → go 0x2A (.tcuTret tile slot f) { c with trap := false, pc := c.trapPc, wocc := c.wocc + 1, wsp := c.wsp - 1 })
    ∧ go 0x3C (.tcuWrd tile slot f) ({ c with pc := c.pc + 4 }.setReg f.dst ((c.wins.getD c.wtgt []).getD (f.sub % 16) 0))
    ∧ go 0x3D (.tcuWwr tile slot f)
        { c with pc := c.pc + 4, wins := c.wins.modify c.wtgt fun w => w.set (f.sub % 16) (c.reg f.sa) }

/-- SEND takes the 64 bytes of the send buffer as a message for a tile and waits (with status 3 for no such tile). MESSAGE_ARRIVAL, and
MESSAGE_RETRY within 2 us of a refusal, queue it at the slot of its launch on that tile with status 0, give it status 2 where the tile has none, and
refuse it while that queue holds 8. SEND_STATUS gives the sender the status, or 1 once it has been refused for 2 us. RECV and RECVW take the
first message in order, its header in the destination register, RECV answering 0xFFFF_FFFF and RECVW waiting where there is none; RECVW_WAKE
ends that wait. HANDLER_DISPATCH enters the handler of the first message that has one, in a new window. -/
def Obligations.TcuMessagesAreSentAndReceived : Prop :=
  ∀ (s : State) (tile slot now : Nat) (f : TsF) (x : Sending) (m : Msg),
    let c := (s.tile tile).tcu slot
    let n := { c with pc := c.pc + 4 }
    let issues (op : Nat) := TcuIssues s tile slot (encTs op f)
    let new (t : State) : Tcu := (t.tile tile).tcu slot
    let taken := { n with queue := c.queue.erase m, msgTag := m.tag }
    let dest := (c.reg f.sa).toNat
    (issues 0x30 → Completes (.tcuSend tile slot f) s fun t => ∃ y : Sending,
        SlotOnly s t tile slot { n with state := .waitSend, sending := some y } ∧ y.dest = dest ∧ y.dst = f.dst ∧ y.first = none
        ∧ y.status = (if dest < 144 then none else some 3) ∧ y.msg.src = tile ∧ y.msg.typ = f.sub % 16 ∧ y.msg.tag = c.sendTag
        ∧ y.msg.payload = s.localRead tile (slotArea slot + 0x340) 64)
    ∧ (issues 0x31 → c.msgOrder = [] → Completes (.tcuRecv tile slot f) s fun t => SlotOnly s t tile slot (n.setReg f.dst 0xFFFFFFFF))
    ∧ (issues 0x31 → c.msgOrder.head? = some m → Completes (.tcuRecv tile slot f) s fun t =>
        new t = taken.setReg f.dst m.header)
    ∧ (issues 0x32 → c.msgOrder = [] → Completes (.tcuRecvw tile slot f) s fun t => SlotOnly s t tile slot { c with state := .waitRecv f.dst })
    ∧ (issues 0x32 → c.msgOrder.head? = some m → Completes (.tcuRecvw tile slot f) s fun t => new t = taken.setReg f.dst m.header)
    ∧ (s.clocked = true →
        (∀ d, c.state = .waitRecv d → c.msgOrder.head? = some m → s.live c.ctx = true → c.dispatch? = none → slot < (s.tile tile).tcus.length →
          tile < s.tiles.length → Completes (.recvwWake tile slot) s fun t =>
            new t = { taken.setReg d m.header with state := .run })
        ∧ (c.sending = some x → x.status = none → slot < (s.tile tile).tcus.length → tile < s.tiles.length →
            let there (i : Nat) : Prop := (List.range 4).find? (fun i =>
              ((s.tile x.dest).tcu i).state != .free && ((s.tile x.dest).tcu i).launch == c.launch) = some i
            let arrives (k : Instr) : Prop :=
              (∀ i, there i → s.live c.ctx = true → ((s.tile x.dest).tcu i).queue.length < 8 → i < (s.tile x.dest).tcus.length →
                x.dest < s.tiles.length → Completes k s fun t =>
                  ((t.tile x.dest).tcu i).queue = ((s.tile x.dest).tcu i).queue ++ [x.msg]
                  ∧ (new t).sending = some { x with status := some 0 })
              ∧ ((∀ i, i < 4 → ((s.tile x.dest).tcu i).state = .free ∨ ((s.tile x.dest).tcu i).launch ≠ c.launch) →
                  Completes k s fun t => (new t).sending = some { x with status := some 2 })
              ∧ (∀ i, there i → s.live c.ctx = true → 8 ≤ ((s.tile x.dest).tcu i).queue.length → Completes k s fun t =>
                  (new t).sending = some { x with first := some (x.first.getD (max s.now now)) }
                  ∧ ((t.tile x.dest).tcu i).queue = ((s.tile x.dest).tcu i).queue)
            (x.first = none → arrives (.messageArrival now tile slot))
            ∧ (∀ t0, x.first = some t0 → max s.now now ≤ t0 + 2000 → arrives (.messageRetry now tile slot)))
        ∧ (∀ v, c.sending = some x → c.state = .waitSend →
            (x.status = some v ∨ (x.status = none ∧ v = 1 ∧ ∃ t0, x.first = some t0 ∧ t0 + 2000 ≤ max s.now now)) →
            exec (.sendStatus now tile slot) s = .next ((s.at now).updTcu tile slot fun c =>
              { c.setReg x.dst (BitVec.ofNat 32 v) with sending := none, state := .run }))
        ∧ (c.state = .run → s.live c.ctx = true → c.dispatch? = some m → c.wocc < 8 → slot < (s.tile tile).tcus.length →
            tile < s.tiles.length → Completes (.handlerDispatch tile slot) s fun t =>
              (new t).queue = c.queue.erase m ∧ (new t).msgTag = m.tag ∧ (new t).pc = c.handler m.typ ∧ (new t).hpc = c.pc ∧ (new t).hen = false ∧ (new t).inHandler = true
              ∧ (new t).cwp = (c.cwp + 1) % 8 ∧ (new t).wocc = c.wocc + 1))

/-- PLACE presents the next block of the slot's entry to the placer and waits, or answers 0xFFFF_FFFF beyond the entry's count; PLACE_WAKE returns the
placed block's base and slot. STARTB starts an unstarted block of the slot (0, else 1); WAITB returns an exited block not yet reported, waits for one, or
answers 0xFFFF_FFFF; WAITB_WAKE ends that wait. RETIRE answers 1 for a block that has not exited or is not the slot's, and retires an exited one with no open
stream. TEVSIG adds 1 to an event counter of the slot's block (0, else 1). END starts every unstarted block of the slot and waits. RDSR reads a special register,
WRSR writes HEN or SENDTAG. TCU_SLOT_ASSIGN gives the free slot of lowest number to the waiting entry
of earliest deadline, and the near caches of the tile lose the partition's lines (model reading of R135 and R165, log 131). -/
def Obligations.TcuBlocksArePlacedStartedAndReported : Prop :=
  ∀ (s : State) (tile slot : Nat) (f : TsF) (b : Block) (h : KHdr),
    let c := (s.tile tile).tcu slot
    let n := { c with pc := c.pc + 4 }
    let issues (op : Nat) := TcuIssues s tile slot (encTs op f)
    let e := c.entry.getD default
    let ans (v : Nat) : Tcu := n.setReg f.dst (BitVec.ofNat 32 v)
    let own := s.ownBlock tile slot ((c.reg f.sa).toNat % 16)
    let new (t : State) : Tcu := (t.tile tile).tcu slot
    let only (x : Instr) (d : Tcu) : Prop := Completes x s fun t => SlotOnly s t tile slot d
    let rest (t : State) (u : Block → Block) : Prop := OnlyTile s t tile ∧ (t.tile tile).blocks = (s.tile tile).blocks.map u
    (issues 0x33 → e.count ≤ c.placed → only (.tcuPlace tile slot f) (ans 0xFFFFFFFF))
    ∧ (issues 0x33 → c.placed < e.count → c.image.khdrs.getD (f.sub % 4) none = some h → Completes (.tcuPlace tile slot f) s fun t =>
        new t = { n with state := .waitPlace f.dst, placedSlot := none } ∧ (t.tile tile).waiting = (s.tile tile).waiting ++
          [{ launch := c.launch, ctx := c.ctx, tcu := some slot, hdr := h, start := bitAt f.sub 2, since := s.now
             arrival := s.cm.nextId, blockId := e.firstBlock + c.placed }])
    ∧ (issues 0x34 → own = some b → b.started = false → Completes (.tcuStartb tile slot f) s fun t => new t = ans 0
        ∧ rest t fun y => if y.bslot = (c.reg f.sa).toNat % 16 then { y with started := true } else y)
    ∧ (issues 0x34 → (own = none ∨ ∃ b, own = some b ∧ b.started = true) → only (.tcuStartb tile slot f) (ans 1))
    ∧ (issues 0x35 → s.toReport tile slot = some b → Completes (.tcuWaitb tile slot f) s fun t => new t = ans b.bslot
        ∧ rest t fun y => if y.bslot = b.bslot then { y with reported := true } else y)
    ∧ (issues 0x35 → s.toReport tile slot = none → s.unreported tile slot = true →
        only (.tcuWaitb tile slot f) { n with state := .waitBlock f.dst })
    ∧ (issues 0x35 → s.toReport tile slot = none → s.unreported tile slot = false → only (.tcuWaitb tile slot f) (ans 0xFFFFFFFF))
    ∧ (issues 0x36 → (own = none ∨ ∃ b, own = some b ∧ b.exited = false) → only (.tcuRetire tile slot f) (ans 1))
    ∧ (issues 0x36 → own = some b → b.exited = true → s.blockStreams tile ((c.reg f.sa).toNat % 16) = [] →
        exec (.tcuRetire tile slot f) s = .next (((s.tcuCounted tile slot).retireBlock tile ((c.reg f.sa).toNat % 16)).tcuNext tile slot
          fun x => x.setReg f.dst 0))
    ∧ (issues 0x38 → own = some b → Completes (.tcuTevsig tile slot f) s fun t => new t = ans 0
        ∧ rest t fun y => if y.bslot = (c.reg f.sa).toNat % 16 then { y with events := y.events.modify (f.sub % 32) (· + 1) } else y)
    ∧ (issues 0x38 → own = none → only (.tcuTevsig tile slot f) (ans 1))
    ∧ (issues 0x3F → Completes (.tcuEnd tile slot f) s fun t => new t = { n with state := .waitEnd }
        ∧ rest t fun y => if y.tcu = some slot ∧ y.launch = c.launch then { y with started := true } else y)
    ∧ (issues 0x39 → f.sub % 256 ≠ 0x0E → only (.tcuRdsr tile slot f) (ans (tcuSpecial s tile slot c (f.sub % 256))))
    ∧ (issues 0x39 → f.sub % 256 = 0x0E → only (.tcuRdsr tile slot f)
        { ans (s.now % 2 ^ 32) with timeHi := s.now / 2 ^ 32 % 2 ^ 32 })
    ∧ (issues 0x3A → f.sub % 256 = 0x07 → only (.tcuWrsr tile slot f) { n with hen := bitAt (c.reg f.sa).toNat 0 })
    ∧ (issues 0x3A → f.sub % 256 = 0x0D → only (.tcuWrsr tile slot f) { n with sendTag := (c.reg f.sa).toNat % 2 ^ 24 })
    ∧ (s.clocked = true → tile < s.tiles.length → slot < (s.tile tile).tcus.length →
        (∀ dst k, c.state = .waitPlace dst → c.placedSlot = some k → (s.tile tile).block? k = some b → s.live c.ctx = true →
          Completes (.placeWake tile slot) s fun t =>
            new t = { c.setReg dst (BitVec.ofNat 32 (b.base + k)) with state := .run, placedSlot := none })
        ∧ (∀ dst, c.state = .waitBlock dst → s.toReport tile slot = some b → s.live c.ctx = true →
          Completes (.waitbWake tile slot) s fun t => new t = { c.setReg dst (BitVec.ofNat 32 b.bslot) with state := .run }
            ∧ (t.tile tile).blocks = (s.tile tile).blocks.map fun y => if y.bslot = b.bslot then { y with reported := true } else y)
        ∧ ∀ w, (List.range 4).find? (fun i => ((s.tile tile).tcu i).state == .free) = some slot →
          earliest (fun (w : WaitEntry) => ⟨s.launchDl w.launch, w.arrival, w.ctx⟩) ((s.tile tile).waitEntries.filter fun w => s.live w.ctx) = some w →
          Completes (.tcuSlotAssign tile) s fun t =>
            new t = { state := .run, ctx := w.ctx, launch := w.launch, entry := some w.entry, pc := 64, cwp := 0, wocc := 1, wsp := 0
                      hen := false, sendTag := s.launchTag w.launch }
            ∧ (t.tile tile).waitEntries = (s.tile tile).waitEntries.filter (·.arrival ≠ w.arrival)
            ∧ (t.tile tile).ic = (s.tile tile).ic.filter (·.part ≠ (s.ctx w.ctx).part)
            ∧ (t.tile tile).nc = (s.tile tile).nc.filter (·.part ≠ (s.ctx w.ctx).part)
            ∧ ∀ a, slotArea slot ≤ a → a < slotArea slot + 0x400 → t.localRead tile a 1 = [0])

/-- ISSUE_CYCLE of a clocked tile with no instruction waiting to take effect, once droop stretching, the Chisel and the ray engines have had
their cycle: exactly one of the empty, issue and stall counters goes up, the empty one where no group is resident (outside a second cycle),
STALL_DROOP where the cycle is stretched, the first cause that resident groups hold where nothing issues, the waits of the groups then being one
cycle shorter. The second cycle of a width-64 group issues nothing; else, of the ready groups, one issues that none of the others goes before
(deadline, arrival of the launch, context, the launch's own order), its candidate's lanes and word being the tile's next instruction. With an
issued store waiting for room in the store buffer, the cycle counts and the store stays. TILE_CNT_SNAP_TAKE by the PF copies the counters of the
tile to its snapshot and changes nothing else. -/
def Obligations.TileCyclesIssueInOrder : Prop :=
  ∀ (s : State) (tile : Nat), s.clocked = true → tile < 144 →
    (∀ holds : List Nat,
      let was := s.stretchCycle tile
      let s1 := (was.chiselCycle tile).engineCycle tile
      let u := s1.tile tile
      let total (x : TileCnt) : Nat := x.empty + x.issue + x.stall.sum
      tile < s1.tiles.length → u.cnt.stall.length = 11 →
      ((s.tile tile).issued = none →
      Completes (.issueCycle tile holds) s fun t =>
        let v := t.tile tile
        let ready := s1.readyGroups tile holds
        total v.cnt = total u.cnt + 1 ∧ (u.groups = [] → u.second = false → v.cnt.empty = u.cnt.empty + 1)
        ∧ (u.groups ≠ [] → u.stretched = true → v.cnt.stall = u.cnt.stall.modify 0 (· + 1))
        ∧ (u.groups ≠ [] → u.stretched = false → u.second = false → ready = [] →
            v.cnt.stall = u.cnt.stall.modify (s1.stallCause was tile u.groups) (· + 1) ∧ v.issued = u.issued
            ∧ v.groups = u.groups.map Group.waited)
        ∧ (u.second = true → v.second = false ∧ v.issued = u.issued)
        ∧ (u.second = false → ready ≠ [] → ∃ x ∈ ready, (∀ y ∈ ready, y.before x = false) ∧ v.second = (x.g.width == 64)
            ∧ (u.stretched = false → v.cnt.issue = u.cnt.issue + 1)
            ∧ (opDefined (bits x.w 56 8) = true → v.issued = some ⟨x.g.slot, x.c.pc, x.c.mask, x.w⟩)))
      ∧ (∀ i, (s.tile tile).issued = some i → s.storeRefused tile i = true → Completes (.issueCycle tile holds) s fun t =>
          total (t.tile tile).cnt = total u.cnt + 1 ∧ (t.tile tile).issued = some i))
    ∧ ∀ val : DWord, tile < s.tiles.length → s.endpoint 0 = true → bitAt val.toNat 0 = true →
        exec (.tileCntSnapTake 0 tile val) s = .next ((s.fullWrite 0).updTile tile fun x => { x with snap := x.cnt })

/-- DEMAND_FETCH of a running group whose candidate's word is not in the near cache, or of a running TCU slot whose word is not: a fetch that
succeeds leaves the line fetched and counts one demand fetch; one that fails is made once more, and one that fails twice raises its code and stops
the candidate's lanes or halts the slot. With the word there nothing changes. The line that a slot demands is then held, whether or not its
partition has a way (log 127). SPECULATIVE_FETCH of one of the next two lines, or of the line of a branch that these lines and the current one
hold, not in the near cache: where the translation or the fetch fails nothing at all changes, else the line is fetched and one speculative
fetch is counted, no device cache counter moving; of another line, or of one that is there, nothing changes. -/
def Obligations.InstructionLinesAreFetched : Prop :=
  ∀ (s : State) (tile slot : Nat), s.clocked = true → tile < 144 → tile < s.tiles.length →
    let demand (tcu : Bool) (ctx va n : Nat) (buf eff : Option Nat) (fails : State → XErr → State → Prop) : Prop :=
      let c := Instr.demandFetch tile tcu slot
      let fetch (s : State) := s.fetchLine tile ctx va n false buf eff
      (∀ s1, fetch s = (s1, .ok ()) → exec c s = .next s1 ∧ (s1.tile tile).cnt.ifetchDemand = (s.tile tile).cnt.ifetchDemand + 1)
      ∧ (∀ s1 e s2, fetch s = (s1, .error e) → fetch s1 = (s2, .ok ()) → exec c s = .next s2)
      ∧ ∀ s1 e s2 e2, fetch s = (s1, .error e) → fetch s1 = (s2, .error e2) → Completes c s (fails s2 e2)
    let ahead (tcu : Bool) (ctx pc n : Nat) (branch : Nat → Bool) : Prop := ∀ va,
      let c := Instr.speculativeFetch tile tcu slot va
      let wanted := (nextLines pc va = true ∨ branch va = true) ∧ s.icLine tile ctx va = none
      (¬wanted → exec c s = .next s)
      ∧ (wanted → (∀ s1 e, s.resolve (.tile tile) ctx va n .exec = (s1, .error e) → exec c s = .next s)
          ∧ (∀ s1 e, s.fetchLine tile ctx va n true none none = (s1, .error e) → exec c s = .next s)
          ∧ ∀ s1, s.fetchLine tile ctx va n true none none = (s1, .ok ()) →
              exec c s = .next { s1 with mem := { s1.mem with dcHits := s.mem.dcHits, dcMisses := s.mem.dcMisses } }
              ∧ (s1.tile tile).cnt.ifetchSpec = (s.tile tile).cnt.ifetchSpec + 1)
    (∀ g b c, s.running tile slot = some (g, b, c) →
      ((s.candWord tile b c).isSome = true → exec (.demandFetch tile false slot) s = .next s)
      ∧ (s.candWord tile b c = none → demand false b.ctx c.pc 8 none (s.launchDl b.launch) fun s2 e t =>
          (∃ f : FaultInfo, t.cm = { s2.cm with faultQ := s2.cm.faultQ ++ [f] } ∧ f.code = e.code ∧ f.ctx = b.ctx ∧ f.tile = tile
            ∧ f.group = slot ∧ f.pc = c.pc)
          ∧ t = { s2 with cm := t.cm, tiles := t.tiles } ∧ (∀ u, u ≠ tile → t.tile u = s2.tile u)
          ∧ ∀ g' k l, (t.tile tile).group? slot = some g' → g'.lane? k = some l → k ∈ c.mask → l.wait = .faulted)
      ∧ ahead false b.ctx c.pc 8 (s.decodesBranch tile b.ctx c.pc))
    ∧ (let c := (s.tile tile).tcu slot
      let pc := c.image.base + c.pc
      slot < 4 → s.live c.ctx = true →
        (c.state = .run → (s.tcuWord tile slot).isSome = true → exec (.demandFetch tile true slot) s = .next s)
        ∧ (c.state = .run → s.tcuWord tile slot = none →
            (demand true c.ctx pc 4 (some slot) (s.launchDl c.launch) fun s2 e t =>
              ((t.tile tile).tcu slot).state = .halted
              ∧ ∃ f : FaultInfo, t.cm = { s2.cm with faultQ := s2.cm.faultQ ++ [f] } ∧ f.code = e.code ∧ f.ctx = c.ctx ∧ f.tile = tile
                ∧ f.unit = 1 ∧ f.pc = c.pc ∧ f.addr = pc)
            ∧ ∀ s1, s.fetchLine tile c.ctx pc 4 false (some slot) (s.launchDl c.launch) = (s1, .ok ()) →
                ∃ x ∈ (s1.tile tile).ic, ∃ l pa, (s.resolve (.tile tile) c.ctx pc 4 .exec).2 = .ok (l, pa)
                  ∧ x.line = pa / 128 ∧ x.part = (s.ctx c.ctx).part)
        ∧ (c.state ≠ .free → ahead true c.ctx pc 4 (s.slotBranch tile c.ctx pc)))

/-- BLOCK_PLACE: the first block of no cluster in queue order that its tile can take (it fits, its context is live, no drain holds its TCU, no
reservation bars it) leaves the queue and is resident in the lowest free block slot and at the lowest free range of local memory, which reads 0,
with the groups of its header; a cluster that all its tiles can take, and that no earlier block of theirs goes before, is placed whole under
one new number; where the head lacks a resource and nothing fits, the wait counter of the first resource that it lacks goes up and nothing
else changes. LAUNCH_QUEUE_RESERVE: the first block of no cluster in queue order to have waited 100 µs reserves the tile, unless one that
does not come after it has. -/
def Obligations.BlocksArePlacedWhereTheyFit : Prop :=
  ∀ (s : State) (tile : Nat) (w : WaitBlock), s.clocked = true → tile < s.tiles.length →
    let u := s.tile tile
    let width := s.launchWidth w.launch
    (∀ base bslot pre post, w.hdr.cluster = 0 → s.queueOrder tile = pre ++ w :: post → (∀ x ∈ pre, s.placeable tile x = none) →
        s.lacks tile w.hdr width (s.waitOwn w) = none → s.live w.ctx = true → (w.tcu = none ∨ s.held w.ctx = false) →
        u.admits w = true → u.localFit w.hdr.local_ = some base → u.freeBslots.head? = some bslot →
      Completes (.blockPlace tile) s fun t =>
        let v := t.tile tile
        v.waiting = u.waiting.filter (·.arrival != w.arrival)
        ∧ (∃ b : Block, v.blocks = u.blocks ++ [b] ∧ b.bslot = bslot ∧ b.ctx = w.ctx ∧ b.launch = w.launch ∧ b.hdr = w.hdr ∧ b.base = base
            ∧ b.size = w.hdr.local_ ∧ b.blockId = w.blockId ∧ b.tcu = w.tcu)
        ∧ v.groups.length = u.groups.length + (newGroups w.hdr width bslot u.nextOrder (w.hdr.groups width) u.freeSlots).length
        ∧ v.cnt.blocksPlaced = u.cnt.blocksPlaced + 1
        ∧ ∀ a, t.localRead tile a 1 = if base ≤ a ∧ a < base + w.hdr.local_ then [0] else s.localRead tile a 1)
    ∧ (∀ m, s.toPlace tile = some m → (m.map (·.1)).Nodup → (∀ x ∈ m, x.1 < s.tiles.length) →
        (∀ x, m = [x] → x.2.hdr.cluster ≠ 0) → Completes (.blockPlace tile) s fun t => ∀ x ∈ m,
          (t.tile x.1).waiting = (s.tile x.1).waiting.filter (·.arrival != x.2.arrival)
          ∧ ∃ b : Block, (t.tile x.1).blocks = (s.tile x.1).blocks ++ [b] ∧ b.ctx = x.2.ctx ∧ b.launch = x.2.launch ∧ b.hdr = x.2.hdr
              ∧ b.blockId = x.2.blockId ∧ b.cluster = some s.cm.nextId)
    ∧ (∀ r, (s.queueOrder tile).head? = some w → s.lacks tile w.hdr width (s.waitOwn w) = some r →
        let s1 := s.updTile tile fun t => { t with cnt := { t.cnt with placeWait := t.cnt.placeWait.modify r (· + 1) } }
        (∀ x ∈ s.queueOrder tile, s1.placeable tile x = none) → exec (.blockPlace tile) s = .next s1)
    ∧ ∀ now, let s' := s.at now
        ((s'.queueOrder tile).find? fun w => w.since + 100000 ≤ s'.now) = some w → w.hdr.cluster = 0 →
        let holder := u.reserved.bind fun a => u.waiting.find? (·.arrival == a)
        Completes (.launchQueueReserve now tile) s fun t =>
          ((∀ y, holder = some y → s'.beforeWait tile w y = true) → (t.tile tile).reserved = some w.arrival)
          ∧ (∀ y, holder = some y → s'.beforeWait tile w y = false → t = s')
          ∧ t = { s' with tiles := t.tiles } ∧ ∀ x, x ≠ tile → t.tile x = s.tile x

/-- Where a queue starts a command, its head moves past it. NOP records its SEQ; LAUNCH, its checks passed, adds the launch, makes the context
RUNNING and hands each entry to its tile; EPOCH, with nothing staged for the partition,
sets its epoch time and phase and counts its frame; WAIT and COPY begin with a new number that the queue keeps as outstanding; SIGNAL
writes its value, then sends its interrupt; KILL starts the kill of its context with HOST_KILL. WAIT_SATISFIED with its comparison true,
COPY_COMPLETE and LAUNCH_COMPLETE end their command and record its SEQ; a WAIT of no live context of its queue's partition halts its queue with
BAD_CONTEXT, and a COPY whose source or destination fails raises the fault of its context. -/
def Obligations.QueueCommandsRunInOrder : Prop :=
  ∀ (s s1 : State) (q : Nat) (raw : List Byte) (c : Cmd), q < s1.cm.queues.length → c.ctx < s1.cm.ctxs.length →
    let x := s1.queue q
    (CmdStarts s q 0 raw c s1 → Completes (.nopCommand q raw) s fun t =>
      OnlyQueue s1 t q ∧ t.queue q = { x.past with done := c.seq, outstanding := (t.queue q).outstanding })
    ∧ (CmdStarts s q 1 raw c s1 → ∀ host s2 es, s1.checkLaunch c.ctx host c.raw (8 * 2 ^ bits (field c.raw 30 1) 0 2) = (s2, .ok es) →
        (∀ e ∈ es, e.tile < s2.tiles.length) → s2.cm.queues = s1.cm.queues → s2.cm.ctxs = s1.cm.ctxs →
        Completes (.launch q raw host) s fun t =>
          let id := s2.cm.nextId
          (t.queue q).head = x.past.head ∧ (t.queue q).outstanding = x.outstanding ++ [⟨c.seq, id⟩] ∧ (t.ctx c.ctx).state = .running
          ∧ (∃ l : Launch, t.cm.launches = s2.cm.launches ++ [l] ∧ l.id = id ∧ l.ctx = c.ctx ∧ l.queue = q ∧ l.seq = c.seq ∧ l.entries = es
              ∧ l.tag = field c.raw 24 3 ∧ l.start = s2.now ∧ l.completed = false ∧ l.retired = 0)
          ∧ ∀ e ∈ es, ∃ w ∈ (t.tile e.tile).waitEntries, w.launch = id ∧ w.ctx = c.ctx ∧ w.entry = e)
    ∧ (CmdStarts s q 2 raw c s1 → let p := x.part
        p < s1.cm.parts.length → (∀ g ∈ s1.cm.staged, g.part ≠ some p) → Completes (.epochCommand q raw) s fun t =>
          (t.queue q).head = x.past.head ∧ (t.queue q).done = c.seq ∧ t.cm.staged = s1.cm.staged
          ∧ t.part p = { s1.part p with epochT := s1.now, frame := ((s1.part p).frame + 1) % 2 ^ 32, phase := 0 }
          ∧ ∀ r, r ≠ p → t.part r = s1.part r)
    ∧ (CmdStarts s q 3 raw c s1 → ∀ s2 l, s1.resolve .host c.ctx (field c.raw 8 8) 8 .load = (s2, .ok l) → s2.cm = s1.cm →
        Completes (.waitCommand q raw) s fun t =>
          (t.queue q).head = x.past.head ∧ (t.queue q).outstanding = x.outstanding ++ [⟨c.seq, s1.cm.nextId⟩]
          ∧ (t.ctx c.ctx).state = .running ∧ t.cm.waits = s1.cm.waits ++ [{
              id := s1.cm.nextId, ctx := c.ctx, queue := q, seq := c.seq, addr := field c.raw 8 8, value := field c.raw 16 8
              eq := field c.raw 24 1 == 1 }])
    ∧ (CmdStarts s q 4 raw c s1 → ∀ s2, s1.writeVa .host c.ctx .store 3 (field c.raw 8 8) (toLe 8 (field c.raw 16 8)) = (s2, none) →
        let s3 := if bitAt (field c.raw 26 1) 0 then s2.msix (some (s2.ctx c.ctx).part) (bits (field c.raw 24 2) 0 11) else s2
        s3.cm.queues = s1.cm.queues → Completes (.signalCommand q raw) s fun t =>
          OnlyQueue s3 t q ∧ (t.queue q).head = x.past.head ∧ (t.queue q).done = c.seq)
    ∧ (CmdStarts s q 5 raw c s1 → Completes (.copyCommand q raw) s fun t =>
        (t.queue q).head = x.past.head ∧ (t.queue q).outstanding = x.outstanding ++ [⟨c.seq, s1.cm.nextId⟩]
        ∧ (t.ctx c.ctx).state = .running ∧ ∃ k : Copy, t.cm.copies = s1.cm.copies ++ [k] ∧ k.id = s1.cm.nextId ∧ k.ctx = c.ctx ∧ k.queue = q
          ∧ k.seq = c.seq ∧ k.src = field c.raw 8 8 ∧ k.dst = field c.raw 16 8 ∧ k.count = field c.raw 24 8 ∧ k.tag = field c.raw 32 3)
    ∧ (CmdStarts s q 6 raw c s1 → Completes (.killCommand q raw) s fun t =>
        KillStarted t c.ctx 0x0F ∧ (t.queue q).head = x.past.head ∧ (t.queue q).done = c.seq)
    ∧ (s.clocked = true →
        (∀ id host w, s.cm.waits.find? (·.id == id) = some w → w.failed = false →
          ((s.ctx w.ctx).part ≠ (s.queue w.queue).part ∨ s.live w.ctx = false) → w.queue < s.cm.queues.length →
          Completes (.waitSatisfied id host) s fun t => (t.queue w.queue).halted = true ∧ (t.queue w.queue).errCode = 0x03
            ∧ t.cm.waits = s.cm.waits.map fun y => if y.id = id then { y with failed := true } else y)
        ∧ (∀ id host w s2 l, s.cm.waits.find? (·.id == id) = some w → w.failed = false → (s.ctx w.ctx).part = (s.queue w.queue).part →
          s.live w.ctx = true → s.readVa .host w.ctx host .load none 2 w.addr 8 = (s2, .ok l) →
          s2.cm = s.cm → w.queue < s.cm.queues.length →
          if (if w.eq then leNat l = w.value else w.value ≤ leNat l) then
            Completes (.waitSatisfied id host) s fun t => t.cm.waits = s.cm.waits.filter (·.id != id) ∧ (t.queue w.queue).done = w.seq
              ∧ (t.queue w.queue).outstanding = (s.queue w.queue).outstanding.filter (·.id != id)
          else exec (.waitSatisfied id host) s = .next s2)
        ∧ (∀ id host k s2 e a wr, s.cm.copies.find? (·.id == id) = some k → k.failed = false → s.live k.ctx = true →
            s.copyBytes k.ctx host k.deadline (k.count / 64 + 4) k.src k.dst k.count = (s2, some (e, a, wr)) →
            Completes (.copyComplete id host) s fun t => t.cm.copies = s2.cm.copies.filter (·.id != k.id)
              ∧ ∃ i : FaultInfo, t.cm.faultQ = s2.cm.faultQ ++ [i] ∧ i.code = e.code ∧ i.ctx = k.ctx ∧ i.addr = a ∧ i.unit = 7
                ∧ i.unitId = k.queue ∧ i.tag = k.tag)
        ∧ (∀ id host k s2 s3, s.cm.copies.find? (·.id == id) = some k → k.failed = false → s.live k.ctx = true →
            s.copyBytes k.ctx host k.deadline (k.count / 64 + 4) k.src k.dst k.count = (s2, none) →
            let s2' := s2.updCm fun m => { m with copies := m.copies.filter (·.id != k.id) }
            (if k.signal then s2'.writeVa .host k.ctx .store 3 k.doneAddr (toLe 8 k.doneValue) else (s2', none)) = (s3, none) →
            k.queue < s3.cm.queues.length → Completes (.copyComplete id host) s fun t =>
              (t.queue k.queue).done = k.seq ∧ t.cm.copies = s3.cm.copies ∧ ∀ o ∈ (t.queue k.queue).outstanding, o.id ≠ k.id)
        ∧ ∀ id l s3, s.launch? id = some l → l.completed = false → l.failed = false → l.blocks ≤ l.retired → s.live l.ctx = true →
            (s.anyTile fun t => t.sb.any (·.launches.contains id)) = false → (s.mem.hwb.any (·.launches.contains id)) = false → s.dispatching id = false →
            (if l.signal then s.writeVa .host l.ctx .store 3 l.doneAddr (toLe 8 l.doneValue) else (s, none)) = (s3, none) →
            l.queue < s3.cm.queues.length → Completes (.launchComplete id) s fun t =>
              (t.queue l.queue).done = l.seq ∧ (∀ o ∈ (t.queue l.queue).outstanding, o.id ≠ id)
              ∧ ∀ y ∈ t.cm.launches, y.id = id → y.completed = true)

/-- DOORBELL by the PF, or by the VF whose queue it is, at offset 0 of an enabled queue with 2, 4 or 8 bytes: a tail within the ring and not
behind the recorded one is the new tail and nothing else changes; any other halts the queue with BAD_TAIL (a tail equal to the head while commands
wait among them: the model's choice, log 132); another offset or size is counted as a bad access; a VF's write to a queue that is not its own does
nothing; a read answers 0. HST_Q_RESUME and HST_Q_SKIP by the PF end a halt, SKIP moving the head past the failed command, with no WAIT of the queue
left that has failed, and count an apply. WATCHDOG of a launch of a live context past its run limit starts the kill of the context
with code 0x0E. -/
def Obligations.QueueRegistersAndWatchdog : Prop :=
  ∀ (s : State) (q : Nat), q < s.cm.queues.length → q < 128 →
    let x := s.queue q
    (∀ fn offset size, s.phase = .ready → fn ≤ 32 → s.hst.d3.getD fn false = false →
      exec (.doorbell fn q offset size none) s = .next { s with hst := { s.hst with answer := .data 0 } })
    ∧ (∀ fn offset size (val : DWord), s.clocked = true → s.hst.vfFlr.getD fn false = false → s.hst.d3.getD fn false = false →
      (fn ≠ 0 → x.part + 1 ≠ fn → exec (.doorbell fn q offset size val) s = .next s)
      ∧ ((fn = 0 ∨ x.part + 1 = fn) → x.enable = true →
          let tail := val.toNat % 65536
          let ok := tail < x.size ∧ x.waiting ≤ (tail + x.size - x.head) % x.size
          if offset = 0 ∧ size ∈ [2, 4, 8] then
            (ok → Completes (.doorbell fn q offset size val) s fun t => OnlyQueue s t q ∧ t.queue q = { x with tail := tail })
            ∧ (¬ok → Completes (.doorbell fn q offset size val) s fun t =>
                t.queue q = { x with errCode := 0x06, halted := true, errSeen := true }
                ∧ ∀ r, r ≠ q → t.queue r = s.queue r)
          else exec (.doorbell fn q offset size val) s = .next { s with hst := { s.hst with badAccess := s.hst.badAccess + 1 } }))
    ∧ (∀ val : DWord, s.pfWrite 0 = true →
        let v := val.toNat
        let log2 := if 11 ≤ bits v 2 4 then x.log2 else bits v 2 4
        let after (skip : Bool) (y : HostQ) : Prop :=
          y.halted = false ∧ y.enable = bitAt v 0 ∧ y.log2 = log2
            ∧ y.head = (if x.halted && skip && x.errAtHead then (x.head + 1) % 2 ^ (log2 + 6) else x.head)
        let cleared (t : State) : Prop := x.halted = true → ∀ w ∈ t.cm.waits, w.queue = q → w.failed = false
        (bitAt v 22 = true → bitAt v 23 = false → Completes (.hstQResume 0 q val) s fun t =>
            after false (t.queue q) ∧ cleared t ∧ t.cm.applyGen = (s.cm.applyGen + 1) % 2 ^ 32 ∧ ∀ r, r ≠ q → t.queue r = s.queue r)
        ∧ (bitAt v 23 = true → Completes (.hstQSkip 0 q val) s fun t =>
            after true (t.queue q) ∧ cleared t ∧ t.cm.applyGen = (s.cm.applyGen + 1) % 2 ^ 32 ∧ ∀ r, r ≠ q → t.queue r = s.queue r))
    ∧ ∀ now id l, s.clocked = true → s.launch? id = some l → l.runLimit ≠ 0 → l.completed = false →
        l.start + l.runLimit * 1000000 < max s.now now → s.live l.ctx = true → l.ctx < s.cm.ctxs.length →
        Completes (.watchdog now id) s fun t => KillStarted t l.ctx 0x0E

/-- CTX_CTRL_CREATE of a FREE context of an enabled partition makes it READY without record; CTX_CTRL_KILL, CTX_KILL and a fault that arrives
start the kill of a live one, and a fault of a KILLING or DEAD one is counted; KILL_COMPLETE, once no store is left, makes it DEAD, with none
of its blocks, launches or busy TCU slots left; CTX_CTRL_RELEASE makes a DEAD one FREE; in any other state the three writes leave the
context's state, KILL of a READY or RUNNING one aside. EVENT_DEADLOCK kills a context quiet for 100 µs. HOST_EVENT_POST adds 1 to each
line of its mask; TLB_INVALIDATE starts an invalidation, and its completion leaves no translation of the range. -/
def Obligations.ContextsAreMadeKilledAndFreed : Prop :=
  ∀ (s : State) (c : Nat), c < s.cm.ctxs.length → c < 64 →
    let x := s.ctx c
    let others (t : State) : Prop := ∀ d, d ≠ c → t.ctx d = s.ctx d
    (∀ val : DWord, s.pfWrite 0 = true →
      let v := val.toNat
      (bits v 0 3 = 1 →
        (x.state = .free → (s.part x.part).enabled = true → Completes (.ctxCtrlCreate 0 c val) s fun t =>
          (t.ctx c).state = .ready ∧ (t.ctx c).record = none ∧ (t.ctx c).hostLines = List.replicate 16 0 ∧ (t.ctx c).part = x.part ∧ others t)
        ∧ (x.state ≠ .free → Completes (.ctxCtrlCreate 0 c val) s fun t => t.ctx c = { x with refused := true } ∧ others t))
      ∧ (bits v 0 3 = 2 →
        (x.state.live = true → Completes (.ctxCtrlKill 0 c val) s fun t => KillStarted t c 0x0F ∧ others t)
        ∧ (x.state = .free → Completes (.ctxCtrlKill 0 c val) s fun t => t.ctx c = { x with refused := true } ∧ others t)
        ∧ (x.state = .killing ∨ x.state = .dead → Completes (.ctxCtrlKill 0 c val) s fun t => t.cm = s.cm))
      ∧ (bits v 0 3 = 4 →
        (x.state = .dead → Completes (.ctxCtrlRelease 0 c val) s fun t => t.ctx c = { x with state := .free } ∧ others t)
        ∧ (x.state ≠ .dead → Completes (.ctxCtrlRelease 0 c val) s fun t => t.ctx c = { x with refused := true } ∧ others t))
      ∧ (x.tlb.busy = false → bitAt v 63 = true → Completes (.tlbInvalidate 0 c val) s fun t =>
          (t.ctx c).tlb = { x.tlb with busy := true, first := 0, bytes := 2 ^ 52 } ∧ (t.ctx c).state = x.state ∧ others t ∧ t.mem = s.mem)
      ∧ (x.tlb.busy = true → Completes (.tlbInvalidate 0 c val) s fun t =>
          t.ctx c = { x with tlb := { x.tlb with dropped := true } } ∧ others t ∧ t.mem = s.mem))
    ∧ (s.serving = true → s.cmdCheck (0x3100 + c) 1 0 = 0 → x.state.live = true → Completes (.ctxKill c 1) s fun t =>
        KillStarted t c 0x0F ∧ others t)
    ∧ (∀ fn (val : DWord), s.endpoint fn = true → s.powered = true → s.mayCtx fn c = true → Completes (.hostEventPost fn c val) s fun t =>
        others t ∧ t.ctx c = { x with hostLines := (t.ctx c).hostLines }
        ∧ ∀ i, (t.ctx c).hostLines[i]? = x.hostLines[i]?.map fun w => if bitAt (bits val.toNat 0 16) i then w + 1 else w)
    ∧ (s.clocked = true →
        (∀ f, s.cm.faultQ = [f] → f.ctx = c →
          (x.state.live = true → Completes (.faultArrival 1) s fun t =>
            KillStarted t c f.code ∧ t.cm.faultQ = [] ∧ t.cm.ctxKills = s.cm.ctxKills + 1 ∧ t.cm.faultSeq = (s.cm.faultSeq + 1) % 2 ^ 32)
          ∧ (x.state = .killing → f.own = true → ∀ r, x.record = some r → Completes (.faultArrival 1) s fun t =>
              t.ctx c = { x with record := some { r with secondary := min (r.secondary + 1) 255 } } ∧ t.cm.faultQ = [] ∧ others t)
          ∧ (x.state = .dead → f.own = true → exec (.faultArrival 1) s
              = .next { s with cm := { s.cm with faultQ := [], lateArrivals := s.cm.lateArrivals + 1 } }))
        ∧ (x.state = .killing → s.storesLeft c = false → Completes (.killComplete c) s fun t =>
            (t.ctx c).state = .dead ∧ (∀ l ∈ t.cm.launches, l.ctx ≠ c) ∧ (∀ k ∈ t.cm.copies, k.ctx ≠ c)
            ∧ ∀ u ∈ t.tiles, (∀ b ∈ u.blocks, b.ctx ≠ c) ∧ (∀ y ∈ u.tcus, y.ctx = c → y.state = .free) ∧ ∀ w ∈ u.waiting, w.ctx ≠ c)
        ∧ (∀ now, x.state.live = true →
            (∀ t0, (s.at now).quiet c = true → x.quietSince = some t0 → t0 + 100000 ≤ max s.now now →
              Completes (.eventDeadlock now c) s fun t => KillStarted t c 0x08 ∧ t.cm.eventDeadlocks = s.cm.eventDeadlocks + 1)
            ∧ ((s.at now).quiet c = false → Completes (.eventDeadlock now c) s fun t =>
                t.ctx c = { x with quietSince := none } ∧ others t ∧ t.cm.ctxKills = s.cm.ctxKills))
        ∧ (x.tlb.busy = true → s.buffered c = false → (∀ u ∈ s.tiles, (∀ r ∈ u.loads, r.ctx ≠ c) ∧ ∀ l ∈ u.port.lines, l.ctx ≠ c) →
            Completes (.tlbInvalidateComplete c) s fun t =>
              (t.ctx c).tlb = { x.tlb with busy := false } ∧ others t ∧ t.cm.tlbInvalidations = s.cm.tlbInvalidations + 1
              ∧ ∀ e, e ∈ t.mem.tlb ↔ e ∈ s.mem.tlb
                  ∧ (e.ctx ≠ c ∨ rangesMeet e.leaf.va e.leaf.size x.tlb.first x.tlb.bytes = false)))

/-- EPOCH_APPLY_TIMEOUT applies the one staged write that is 1 ms old, as one apply, and not one that is younger. DRAIN_APPLY of a drain of
register writes whose scope has nothing in flight, no later than 1 us after the 5 ms of R95, sets its values, ends the drain and counts an
apply. A later one, and DRAIN_TIMEOUT of one still busy 5 ms after it was taken, end it with DRAIN_TIMEOUT, sets nothing, counts the refusal and logs event 0x0010. RELOAD by the PF that passes its
checks begins a drain of the partition. END_COMPLETE of a slot whose blocks have exited, with no stream open, frees the slot and retires
its blocks. -/
def Obligations.StagedAndDrainedChangesApply : Prop :=
  ∀ (s : State),
    (∀ now g, s.powered = true → s.cm.staged = [g] → g.commit = false →
      (g.time + 1000000 ≤ max s.now now → exec (.epochApplyTimeout now) s
        = .next ((({ s with now := max s.now now, cm := { s.cm with staged := [] } }).setAll g.settings).1.applied))
      ∧ (max s.now now < g.time + 1000000 → exec (.epochApplyTimeout now) s = .next { s with now := max s.now now }))
    ∧ (∀ now d l s1, let s' := s.at now
        s.powered = true → s.cm.drain = some d → d.act = .settings l false → s'.drained d = true → s'.now ≤ d.time + 5001000 →
        s.mayNotDisable l = false → s'.setAll l = (s1, true) → s1.smp.waits = false → exec (.drainApply now) s
          = .next { s1 with cm := { s1.cm with drain := none, applyGen := (s1.cm.applyGen + 1) % 2 ^ 32 } })
    ∧ (∀ now d l, let s' := s.at now
        s.powered = true → s.cm.drain = some d → d.act = .settings l false → s.smp.waits = false → ∀ c,
        ((c = Instr.drainTimeout now ∧ s'.drained d = false ∧ d.time + 5000000 ≤ s'.now)
          ∨ (c = Instr.drainApply now ∧ s'.drained d = true ∧ d.time + 5001000 < s'.now)) → Completes c s fun t =>
          t = { s' with cm := { s.cm with drain := none, drainRefusals := s.cm.drainRefusals + 1, lastAbort := acDrainTimeout }, log := t.log }
          ∧ t.log = s.log.add 64 s'.now 0x0010 6 1 (toLe 4 acDrainTimeout))
    ∧ (∀ p (val : DWord), s.clocked = true → s.endpoint 0 = true → p < 32 → bitAt val.toNat 1 = true →
        let x : Setting := ⟨.resCtrl p, bits val.toNat 0 2⟩
        let s' := s.fullWrite 0
        s'.changeCheck [x] false = 0 → exec (.reload 0 p val) s
          = .next { s' with cm := { s'.cm with
              drain := some { act := .settings [x] false, parts := [p], all := false, time := s.now } } })
    ∧ ∀ tile slot, let c := (s.tile tile).tcu slot
        let own (u : State) (b : Block) : Bool := b.tcu == some slot && b.launch == c.launch && !b.retired
        s.clocked = true → tile < s.tiles.length → slot < (s.tile tile).tcus.length → c.state = .waitEnd → s.live c.ctx = true →
        (∀ b ∈ (s.tile tile).blocks, own s b = true → b.exited = true ∧ s.blockStreams tile b.bslot = []) →
        Completes (.endComplete tile slot) s fun t =>
          (t.tile tile).tcu slot = {} ∧ (∀ x, x ≠ slot → (t.tile tile).tcu x = (s.tile tile).tcu x)
          ∧ ∀ b ∈ (t.tile tile).blocks, own t b = false

/-- REGISTER_WRITE of a size other than 4 and 8, or not aligned, is counted as a bad access and does nothing else; one of 8 bytes discards the
half that the function held and writes the register, as it does for CTX_FAULT_ADDR. LOWER_HALF_WRITE to a register holds the half;
UPPER_HALF_WRITE then writes both halves together. COUNTER_LOW_READ of 4 bytes of an RO register answers its lower half and latches the upper one,
which the next COUNTER_HIGH_READ answers; of 8 bytes it answers the register whole; of another size, or not aligned, it is a bad access and
completes with Completer Abort. BAR4_READ within the map answers the bytes of device memory, and BAR4_WRITE writes them, under the
key slot of the map; outside the map a read, and anywhere an AtomicOp request, is unsupported, and a write is reported through AER. -/
def Obligations.RegisterAccesses : Prop :=
  ∀ (s : State) (fn addr : Nat),
    (s.endpoint fn = true → addr < barBytes fn →
      (∀ size (val : DWord), (size ≠ 4 ∧ size ≠ 8) ∨ addr % size ≠ 0 →
        exec (.registerWrite fn addr size val) s = .next { s with hst := { s.hst with badAccess := s.hst.badAccess + 1 } })
      ∧ (∀ (c : Nat) (val : DWord), fn = 0 → c < 64 → addr = 0x1038 + c * 0x100 → s.powered = true → c < s.cm.ctxs.length →
          Completes (.registerWrite fn addr 8 val) s fun t =>
            t = { s with cm := t.cm, hst := { s.hst with held := s.hst.held.filter (·.fn != fn) } }
            ∧ t.ctx c = { s.ctx c with faultAddr := val.toNat / 64 * 64 } ∧ (∀ d, d ≠ c → t.ctx d = s.ctx d)
            ∧ t.cm.applyGen = (s.cm.applyGen + 1) % 2 ^ 32)
      ∧ (∀ val : Word, addr % 8 = 0 → (s.reg addr).isSome = true → exec (.lowerHalfWrite fn addr val) s
          = .next { s with hst := { s.hst with held := ⟨fn, addr, val.toNat⟩ :: s.hst.held.filter (·.fn != fn) } })
      ∧ (∀ (val : Word) (lo : Nat), addr % 8 = 4 → s.heldHalf fn (addr - 4) = some lo → exec (.upperHalfWrite fn addr val) s
          = .next ((s.fullWrite fn).regWrite fn (addr - 4) (lo + val.toNat * 2 ^ 32)))
      ∧ (∀ v, addr % 8 = 0 → s.regRead fn addr = (.ro, v) → Completes (.counterLowRead fn addr 4) s fun t =>
          t.hst.answer = .data (v % 2 ^ 32) ∧ t = { s with hst := { s.hst with answer := t.hst.answer, latches := t.hst.latches } }
          ∧ t.latched fn addr = some (v / 2 ^ 32))
      ∧ (addr % 8 = 0 → exec (.counterLowRead fn addr 8) s
          = .next { s with hst := { s.hst with answer := .data ((s.regRead fn addr).2 % 2 ^ 64) } })
      ∧ (∀ size, (size ≠ 4 ∧ size ≠ 8) ∨ (size = 8 ∧ addr % 8 ≠ 0) ∨ (size = 4 ∧ addr % 4 ≠ 0) → exec (.counterLowRead fn addr size) s
          = .next { s with hst := { s.hst with badAccess := s.hst.badAccess + 1, answer := .completerAbort } })
      ∧ ∀ v hi, addr % 8 = 4 → s.regRead fn (addr - 4) = (.ro, v) → s.latched fn (addr - 4) = some hi →
          Completes (.counterHighRead fn addr) s fun t =>
            t.hst.answer = .data hi ∧ t = { s with hst := { s.hst with answer := t.hst.answer, latches := t.hst.latches } }
            ∧ t.latched fn (addr - 4) = none)
    ∧ (s.clocked = true → fn ≤ 32 → s.hst.vfFlr.getD fn false = false → s.hst.d3.getD fn false = false →
        (∀ bytes, exec (.bar4Read fn addr bytes true) s = .next { s with hst := { s.hst with answer := .unsupported } })
        ∧ (∀ bytes, s.bar4Map fn addr false = none → exec (.bar4Read fn addr bytes false) s = .next { s with hst := { s.hst with answer := .unsupported } })
        ∧ (∀ bytes key pa m l, s.bar4Map fn addr false = some (key, pa) → s.mem.readMany key (bytes / 128 + 2) pa bytes = (m, l, false) →
            exec (.bar4Read fn addr bytes false) s = .next { s with mem := m, hst := { s.hst with answer := .bytes l } })
        ∧ (∀ data, s.bar4Map fn addr true = none → exec (.bar4Write fn addr data) s = .next (s.post .aer))
        ∧ (∀ data key pa, s.bar4Map fn addr true = some (key, pa) →
            exec (.bar4Write fn addr data) s = .next { s with mem := s.mem.writeMany key (data.length / 128 + 2) pa data })
        ∧ (fn ≠ 0 → ∀ key pa, s.bar4Map fn addr true = some (key, pa) →
            key + 1 = fn ∧ pa / 2 ^ 21 = bits (s.hst.aperture fn (addr / 2 ^ 21)) 21 17 ∧ pa % 2 ^ 21 = addr % 2 ^ 21))

/-- STREAM_OPEN of a descriptor answers the first check that fails and does nothing else, or opens the stream with pointers 0 and answers 0; a
descriptor that is not aligned raises MISALIGNED. STREAM_CLOSE of an open stream of the slot starts its close and the slot waits;
STREAM_CLOSE_COMPLETE of a close with nothing left to drain ends the stream, and the CLOSE answers 0. LINE_REQUEST_ISSUE of a port with room
whose one stream may ask for a line adds that line, of lowest address: of a LOAD it is translated then, and its fault raised, or its read sent to
the host where it lies there; LINE_ARRIVAL of a LOAD line writes its bytes to the ring, or raises the fault of a poisoned line, and
STORE_LINE_DONE writes its line to memory; the line is no longer outstanding. LINK_TRANSFER takes the sender's oldest released slot, with the
sender's effective deadline, where the receiver has room, and LINK_SLOT_DELIVERED puts it into the receiver's ring, which has one more slot produced. -/
def Obligations.StreamsOpenCloseAndMoveLines : Prop :=
  ∀ (s : State) (tile slot num index : Nat) (f : TsF), s.clocked = true → tile < s.tiles.length →
    let c := (s.tile tile).tcu slot
    let n := { c with pc := c.pc + 4 }
    let a := (c.reg f.sa).toNat
    let d := s.localRead tile a 64
    let s0 := s.tcuCounted tile slot
    let reach := a % 64 = 0 ∧ ∀ i, i < 16 → s.tcuReach tile slot (a + 4 * i) = true
    let new (t : State) : Tcu := (t.tile tile).tcu slot
    let lines (t : State) : List PortLine := (t.tile tile).port.lines
    (TcuIssues s tile slot (encTs 0x37 f) →
      (a % 64 ≠ 0 → Completes (.streamOpen tile slot f) s fun t => (new t).state = .halted
          ∧ ∃ x : FaultInfo, t.cm.faultQ = s.cm.faultQ ++ [x] ∧ x.code = 0x03 ∧ x.ctx = c.ctx ∧ x.addr = a)
      ∧ (reach → s.localRead tile a 1 ≠ [1] →
          (s0.openStatus tile slot d ≠ 0 → Completes (.streamOpen tile slot f) s fun t =>
            SlotOnly s t tile slot (n.setReg f.dst (BitVec.ofNat 32 (s0.openStatus tile slot d))))
          ∧ (s0.openStatus tile slot d = 0 → Completes (.streamOpen tile slot f) s fun t =>
              new t = n.setReg f.dst 0 ∧ t = { s with tiles := t.tiles, str := t.str }
              ∧ ∃ x, t.str.streams = s.str.streams ++ [x] ∧ x.num = field d 6 2 ∧ x.ctx = c.ctx ∧ x.tile = tile ∧ x.tcu = slot
                ∧ x.kind = field d 1 1 ∧ x.slots = field d 3 1 ∧ x.slotBytes = field d 12 4 ∧ x.base = field d 16 8 ∧ x.closing = .no
                ∧ x.produced = 0 ∧ x.acquired = 0 ∧ x.consumed = 0))
      ∧ (reach → s.localRead tile a 1 = [1] → field d 6 2 = num → num < 4096 → (d.drop 1).take 5 = List.replicate 5 0 →
          d.drop 8 = List.replicate 56 0 → ∀ x, let r := s.str.ranges.getD c.ctx (0, 0)
            r.1 ≤ num → num < r.1 + r.2 → s.stream? num = some x → (∀ y ∈ s.str.streams, y.kind = 2 → y.partner ≠ num) →
            x.ctx = c.ctx → x.tile = tile → x.tcu = slot → x.closing = .no → Completes (.streamClose tile slot f) s fun t =>
              new t = { n with state := .waitClose num } ∧ ∃ y, t.stream? num = some y ∧ y.closing = .close f.dst ∧ y.waiters = []))
    ∧ (∀ x dst, s.stream? num = some x → x.closing = .close dst → s.closeReady x = true → s.live x.ctx = true → x.tile = tile → x.tcu = slot →
        c.state = .waitClose num → slot < (s.tile tile).tcus.length → Completes (.streamCloseComplete num) s fun t =>
          t.stream? num = none ∧ new t = { c.setReg dst 0 with state := .run })
    ∧ (∀ x i, s.str.streams.filter (·.tile == tile) = [x] → s.stream? x.num = some x → x.settle = x → s.lineCand x = true →
        x.nextLine = some i → (lines s).length < 256 → Completes (.lineRequestIssue tile) s fun t =>
          let asks (l : PortLine) : Prop := l ∈ lines t ∧ (lines t).length = (lines s).length + 1
            ∧ l.num = x.num ∧ l.id = x.id ∧ l.ctx = x.ctx ∧ l.idx = i ∧ l.va = x.lineVa i
          (t.tile tile).port.requested = (s.tile tile).port.requested + 1
          ∧ (x.kind = 1 → ∃ l, asks l
              ∧ l.data = some (s.localRead tile (x.slotAddr (i / x.slotLines) + i % x.slotLines * 128) 128))
          ∧ (x.kind = 0 → ∃ (u : State) (r : Except XErr (Leaf × Nat)), u = { s with tiles := u.tiles, str := u.str, cm := u.cm }
              ∧ (∀ k, u.ctx k = { s.ctx k with quietSince := (u.ctx k).quietSince })
              ∧ (u.resolve .stream x.ctx (x.lineVa i) 128 .load).2 = r
              ∧ (∀ e : XErr, r = .error e ∨ (e = .permission ∧ ∃ lf pa, r = .ok (lf, pa) ∧ 2 ≤ lf.typ) → lines t = lines s
                  ∧ ∃ y : FaultInfo, t.cm.faultQ = s.cm.faultQ ++ [y] ∧ y.code = e.code ∧ y.ctx = x.ctx ∧ y.unitId = x.num ∧ y.addr = x.lineVa i)
              ∧ ∀ lf pa, r = .ok (lf, pa) → lf.typ = 0 ∨ (lf.typ = 1 ∧ s.hst.up = true) → ∃ l, asks l ∧ l.data = none ∧ l.leaf = some (lf, pa)
                  ∧ l.sent = decide (lf.typ = 1 ∧ s.tagsFree ≠ 0)
                  ∧ t.hst.sent = s.hst.sent ++ (if l.sent then [.read (s.keySlot x.ctx + 1) pa 128 l.rid] else [])))
    ∧ (∀ host l x, (lines s)[index]? = some l → s.stream? l.num = some x → x.id = l.id → s.live l.ctx = true →
        let s1 := s.lineOver tile l
        (∀ lf pa, l.leaf = some (lf, pa) → s.pcHeld (some l.rid) = false →
          let s2 := (s.pcTake (some l.rid)).lineOver tile l
          let read := s2.mem.read (s.keySlot l.ctx) pa 128
          (lf.typ = 1 → l.sent = true → hostBytes host pa 128 = none → exec (.lineArrival tile index host) s = .next s)
          ∧ (x.closing = .no → x.tile = tile → Mem.wf (some 0) (s.tile tile).localMem →
            (∀ b, (if lf.typ = 1 then l.sent = true ∧ hostBytes host pa 128 = some b else read.2 = (b, false)) →
              Completes (.lineArrival tile index host) s fun t => lines t = (lines s).erase l
                ∧ t.localRead tile (x.slotAddr (l.idx / x.slotLines) + l.idx % x.slotLines * 128) b.length = b)
            ∧ (lf.typ ≠ 1 → read.2.2 = true → Completes (.lineArrival tile index host) s fun t => lines t = (lines s).erase l
                ∧ ∃ y : FaultInfo, t.cm.faultQ = s.cm.faultQ ++ [y] ∧ y.code = 0x06 ∧ y.ctx = l.ctx ∧ y.unitId = l.num ∧ y.addr = l.va)))
        ∧ (∀ b s2 lf pa s3, l.data = some b → s1.resolve .stream l.ctx l.va 128 .store = (s2, .ok (lf, pa)) → lf.typ ≠ 2 → lf.typ ≠ 3 →
            s2.writeVa .stream l.ctx .store 2 l.va b = (s3, none) → Completes (.storeLineDone tile index) s fun t =>
              t.mem = s3.mem ∧ t.hst = s3.hst ∧ lines t = lines s3))
    ∧ (∀ x p, s.stream? num = some x → s.stream? x.partner = some p →
        (x.kind = 2 → s.live x.ctx = true → x.xfer = none → x.consumed < x.produced →
          (p.limit ≤ p.occ → exec (.linkTransfer num) s = .next s)
          ∧ (p.occ < p.limit → Completes (.linkTransfer num) s fun t => t = { s.stir x.ctx with tiles := t.tiles, str := t.str }
              ∧ ∃ y, t.stream? num = some y
                ∧ y.xfer = some ⟨x.consumed, s.localRead x.tile (x.slotAddr x.consumed) x.slotBytes, s.strDeadline x⟩))
        ∧ (∀ m, x.xfer = some m → s.live x.ctx = true → p.kind = 3 → x.partner ≠ num → p.tile < s.tiles.length →
            Mem.wf (some 0) (s.tile p.tile).localMem →
            let at_ := p.slotAddr p.produced
            (x.tile = p.tile → x.ring + 64 ≤ at_ ∨ at_ + m.data.length ≤ x.ring) →
            Completes (.linkSlotDelivered num) s fun t =>
              t.localRead p.tile at_ m.data.length = m.data ∧ (∃ y, t.stream? x.partner = some y ∧ y.produced = p.produced + 1)
              ∧ ∃ y, t.stream? num = some y ∧ y.xfer = none))

/-- RAY_PACKET_ARRIVAL of one ray gives it a home, and its first entry is visited here, or sent to the home of its image. VISIT_ARRIVAL starts
a visit whose subtree is held here with a slot free, and sends one on whose subtree has moved. VISIT_RETURN with nothing left to visit ends the ray:
its best candidate, or a miss, is its hit. NODE_FETCH of a node that breaks a rule, or that cannot be read, raises the fault and ends the visit; of
a good one it puts the children that pass on the visit's stack. SPECULATIVE_NODE_FETCH of a near child puts it into the store as speculative, and
does nothing where the translation fails. NEURAL_BATCH_SEND sends, of the batches that a full queue refused and those that have 32 points, the points of a
normal, or 32 Armature cycles since their first point, the one of earliest deadline; NEURAL_REPLY with a distance
above the threshold takes the sphere trace one sample on. -/
def Obligations.RaysWalkTheArmatures : Prop :=
  ∀ (s : State) (a n : Nat), s.clocked = true → a < s.arm.arms.length →
    let x := s.armOf a
    let free := x.waiting = [] ∧ x.visits.length < 256
    (∀ r, s.arm.rayFlight[n]? = some ⟨a, [r]⟩ → s.live r.ctx = true → (∀ h ∈ x.homes, h.ray.id ≠ r.id) →
      (fv r.tmax).lt (fv r.tmin) = false →
      let img := (s.imageFor r.ctx r.d.tree).map (·.id)
      let v : Visit := { ray := r, home := a, best := none, stack := [firstEntry r img], found := img.isNone }
      let home (t : State) : Prop := t.arm.rayFlight = s.arm.rayFlight.eraseIdx n
        ∧ (t.armOf a).homes = x.homes ++ [{ ray := r, stack := [], out_ := true, found := img.isNone }]
      (img = none → free → (∀ y ∈ x.visits, y.ray.id ≠ r.id) → Completes (.rayPacketArrival n) s fun t =>
          home t ∧ (t.armOf a).visits = x.visits ++ [{ v with arr := s.now }])
      ∧ (∀ i m o, img = some i → s.image? i = some m → m.homes.contains a = false → m.homes.head? = some o →
          Completes (.rayPacketArrival n) s fun t => home t ∧ t.arm.visitFlight = s.arm.visitFlight ++ [⟨o, v⟩]))
    ∧ (∀ v e, s.arm.visitFlight[n]? = some ⟨a, v⟩ → s.live v.ray.ctx = true → v.stack.head? = some e →
        (s.holds a v.ray e = true → e.image = none → free → v.neural = none → v.isOver = false → (∀ y ∈ x.visits, y.ray.id ≠ v.ray.id) →
          Completes (.visitArrival n) s fun t =>
            t.arm.visitFlight = s.arm.visitFlight.eraseIdx n ∧ (t.armOf a).visits = x.visits ++ [{ v with arr := s.now }] ∧ (t.armOf a).waiting = [])
        ∧ (∀ o, s.holds a v.ray e = false → s.destOf v.ray e = some o → Completes (.visitArrival n) s fun t =>
            t.arm.visitFlight = s.arm.visitFlight.eraseIdx n ++ [⟨o, v⟩] ∧ (t.armOf a).visits = x.visits))
    ∧ (∀ v h, s.arm.returns[n]? = some ⟨a, v⟩ → s.live v.ray.ctx = true → x.homes.find? (·.ray.id == v.ray.id) = some h → v.stack = [] →
        h.stack = [] → v.best = none ∨ h.best = none → Completes (.visitReturn n) s fun t =>
          (x.waiting = [] → t.arm.returns = s.arm.returns.eraseIdx n) ∧ (t.armOf a).homes = x.homes.filter (·.ray.id != v.ray.id)
          ∧ t.arm.hits = s.arm.hits ++ [match h.best, v.best with
            | none, none => h.ray.missRec 0
            | none, some c => ⟨h.ray, c⟩
            | some c, _ => ⟨h.ray, c⟩])
    ∧ (∀ ray v e rest, s.visit? a ray = some v → s.live v.ray.ctx = true → v.neural = none → v.leaves = [] → v.stack = e :: rest →
        x.waiting = [] → v.ray.id = ray →
        let p := (s.ctx v.ray.ctx).part
        (∀ s1 er, s.nodeRead a v.ray.ctx e.va 128 e.sub v.ray.deadline = (s1, .error er) → Completes (.nodeFetch a ray) s fun t =>
          (t.armOf a).visits = (s1.armOf a).visits.filter (·.ray.id != ray)
          ∧ ∃ y : FaultInfo, t.cm.faultQ = s1.cm.faultQ ++ [y] ∧ y.code = er.code ∧ y.ctx = v.ray.ctx ∧ y.addr = e.va ∧ y.unitId = a)
        ∧ ∀ s1 d, s.nodeRead a v.ray.ctx e.va 128 e.sub v.ray.deadline = (s1, .ok d) →
            (e.sub ≠ 4096 ∧ (e.front = false ∨ e.sub = nodeSelf d)) ∨ s1.owner p (nodeSelf d) = some a →
            s1.armOf a = { x with store := (s1.armOf a).store, cnt := (s1.armOf a).cnt } →
            (s1.nodeFormatBad p d e = true → Completes (.nodeFetch a ray) s fun t =>
              (t.armOf a).visits = x.visits.filter (·.ray.id != ray)
              ∧ ∃ y : FaultInfo, t.cm.faultQ = s1.cm.faultQ ++ [y] ∧ y.code = 0x0C ∧ y.ctx = v.ray.ctx ∧ y.addr = e.va)
            ∧ (s1.nodeFormatBad p d e = false →
                let w := ({ v with stack := rest }.nodeStep d e).1
                w.isOver = false → w.leaves ≠ [] → Completes (.nodeFetch a ray) s fun t =>
                  t.arm.returns = s1.arm.returns ∧ t.cm = s1.cm
                  ∧ (t.armOf a).visits = x.visits.map fun y => if y.ray.id == ray then w else y))
    ∧ (∀ ray va v, s.visit? a ray = some v → s.live v.ray.ctx = true →
        va ∈ v.spec →
        (∀ s1 er, s.resolve (.armature a) v.ray.ctx va 128 .load = (s1, .error er) → exec (.speculativeNodeFetch a ray va) s = .next s)
        ∧ (let p := (s.ctx v.ray.ctx).part
          ∀ s1 l pa m b, s.resolve (.armature a) v.ray.ctx va 128 .load = (s1, .ok (l, pa)) → l.typ = 0 →
            (x.store.any fun y => y.part == p && y.pa == pa) = false →
            (s.pcNow 0 p (pa / 128) none v.ray.ctx).mem.read p pa 128 = (m, b, false) → s.owner p v.sub = some a → 2 ≤ s.storeShare a p →
            Completes (.speculativeNodeFetch a ray va) s fun t => t = { s with mem := m, arm := t.arm }
              ∧ t.visit? a ray = some { v with spec := (v.spec.dropWhile (· != va)).drop 1 }
              ∧ (t.armOf a).store.head? = some { part := p, sub := v.sub, pa := pa, size := 2, spec := true }))
    ∧ (let due (f : Forming) : Prop := f ∈ x.forming ∧ s.live f.ctx = true ∧ (f.solo = true ∨ 32 ≤ f.points.length ∨ f.since + 32 ≤ x.cycle)
        let held (b : Batch) : Prop := b ∈ s.bus.refused ∧ b.armature = a
        let rank (f : Forming) : Rank := ⟨s.formingDl a f, f.arr, f.ctx⟩
        ((∀ f, ¬ due f) → (∀ b, ¬ held b) → exec (.neuralBatchSend a) s = .next s)
        ∧ (∀ b, held b → (∀ y, held y → y ≠ b → b.rank.lt y.rank = true) → (∀ f, due f → (rank f).lt b.rank = false) →
            Completes (.neuralBatchSend a) s fun t =>
              t.bus.refused = s.bus.refused.erase b ∧ ∃ y, t.bus.flight = s.bus.flight ++ [y] ∧ y.batch = b)
        ∧ (∀ f, due f → (∀ g, due g → g ≠ f → (rank f).lt (rank g) = true) → (∀ b, held b → (rank f).lt b.rank = true) →
            Completes (.neuralBatchSend a) s fun t =>
              (t.armOf a).forming = x.forming.erase f ∧ (t.armOf a).sent = x.sent ++ [⟨s.cm.nextId, f.points.map (·.1)⟩]
              ∧ ∃ y, t.bus.flight = s.bus.flight ++ [y] ∧ y.batch.req = s.cm.nextId ∧ y.batch.armature = a ∧ y.batch.ctx = f.ctx
                ∧ y.batch.va = f.va ∧ y.batch.points = f.points.map (·.2)
                ∧ y.tile ∈ [a / 4 * 12 + a % 4 * 3, a / 4 * 12 + a % 4 * 3 + 1, a / 4 * 12 + a % 4 * 3 + 2]))
    ∧ ∀ r ray v nr o, s.bus.replies[n]? = some r → r.armature = a → x.sent.find? (·.req == r.req) = some ⟨r.req, [ray]⟩ → r.outs = [o] →
        s.visit? a ray = some v → v.neural = some nr → nr.hit = none → x.waiting = [] →
        let d := fv (o.getD 0 0).toNat
        let dir := (v.ray.space nr.inst).d
        let t1 := (FVal.plus (fv nr.t) (FVal.div (FVal.mul (FVal.mul (fv (field nr.leaf 36 4)) d) (fv (field nr.leaf 12 4)))
          (dot dir dir).sqrt)).to32 .nearest
        d.le (fv (field nr.leaf 32 4)) = false → (fv t1).le (fv nr.out_) = true → nr.n + 1 ≠ 32 → Completes (.neuralReply n) s fun t =>
          t.bus.replies = s.bus.replies.eraseIdx n
          ∧ t.visit? a ray = some { v with neural := some { nr with n := nr.n + 1, t := t1, last := o.map (·.toNat) } }
          ∧ ∃ f ∈ (t.armOf a).forming, ∃ p, (ray, p) ∈ f.points

/-- MAQUETTE_BUILD by the PF begins a build with result 0 where none is in progress, its parameters are allowed and its context is live and of the
partition; else the result says why not: 5, 1 or 6. MAQUETTE_RELEASE, under the same checks, leaves no live image in the slot that it names. MAQUETTE_BUILD_COMPLETE of a
build whose context is gone gives result 6, and else, its tree read, puts the new image into its slot with result 0. PLACEMENT_PERIOD begins a new period of every
Armature's load, and, for one partition with ADAPT, moves the one subtree of the hottest Armature to the allowed one of least load and distance where the difference of
loads exceeds twice the subtree's. -/
def Obligations.MaquettesAreBuiltAndSubtreesMove : Prop :=
  ∀ (s : State) (p : Nat), s.clocked = true → p < 32 → p < s.arm.parts.length →
    let x := s.armPart p
    (∀ val : DWord, bits val.toNat 0 2 = 1 →
      let c := mqCtx x.mqParam
      let result (r : Nat) : Prop := Completes (.maquetteBuild 0 p val) s fun t =>
        (t.armPart p).result = r ∧ (t.armPart p).build = x.build ∧ t.arm.images = s.arm.images ∧ t.cm = s.cm
      (x.build ≠ none → result 5)
      ∧ (x.build = none → mqBad x.mqRoot x.mqParam = true → result 1)
      ∧ (x.build = none → mqBad x.mqRoot x.mqParam = false → (s.ctx c).part ≠ p ∨ s.live c = false → result 6)
      ∧ (x.build = none → mqBad x.mqRoot x.mqParam = false → (s.ctx c).part = p → s.live c = true →
          Completes (.maquetteBuild 0 p val) s fun t => (t.armPart p).result = 0 ∧ t.arm.images = s.arm.images
            ∧ ∃ b, (t.armPart p).build = some b ∧ b.ctx = c ∧ b.root = x.mqRoot ∧ b.slot = mqSlot x.mqParam
              ∧ b.depth = bits x.mqParam 10 4 ∧ b.budget = bits x.mqParam 14 14 ∧ b.replicas = bits x.mqParam 34 3))
    ∧ (∀ val : DWord, bits val.toNat 0 2 = 2 →
        let c := mqCtx x.mqParam
        let result (r : Nat) : Prop := Completes (.maquetteRelease 0 p val) s fun t =>
          (t.armPart p).result = r ∧ (t.armPart p).slot = mqSlot x.mqParam ∧ (t.armPart p).build = x.build ∧ t.arm.images = s.arm.images
        (x.build ≠ none → result 5)
        ∧ (x.build = none → mqBad x.mqRoot x.mqParam = true → result 1)
        ∧ (x.build = none → mqBad x.mqRoot x.mqParam = false → (s.ctx c).part ≠ p ∨ s.live c = false → result 6)
        ∧ (x.build = none → mqBad x.mqRoot x.mqParam = false → (s.ctx c).part = p → s.live c = true →
            Completes (.maquetteRelease 0 p val) s fun t => (t.armPart p).result = 0 ∧ (t.armPart p).slot = mqSlot x.mqParam
              ∧ ∀ i ∈ t.arm.images, i.part = p → i.slot = mqSlot x.mqParam → i.live = false))
    ∧ (∀ b, x.build = some b →
        ((s.ctx b.ctx).part ≠ p ∨ s.live b.ctx = false → Completes (.maquetteBuildComplete p) s fun t =>
          (t.armPart p).result = 6 ∧ (t.armPart p).build = none ∧ t.arm.images = s.arm.images)
        ∧ (∀ homes s1 es, (s.ctx b.ctx).part = p → s.live b.ctx = true → s.imageHomes (b.budget + 1) b.home b.replicas [] = some homes →
            s.buildTree (homes.headD 0) b b.budget [⟨b.root, 4096, 1, none⟩] [] 1 = (s1, .ok es) → p < s1.arm.parts.length →
            Completes (.maquetteBuildComplete p) s fun t =>
              (t.armPart p).result = 0 ∧ (t.armPart p).build = none ∧ (t.armPart p).slot = b.slot ∧ (t.armPart p).entries = es.length
              ∧ ∃ i ∈ t.arm.images, i.part = p ∧ i.slot = b.slot ∧ i.ctx = b.ctx ∧ i.root = b.root ∧ i.homes = homes ∧ i.entries = es
                ∧ i.live = true))
    ∧ ∀ now,
        Completes (.placementPeriod now) s (fun t => ∀ y ∈ t.arm.arms, y.load = [])
        ∧ (let load := s.arm.arms.map fun y => y.load.foldl (fun n z => n + z.2) 0
          let h := hottest load
          ∀ r c, ((List.range 32).filter fun q => (s.armPart q).adapt) = [p] → x.res.filter (·.owner == h) = [r] → r.pin = false → c < 48 →
            let ok (y : Nat) : Prop := bitAt r.region (armQuadrant y) = true
            ok c → (∀ y, y < 48 → ok y → y ≠ c → [load.getD c 0, armHops h c] < [load.getD y 0, armHops h y]) →
            2 * s.arm.arms.foldl (fun n y => n + y.loadOf p r.sub) 0 < load.getD h 0 - load.getD c 0 →
            Completes (.placementPeriod now) s fun t => t.owner p r.sub = some c ∧ t.arm.moves = s.arm.moves + 1)

/-- DROOP_DETECT below the threshold of its detector stretches its tile and counts the onset, and at or above it ends what the detector senses;
DROOP_STRETCH_END ends the stretching once no detector senses and 64 cycles have passed, and does nothing before. POWER_PERIOD publishes the estimate of what the tiles
and blocks counted, starts their counts again and leaves every tile's next limit at most 16, in SHED at most 4. RECONCILIATION_WINDOW with a reading keeps it and a gain from 52429 to 81920; with none it is unreconciled, the third in a
row making the manager degraded. VOLTAGE_SETTLED puts the commanded voltage in effect. PMBUS_REPORT issues its reads, a failed one with STATUS_WORD, and
keeps the readings. THERMAL_SAMPLE keeps each tile's
temperature, and trips on a second sample in a row of 120 °C. THERMAL_STEP lowers the limit of a hot tile by 2 and raises that of a cool one by 1. SHED_ENTER below 11.0 V
begins a dip and stretches every tile, or restarts the wait of one; SHED_EXIT after 100 µs above 11.4 V records it, and before that goes on waiting. COOLANT_STOP latches,
kills every live context, with the first of the stop and its faults of the same cycle, and ends a drain; COOLANT_GLITCH and AGEING_EPOCH count. PHASE_MARK_APPLY
sets the phase and deadline of its partition, PART_LEARN_RESET clears what it learned. -/
def Obligations.PowerLoopsTakeEffect : Prop :=
  ∀ (s : State) (now i : Nat),
    let s' := s.at now
    let x := s.pwrTile i
    let only (t : State) : Prop := t = { s with now := t.now, pwr := t.pwr, tiles := t.tiles }
    (s.powered = true → i < s.tiles.length → i < s.pwr.tiles.length →
      (∀ det mv, Completes (.droopDetect i det mv) s fun t => only t
          ∧ let below := decide (mv < Config.droopThreshold i det x.point)
            (t.tile i).stretched = (below || (s.tile i).stretched)
            ∧ t.pwrTile i = if below then
                { x with low := det :: x.low.filter (· != det), left := 64, droops := x.droops + b2n (!(s.tile i).stretched) }
              else { x with low := x.low.filter (· != det) })
      ∧ (x.drooping = true → exec (.droopStretchEnd i) s = .next s)
      ∧ (x.drooping = false → Completes (.droopStretchEnd i) s fun t => t = { s with tiles := t.tiles } ∧ (t.tile i).stretched = s.shed))
    ∧ (s.powered = true →
        (∀ act : PeriodAct, Completes (.powerPeriod now act) s fun t =>
          t.pwr.est = (sumRat (((List.range 144).map (tileSense s' act.flits) ++ blockSenses s').map (·.mw))).floor.toNat
          ∧ ∀ y ∈ t.tiles, y.acts = [] ∧ y.chs.nextLimit ≤ if s.shed then 4 else 16)
        ∧ (∀ m rest, Completes (.reconciliationWindow now (some m :: rest)) s fun t =>
            t.pwr.meas = m ∧ 52429 ≤ t.pwr.gain ∧ t.pwr.gain ≤ 81920 ∧ t.pwr.window = 0 ∧ t.pwr.periods = 0 ∧ t.pwr.badRun = 0
            ∧ t.pwr.unrec = s.pwr.unrec)
        ∧ (Completes (.reconciliationWindow now [none, none]) s fun t =>
            t.pwr.unrec = s.pwr.unrec + 1 ∧ t.pwr.gain = s.pwr.gain ∧ t.pwr.meas = s.pwr.meas ∧ t.pwr.window = 0
            ∧ (2 ≤ s.pwr.badRun → t.pwr.degraded = true))
        ∧ (∀ v, (s.pwr.dies.getD i {}).want = some v → i < s.pwr.dies.length → Completes (.voltageSettled i) s fun t => only t
            ∧ (t.pwr.dies.getD i {}).mv = v ∧ ∀ j, dieOf j = i → (s.pwr.effVolt (s.pwrTile j).want ≤ v) →
              (t.pwrTile j).point = if j < s.pwr.tiles.length then (s.pwrTile j).want else (s.pwrTile j).point)
        ∧ (∀ v a b d, Completes (.pmbusReport now v [a, b, d]) s fun t =>
            let k := s.pwr.railTurn
            let old := s.pwr.rails.getD k []
            let ask (addr code : Nat) (r : Option Nat) : List PmbusCmd := ⟨addr, code, []⟩ :: if r.isNone then [⟨addr, 0x79, []⟩] else []
            t = { s' with pwr := { s.pwr with vin := v.getD s.pwr.vin, railTurn := (k + 1) % 8, rails := t.pwr.rails
                                              bus := s.pwr.bus ++ ask 0x40 0x88 v ++ ask (0x41 + k) 0x8B a ++ ask (0x41 + k) 0x8C b
                                                ++ ask (0x41 + k) 0x96 d } }
            ∧ (k < s.pwr.rails.length → t.pwr.rails = s.pwr.rails.set k [a.getD (old.getD 0 0), b.getD (old.getD 1 0), d.getD (old.getD 2 0)]))
        ∧ (∀ tiles base, Completes (.thermalSample now tiles base) s fun t =>
            (∀ j v, j < s.pwr.tiles.length → tiles[j]? = some v → (t.pwrTile j).temp = v)
            ∧ (∀ j, j < 144 → (s.pwrTile j).trip = true → 240 ≤ tiles.getD j 0 → t.pwr.thermtrip = true)
            ∧ ((∀ j, (s.pwrTile j).trip = false ∧ (s.pwr.base.getD j {}).trip = false) → t.pwr.thermtrip = false))
        ∧ Completes (.thermalStep now) s fun t => ∀ (j : Nat) (y : PwrTile), s.pwr.tiles[j]? = some y →
            let k := if y.hot then max 1 (y.kThermal - 2) else if y.warm then y.kThermal else min 16 (y.kThermal + 1)
            t.pwr.tiles[j]? = some { y with kThermal := k, hot := false, warm := false })
    ∧ (s.powered = true →
        (∀ mv, mv < 11000 → s.shed = false → s.tiles.length = 144 → s.pwr.tiles.length = 144 → Completes (.shedEnter now mv) s fun t => only t
          ∧ t.shed = true ∧ (∀ y ∈ t.tiles, y.stretched = true ∧ y.chs.nextLimit ≤ 4)
          ∧ ∀ j, j < 144 → (t.pwrTile j).droops = (s.pwrTile j).droops + b2n (!(s.tile j).stretched))
        ∧ (∀ mv, 11000 ≤ mv → s.shed = false → exec (.shedEnter now mv) s = .next { s' with pwr := { s.pwr with inputMv := mv / 10 * 10 } })
        ∧ (∀ mv d, mv < 11400 → s.pwr.dip = some d → exec (.shedEnter now mv) s = .next { s' with
            pwr := { s.pwr with inputMv := mv / 10 * 10, dip := some { d with min := min d.min (mv / 10 * 10), above := none } } })
        ∧ exec .coolantGlitch s = .next { s with pwr := { s.pwr with glitches := s.pwr.glitches + 1 } }
        ∧ exec .ageingEpoch s = .next { s with pwr := { s.pwr with ageFuses := min 64 (s.pwr.ageFuses + 1) } }
        ∧ (s.stopped = false → s.cm.ctxs.length = 64 → ∀ n, Completes (.coolantStop now n) s fun t =>
            let own (c : Nat) : List FaultInfo := (s.cm.faultQ.take n).filter (·.ctx == c)
            t.stopped = true ∧ t.pwr.stops = s.pwr.stops + 1 ∧ t.cm.drain = none ∧ t.cm.faultQ = s.cm.faultQ.drop n
            ∧ (∀ c, s.live c = true → ∃ f, firstFault ({ code := 0x11, ctx := c, unit := 8 } :: own c) = some f ∧ KillStarted t c f.code)
            ∧ (∀ c r, (s.ctx c).state = .killing → (s.ctx c).record = some r → t.ctx c = { s.ctx c with
                record := some { r with secondary := min (r.secondary + ((own c).filter FaultInfo.own).length) 255 } })
            ∧ ∀ c, (s.ctx c).state = .free ∨ (s.ctx c).state = .dead → t.ctx c = s.ctx c))
    ∧ (∀ mv d, s.powered = true → s.pwr.dip = some d → 11410 ≤ mv →
        (∀ a, d.above = some a → a + 100000 ≤ s'.now → Completes (.shedExit now mv) s fun t =>
          t.shed = false ∧ t.pwr.dips.count = s.pwr.dips.count + 1 ∧ t.pwr.dips.lastUs = (a - d.start) / 1000
          ∧ t.pwr.dips.lastMin = min d.min (mv / 10 * 10))
        ∧ (s'.now < d.above.getD s'.now + 100000 → exec (.shedExit now mv) s = .next { s' with
            pwr := { s.pwr with inputMv := mv / 10 * 10
                                dip := some { d with min := min d.min (mv / 10 * 10), above := some (d.above.getD s'.now) } } }))
    ∧ (∀ m, s.clocked = true → s.pwr.marks.filter (·.part == i) = [m] → i < s.cm.parts.length → i < s.pwr.parts.length →
        Completes (.phaseMarkApply now i) s fun t =>
          t.pwr.marks = s.pwr.marks.erase m ∧ t.part i = { s.part i with phase := m.phase } ∧ (t.pwrPart i).deadline = s.deadline i m.tag)
    ∧ (s.serving = true → s.cmdCheck (0x2400 + i) 1 0 = 0 → i < 32 → i < s.pwr.parts.length → Completes (.partLearnReset i 1) s fun t =>
        t.pwrPart i = { s.pwrPart i with learned := List.replicate 8 0 } ∧ t.cm = s.cm)

/-- HBM_READ_ERROR of an error that a retry clears counts it as transient and nothing more; a correctable one that lasts counts and starts the copy
of its row where a spare is free and none is under way; an uncorrectable one that lasts also poisons its line (three symbols or more in a codeword count as one: log 155). ROW_RETIRE_COMPLETE ends the copy, spends a spare, redirects the row and
records it. PATROL_READ without an error moves on one line, and at the end of the pass begins the next. HBM_REFRESH changes only its time, and in a loopback nothing. HBM_TEMP_READ
sets the doubled refresh from 85 °C until below 83 °C and throttling from 95 °C until below 92 °C. RETIRE_ROW starts the copy of a row that is not
redirected. -/
def Obligations.HbmErrorsRowsAndTemperature : Prop :=
  ∀ (s : State) (now n : Nat), n < s.hbm.stackList.length → n < 8 →
    let s' := s.at now
    let x := s.stack n
    let only (t : State) (y : HbmStack) : Prop := t = { s' with hbm := t.hbm } ∧ t.stack n = y
    let may (pc row : Nat) : Prop := (∀ c ∈ x.copies, ¬(c.pc = pc ∧ c.row = row)) ∧ x.free pc ≠ 0
    (s.clocked = true →
      (∀ pa (e : ReadErr), pa < hbmEnd → stackOf pa = n →
        let y := { x with onDie := x.onDie + e.onDie }
        let copy : RowCopy := ⟨pcOf pa, rowOf pa, eccClass e.first⟩
        (eccClass e.first = 1 → eccClass e.retry = 0 → Completes (.hbmReadError now pa e) s fun t => only t { y with ceTransient := x.ceTransient + 1 })
        ∧ (eccClass e.first = 2 → eccClass e.retry ≠ 2 → Completes (.hbmReadError now pa e) s fun t => only t { y with ueTransient := x.ueTransient + 1 })
        ∧ (eccClass e.first = 1 → eccClass e.retry ≠ 0 → may (pcOf pa) (rowOf pa) → Completes (.hbmReadError now pa e) s fun t =>
            only t { y with ceLasting := x.ceLasting + 1, copies := x.copies ++ [copy] })
        ∧ (eccClass e.first = 2 → eccClass e.retry = 2 → may (pcOf pa) (rowOf pa) → Completes (.hbmReadError now pa e) s fun t =>
            t.stack n = { y with ueLasting := x.ueLasting + 1, copies := x.copies ++ [copy] } ∧ (t.mem.metaOf (pa / 128)).poison = true
            ∧ ∀ l, l ≠ pa / 128 → t.mem.metaOf l = s.mem.metaOf l))
      ∧ (∀ index bad c, x.copies[index]? = some c → Completes (.rowRetireComplete now n index bad) s fun t =>
          (t.stack n).copies = x.copies.eraseIdx index ∧ (t.stack n).spent = x.spent ++ [c.pc] ∧ (t.stack n).retired = x.retired + 1
          ∧ (c.pc, c.row) ∈ (t.stack n).redirects ∧ t.log.seq = s.log.seq + 1 ∧ ∃ r, t.hbm.recs = (r :: s.hbm.recs).take 16)
      ∧ (∀ e : ReadErr, eccClass e.first = 0 → e.onDie = 0 → Completes (.patrolRead now n e) s fun t =>
          only t (if stackLines + 8 * x.redirects.length ≤ x.patrolAt + 1 then
              { x with patrolAt := 0, passes := x.passes + 1, patrolCur := x.patrolH }
            else { x with patrolAt := x.patrolAt + 1 }))
      ∧ (x.loopback = 0 → Completes (.hbmRefresh now n) s fun t => only t { x with refreshed := s'.now })
      ∧ (x.loopback ≠ 0 → exec (.hbmRefresh now n) s = .next s'))
    ∧ (s.powered = true → ∀ temp, temp < 105 ∨ x.hot = false →
        let twice := decide (85 ≤ temp) || (x.refresh2x && decide (83 ≤ temp))
        let slow := decide (95 ≤ temp) || (x.throttle && decide (92 ≤ temp))
        Completes (.hbmTempRead now n temp) s fun t =>
          only t { x with temp := temp, hot := decide (105 ≤ temp), refresh2x := twice, throttle := slow })
    ∧ ∀ (v : Word), let pc := bits v.toNat 3 5; let row := bits v.toNat 8 20
        s.serving = true → s'.cmdCheck 0x5480 1 0 = 0 → bits v.toNat 0 3 = n → row < 786432 → v.toNat < 2 ^ 28 → may pc row →
        (pc, row) ∉ x.redirects → Completes (.retireRow now v) s fun t => t.stack n = { x with copies := x.copies ++ [⟨pc, row, 3⟩] }

/-- LINK_UP brings the link up, and with the link up takes in configuration requests (log 154); LINK_RETRAIN changes its rate and counts replays, LINK_DOWN takes it
down, and with nothing outstanding to the host changes nothing else. COMPLETION_FAILURE, and COMPLETION_TIMEOUT after 10 ms, of a stream line read from the host raise PERMISSION for its context and count it. MSIX_UNMASK sends a pending interrupt. VF_FLR
kills the VF's live contexts and disables its queues. A loopback command that passes its checks starts it: PCIe takes the link down, HBM the
stack, a port into loopback; one that may not start is refused with STATE_CONFLICT. LOOPBACK_STOP ends it with state 4, and LOOPBACK_END after its duration with state 2 where
it passed, else 3. -/
def Obligations.HostLinkAndLoopbacks : Prop :=
  ∀ (s : State) (now : Nat),
    let s' := s.at now
    let h := s.hst
    let idle : Prop := (∀ u ∈ s.tiles, u.loads = [] ∧ u.port.lines = []) ∧ s.cm.copies = []
      ∧ ∀ tile tcu slot w, s.fence? tile tcu slot = some w → w.asked = none
    (∀ speed width flit,
      ((s.phase = .ready ∨ s.phase = .down) → s.pins.perst = false → s.loop.state ≠ 1 ∨ 2 < s.loop.depth →
        (h.up = false → exec (.linkUp speed width flit []) s
          = .next { s with hst := { h with speed := speed, width := width, flit := flit, up := true } })
        ∧ (h.up = true → exec (.linkUp speed width flit []) s = .next s
          ∧ (∀ n, n ∈ [16, 32, 64, 128, 256] → exec (.linkUp speed width flit [.resizeBar4 n]) s
            = .next { s with hst := { h with bar4Size := n, bar4Base := if n = 256 then 0 else h.bar4Base } })
          ∧ (∀ fn d3, h.vfFlr.getD fn false = false → exec (.linkUp speed width flit [.power fn d3]) s
            = .next { s with hst := { h with d3 := h.d3.set fn d3 } })
          ∧ exec (.linkUp speed width flit [.doe 1 0 0]) s = .next { s with hst := { h with answer := .bytes [1, 0, 0, 0] } }))
      ∧ (∀ n, h.up = true → exec (.linkRetrain speed width flit n) s = .next { s with
          hst := { h with speed := speed, width := width, flit := flit, retrains := h.retrains + 1, replays := h.replays + n } }))
    ∧ Completes .linkDown s (fun t => t.hst.up = false)
    ∧ (h.up = true → idle → exec .linkDown s
        = .next { s with hst := { h with up := false, speed := 0, width := 0, flit := false, linkLost := true } })
    ∧ (∀ tile index l x k, s.clocked = true → (s.tile tile).port.lines[index]? = some l → l.host = true → l.sent = true →
        s.stream? l.num = some x → x.id = l.id → x.closing = .no → s.live l.ctx = true →
        (k = Instr.completionFailure (.line tile index) []
          ∨ (k = Instr.completionTimeout now (.line tile index) [] ∧ l.since + 10000000 ≤ s'.now)) → Completes k s fun t =>
          t.hst.cplFail = h.cplFail + 1
          ∧ ∃ y : FaultInfo, t.cm.faultQ = s.cm.faultQ ++ [y] ∧ y.code = 0x05 ∧ y.ctx = l.ctx ∧ y.addr = l.va ∧ y.unitId = l.num)
    ∧ (∀ v x, h.vectors[v]? = some x → Completes (.msixUnmask v) s fun t =>
        t.hst.vectors = h.vectors.set v { masked := false, pending := false } ∧ t.hst.fnMsix = h.fnMsix.set (vectorFn v) true
        ∧ t.hst.sent = if x.pending && h.up then h.sent ++ [.msix v] else h.sent)
    ∧ (∀ vf, s.clocked = true → 1 ≤ vf → vf ≤ 32 → h.vfFlr.getD vf false = false → s.cm.ctxs.length = 64 → Completes (.vfFlr vf) s fun t =>
        (∀ c, s.live c = true → (s.ctx c).part + 1 = vf → KillStarted t c 0x0F)
        ∧ (∀ c, s.live c = true → (s.ctx c).part + 1 ≠ vf → t.ctx c = s.ctx c)
        ∧ ∀ q ∈ t.cm.queues, q.part + 1 = vf → q.enable = false)
    ∧ (let start (d : Nat) (k : Instr) (c : List Byte) (eff : State → Prop) : Prop :=
        let gate := if d ≤ 2 then 0 else if d ≤ 4 then 1 else 2
        (d ≤ 2 → h.up = true → idle) → c.length = 8 → loopDepth c = d → loopBad c = 0 → s.serving = true → s'.cmdCheck 0x7100 gate 0 = 0 →
          (s.loopMay d (loopInst c) = true → Completes k s fun t =>
            t.loop = { state := 1, depth := d, inst := loopInst c, pattern := loopPattern c, start := s'.now, ms := loopMs c } ∧ eff t)
          ∧ (s.loopMay d (loopInst c) = false → Completes k s fun t => t.loop = s.loop ∧ t.cm.lastAbort = acStateConflict)
      ∀ c : List Byte, let i := loopInst c
        let pcie (t : State) : Prop := t.hst.up = false
        let hbm (n : Nat) (t : State) : Prop := i < s.hbm.stackList.length → t.stack i = { s.stack i with loopback := n }
        let port (t : State) : Prop := i < s.fab.ports.length → (t.port i).state = 6
        start 1 (.loopbackPciePipe now c) c pcie ∧ start 2 (.loopbackPcieNearEnd now c) c pcie
        ∧ start 3 (.loopbackHbmController now c) c (hbm 1) ∧ start 4 (.loopbackHbmPhy now c) c (hbm 2)
        ∧ start 5 (.loopbackNguaNearEndPcs now c) c port ∧ start 6 (.loopbackNguaFarEndPma now c) c port
        ∧ start 7 (.loopbackNguaLinkLayer now c) c port ∧ start 8 (.loopbackNguaTransaction now c) c port)
    ∧ (s.serving = true → s.loop.state = 1 →
        (s'.cmdCheck 0x7100 0 0 = 0 → Completes (.loopbackStop now 1) s fun t => t.loop = { s.loop with state := 4 })
        ∧ ∀ obs, s.loop.start + s.loop.ms * 1000000 ≤ s'.now → Completes (.loopbackEnd now obs) s fun t =>
            t.loop.state = (if loopPass s.loop.depth obs then 2 else 3) ∧ t.loop.bits = obs.bits ∧ t.loop.errors = obs.errors)

/-- FRAME_RECEIVE of a frame whose header is the eighth good one in a row locks a training port, which sends TRAIN and a frame of its own; its ten flits wait for the
rows of the flits, each of which takes the oldest. A TRAIN with the wrong partner ends in the wiring error and event 0x0042, the right
one that has seen a TRAIN brings a cold port UP with SEQ 0. TRAINING_TIMEOUT tries a width again, or gives up; PORT_TRAIN_RETRY, FRAME_LOCK_LOSS and ADMIN_UP
train from 8 lanes. DATA_FLIT_RECEIVE accepts the expected flit and answers with an IDLE; another SEQ, or one that did not come whole, is NAKed
once. IDLE_FLIT_RECEIVE
returns credit and empties the replay buffer up to its ACK; NAK_RECEIVE and REPLAY_TIMEOUT send every flit left again. PACKET_START spends the packet's credit and keeps its flits for replay. ADMIN_DOWN and
ADMIN_DOWN_COMPLETE take an idle port down. LOOPBACK_FLIT_RECEIVE starts and ends the partner's loopback. -/
def Obligations.FabricPortsTrainAndRecover : Prop :=
  ∀ (s : State) (now p : Nat), s.clocked = true → p < 18 → p < s.fab.ports.length →
    let s' := s.at now
    let x := s.port p
    let up := x.state = 2
    let sends (t : State) (n : Nat) : Prop := ∃ l : List (List Byte), l.length = n ∧ t.fab.sent = s.fab.sent ++ l.map fun f => (p, f)
    let trains (t : State) : Prop := (t.port p).state = 1 ∧ ∃ y, (t.port p).training = some y ∧ y.lanes = 0xFF ∧ y.start = s'.now ∧ y.cold = true
    let got (y : RxFlit) (kind : Nat) : Prop := x.flits.head? = some y ∧ y.kind = kind ∧ y.good = true
    (∀ t0, x.training = some t0 →
      (∀ lanes, let v := frameView lanes (if x.lanesIn = 0xF0 then 4 else 0)
        x.state = 1 → x.run = 7 → t0.run < 8 → lanes.length = lanesOf t0.lanes → headerOk v.data lanes.length = true →
        Completes (.frameReceive now p lanes) s fun t => (t.port p).run = 8
          ∧ (t.port p).training = some { t0 with run := 8, start := s'.now, trainAt := s'.now }
          ∧ (∃ f l, (viewFlit f).typ = 2 ∧ field f 12 1 = 1 ∧ t.fab.sent = s.fab.sent ++ (p, f) :: l)
          ∧ (t.port p).flits.map (·.bytes) = x.flits.map (·.bytes) ++ (List.range 10).map (fun i => (v.flit i).1)
          ∧ ∃ g, g.length = lanes.length ∧ t.fab.frames = s.fab.frames ++ [(p, g)])
      ∧ (∀ y, got y 3 → let f := y.bytes
          let ok := wiringOk s.fab.chipId p (field f 13 1) (field f 14 2) (field f 16 1)
          (ok = false → Completes (.trainFlitReceive now p) s fun t => (t.port p).state = 4 ∧ (t.port p).training = none
            ∧ t.log = s.log.add 64 s'.now 0x0042 9 2 (toLe 1 p ++ toLe 1 0 ++ toLe 2 (field f 14 2)))
          ∧ (ok = true → bitAt (field f 18 1) 0 = true → t0.cold = true → Completes (.trainFlitReceive now p) s fun t =>
              sends t 1 ∧ (t.port p).flits = x.flits.tail ∧ (t.port p).state = 2 ∧ (t.port p).lanes = t0.lanes ∧ (t.port p).seq = 0 ∧ (t.port p).expect = 0
              ∧ (t.port p).unacked = [] ∧ (t.port p).credits = (List.range 6).map fun i => field f (20 + 2 * i) 2))
      ∧ (t0.start + (if 8 ≤ t0.run then 100000 else 1000000) ≤ s'.now →
          (t0.fails < 2 → Completes (.trainingTimeout now p) s fun t =>
            (t.port p).training = some { t0 with fails := t0.fails + 1, start := s'.now, run := 0, seen := false })
          ∧ (2 ≤ t0.fails → t0.only = true ∨ t0.lanes = 0xF0 → Completes (.trainingTimeout now p) s fun t =>
              (t.port p).state = 0 ∧ (t.port p).training = none)))
    ∧ (x.state = 0 → x.adminDown = false → s.fab.chipId ≠ 0xFFFF → x.since + 10 ^ 9 ≤ s'.now → Completes (.portTrainRetry now p) s trains)
    ∧ (up → Completes (.frameLockLoss now p) s trains)
    ∧ (x.adminDown = true → x.state = 3 → s.fab.chipId ≠ 0xFFFF → Completes (.adminUp now p) s fun t => trains t ∧ (t.port p).adminDown = false
        ∧ t.cm.applyGen = (s.cm.applyGen + 1) % 2 ^ 32)
    ∧ (up → ∀ y : RxFlit, let v := viewFlit y.bytes
        (got y 1 → v.nak = false → v.seq = x.expect → Completes (.dataFlitReceive now p) s fun t => sends t 1 ∧ (t.port p).flits = x.flits.tail
          ∧ (t.port p).expect = (x.expect + 1) % 1024 ∧ (t.port p).rx = (takePkts 64 (x.rx ++ v.payload)).2 ∧ (t.port p).nakAt = none)
        ∧ (got y 1 → v.nak = false → v.seq ≠ x.expect → x.nakAt = none → Completes (.dataFlitReceive now p) s fun t =>
            sends t 1 ∧ (t.port p).expect = x.expect ∧ (t.port p).inq = x.inq ∧ (t.port p).nakAt = some s'.now)
        ∧ (x.flits.head? = some y → y.kind = 1 → y.good = false → v.seq = x.expect → x.fails = 0 → x.nakAt = none →
            Completes (.dataFlitReceive now p) s fun t => sends t 1 ∧ t.port p = { x with
              flits := x.flits.tail, tx := (t.port p).tx, owed := (t.port p).owed, nakAt := some s'.now, fails := 1
              failErr := x.failErr.mapIdx fun i e => e + y.laneErr.getD i 0 })
        ∧ (∀ u rest, got y 0 → v.typ = 0 → v.ackv = true → x.unacked = u :: rest → (v.ack + 1024 - u.seq) % 1024 ≤ rest.length →
            Completes (.idleFlitReceive now p) s fun t =>
              t.port p = { x with
                flits := x.flits.tail
                unacked := rest.drop ((v.ack + 1024 - u.seq) % 1024), progress := s'.now, credits := x.credits.modify v.cvc (· + v.ccnt) })
        ∧ (got y 2 → v.ackv = false → Completes (.nakReceive now p) s fun t =>
            sends t x.unacked.length ∧ (t.port p).unacked.map (·.seq) = x.unacked.map (·.seq)))
    ∧ (up → ∀ u, x.unacked.head? = some u → max u.sent x.progress + 2000 ≤ s'.now → Completes (.replayTimeout now p) s fun t =>
        sends t x.unacked.length ∧ (t.port p).unacked.map (·.seq) = x.unacked.map (·.seq))
    ∧ (s.portUp p = true → ∀ k, s'.nextPkt x = some k → let l := flitPayloads 2 k.bytes
        x.unacked.length + l.length ≤ 512 → x.seq < 1024 → Completes (.packetStart now p) s fun t =>
          sends t l.length ∧ (t.port p).out = x.out.erase k ∧ (t.port p).credits = x.credits.modify k.cls (· - k.units)
          ∧ (t.port p).unacked.length = x.unacked.length + l.length ∧ (t.port p).seq = (x.seq + l.length) % 1024)
    ∧ (up → x.unacked = [] → x.out = [] →
        Completes (.adminDown p) s (fun t => (t.port p).state = 3 ∧ (t.port p).adminDown = true
          ∧ t.cm.applyGen = (s.cm.applyGen + 1) % 2 ^ 32)
        ∧ (x.adminDown = true → Completes (.adminDownComplete now p) s fun t => (t.port p).state = 3))
    ∧ ∀ y, got y 5 → zeroBytes y.bytes 14 238 = true → let d := field y.bytes 13 1
        (d = 2 ∨ d = 3 → x.state = 3 → Completes (.loopbackFlitReceive now p) s fun t =>
            t.port p = { x with flits := x.flits.tail, state := 6, partnerLoop := d })
        ∧ (d = 0 → x.state = 6 → x.partnerLoop ≠ 0 → Completes (.loopbackFlitReceive now p) s fun t =>
            t.port p = { x with flits := x.flits.tail, state := 3, partnerLoop := 0 })

/-- PUT_RECEIVE, GET_RECEIVE and EVENT_RECEIVE of the packet of earliest deadline for this chip whose context accepts it perform it and answer with status 0: a PUT
writes memory, a GET returns the bytes, an EVENT adds its DELTA to the line; one already performed is answered with status 1 and not performed again; one not accepted
with status 2. ACK_RECEIVE and DATA_RECEIVE of the last answer of the one entry end it and raise its DONE line. REQUEST_RETRY after 50 µs sends again, and after the
third send faults with 0x10. DETOUR_FORWARD passes a packet of class ESC_D on to its chip. FABRIC_QUEUE_POLL of a head entry with a reserved OP takes it and faults; FABRIC_PUT, FABRIC_GET and FABRIC_EVENT take an
entry that is allowed, and fault on one that is not. TIME_FLIT_SEND sends; TIME_FLIT_RECEIVE moves a locked offset by at most 50 ns. -/
def Obligations.FabricRequestsAreMadeAndServed : Prop :=
  ∀ (s : State) (now p : Nat), s.clocked = true →
    let s' := s.at now
    let answers (t : State) (k : FPkt) (typ status : Nat) (data : List Byte) (eff : State → Prop) : Prop :=
      ∃ s2 a, t = s2.route a 0 ∧ eff s2 ∧ a.typ = typ ∧ a.aux = status ∧ a.dst = k.src ∧ a.src = s.fab.chipId ∧ a.tid = k.tid
        ∧ a.dctx = k.sctx ∧ a.data = data
    (∀ i k, s'.inNext s'.isRequest = some (i, k) → let s1 := s'.consume i k
      (k.typ = 1 → s1.isDup k = false → s1.accepts k = true → ∀ s2, s1.deviceRun k.dctx .store 4 k.addr k.data.length = (s2, none) →
        Completes (.putReceive now) s fun t => answers t k 4 0 [] fun y =>
          y.mem = (s2.writeVa .fabric k.dctx .store 4 k.addr k.data).1.mem ∧ (y.dup k.src).done.head? = some k.tid)
      ∧ (k.typ = 2 → s1.accepts k = true → ∀ s2 s3 d, s1.deviceRun k.dctx .load 4 k.addr k.aux = (s2, none) →
          s2.readVa .fabric k.dctx [] .load (s2.deadlineOf k) 4 k.addr k.aux = (s3, .ok d) → Completes (.getReceive now) s fun t =>
            answers t k 3 0 d fun y => y = s3)
      ∧ (k.typ = 5 → s1.isDup k = false → s1.accepts k = true → k.dctx < s.cm.ctxs.length → Completes (.eventReceive now) s fun t =>
          answers t k 4 0 [] fun y => (y.ctx k.dctx).fabricLines
            = (s.ctx k.dctx).fabricLines.modify (k.aux % 8) (· + BitVec.ofNat 32 k.addr))
      ∧ (∀ c, (k.typ = 1 ∧ c = Instr.putReceive now) ∨ (k.typ = 5 ∧ c = Instr.eventReceive now) →
          (s1.isDup k = true → Completes c s fun t => answers t k 4 1 [] fun y =>
            y = { s1 with fab := { s1.fab with duplicates := s1.fab.duplicates + 1 } })
          ∧ (s1.isDup k = false → s1.accepts k = false → Completes c s fun t => answers t k 4 2 [] fun y =>
              y = { s1 with cm := { s1.cm with lateArrivals := s1.cm.lateArrivals + 1 } })))
    ∧ (∀ i k, s'.inNext s'.isAnswer = some (i, k) → let s1 := s'.consume i k
        ∀ r e c s2, s.fab.reqs.find? (fun r => r.pkt.dst == k.src && r.pkt.tid == k.tid) = some r → s.fab.entries = [e] → r.entry = e.id →
          s.live e.ctx = true → k.aux ≤ 1 → e.total ≤ e.next → e.open_ = 1 →
          (k.typ = 4 ∧ c = Instr.ackReceive now ∧ s2 = s1)
            ∨ (k.typ = 3 ∧ c = Instr.dataReceive now ∧ s1.writeVa .fabric e.ctx .store 4 (e.loc + r.off) k.data = (s2, none)) →
          Completes c s fun t => t.fab.entries = [] ∧ t.mem = s2.mem
            ∧ ∀ l, e.done = some l → e.ctx < s.cm.ctxs.length →
              (t.ctx e.ctx).fabricLines = (s.ctx e.ctx).fabricLines.modify l (· + 1))
    ∧ (∀ dst tid r, s.fab.reqs.find? (fun r => r.pkt.dst == dst && r.pkt.tid == tid) = some r → r.sent + 50000 ≤ s'.now →
        (r.attempt < 2 → Completes (.requestRetry now dst tid) s fun t => ∃ y, t = State.route y r.pkt (r.attempt + 1)
          ∧ y = { s' with fab := { s.fab with retries := s.fab.retries + 1, reqs := y.fab.reqs } }
          ∧ { r with attempt := r.attempt + 1, sent := s'.now } ∈ y.fab.reqs)
        ∧ (2 ≤ r.attempt → ∀ e, s.fab.entries.find? (·.id == r.entry) = some e → Completes (.requestRetry now dst tid) s fun t =>
            t.fab.unreachable = s.fab.unreachable + 1 ∧ (∀ y ∈ t.fab.entries, y.id ≠ e.id)
            ∧ ∃ f : FaultInfo, t.cm.faultQ = s.cm.faultQ ++ [f] ∧ f.code = 0x10 ∧ f.ctx = e.ctx))
    ∧ (∀ i k q, s'.inNext (·.dst != s.fab.chipId) = some (i, k) → let s1 := s'.consume i k
        k.cls = 5 → s1.directRoute k = some q → q < s1.fab.ports.length →
        Completes (.detourForward now) s fun t => (t.port q).out = (s1.port q).out ++ [{ k with arr := s'.now }] ∧ t.fab.detours = s1.fab.detours + 1)
    ∧ (∀ c q s2 va d, s'.fabHead c q = (s2, some (va, d)) →
        let s3 := s2.fabTake c q va
        let faults (t : State) (code : Nat) : Prop := ∃ f : FaultInfo, t = { s3 with cm := { s3.cm with faultQ := s3.cm.faultQ ++ [f] } }
          ∧ f.code = code ∧ f.ctx = c ∧ f.unitId = q ∧ f.addr = va
        (field d 0 1 < 1 ∨ 3 < field d 0 1 → Completes (.fabricQueuePoll now c q) s fun t => faults t 0x02)
        ∧ (1 ≤ field d 0 1 → field d 0 1 ≤ 3 → exec (.fabricQueuePoll now c q) s = .next s2)
        ∧ ∀ k, (field d 0 1 = 1 ∧ ∃ host, k = Instr.fabricPut now c q host) ∨ (field d 0 1 = 2 ∧ k = Instr.fabricGet now c q)
            ∨ (field d 0 1 = 3 ∧ k = Instr.fabricEvent now c q) →
          (fabBad d = true → Completes k s fun t => faults t 0x02)
          ∧ (fabBad d = false → s3.bound c (field d 2 2) (field d 4 1) = false → Completes k s fun t => faults t 0x05)
          ∧ (fabBad d = false → s3.bound c (field d 2 2) (field d 4 1) = true → Completes k s fun t => ∃ y e,
              t = State.fabPump y 4096 ∧ y.fab = { s3.fab with entries := s3.fab.entries ++ [e] } ∧ y.mem = s3.mem ∧ e.id = s3.cm.nextId
              ∧ e.ctx = c ∧ e.queue = q ∧ e.op = field d 0 1 ∧ e.dst = field d 2 2 ∧ e.len = field d 8 4 ∧ e.next = 0 ∧ e.open_ = 0))
    ∧ (p < s.fab.ports.length → (s.port p).state = 2 →
        Completes (.timeFlitSend now p) s (fun t => ∃ f, t.fab.sent = s.fab.sent ++ [(p, f)])
        ∧ ∀ y, (s.port p).flits.head? = some y → y.kind = 4 → y.good = true → Completes (.timeFlitReceive now p) s fun t =>
            let f := y.bytes
            (t.port p).heard = some (field f 24 2, field f 26 1) ∧ (t.port p).timeRx = some (s'.rackTime, field f 16 8)
            ∧ (s.fab.locked = true → -50 ≤ t.fab.offset - s.fab.offset ∧ t.fab.offset - s.fab.offset ≤ 50))

/-- SMP_CS_ASSERT opens a transaction with an 84-byte response formed from the mailbox of 100 ns before; SMP_CS_DEASSERT before the 672nd edge
counts a SHORT frame. SMP_FRAME with a wrong sync byte or CRC is counted as such and leaves the mailbox unchanged; a good frame is discarded while the snapshot shows
PENDING, taken without effect as a NOP or a repeat, else taken, the mailbox showing PENDING, or ABORT for a reserved OP; in NOT_READY none is taken. SMP_NOP
changes no more than the time. SMP_READ of a scalar answers its value; of a longer object at offset 0, its first 64 bytes, the whole being captured, and at a later
offset bytes of the capture; of an index without object OBJECT_MISSING. SMP_WRITE of an RW scalar is submitted, or recorded as a member of the open build; of an RO
object it ends with ACCESS_RO and changes nothing but the mailbox and a partial write. -/
def Obligations.SerialFramesAndRequests : Prop :=
  ∀ (s : State) (now : Nat),
    let s' := s.at now
    let x := s.smp
    let onlySmp (t : State) : Prop := t = { s' with smp := t.smp }
    (x.cs = false → s.pins.pwrinGood = true → Completes (.smpCsAssert now) s fun t => onlySmp t
      ∧ ∃ m, m = x.snapshot s'.now ∧ t.smp = { x with
          cs := true, full := false, pend := m.status == 3, resp := t.smp.resp, lastBad := false, lastDiscarded := false }
        ∧ t.smp.resp.length = 84 ∧ field t.smp.resp 0 1 = 0x5A ∧ field t.smp.resp 1 1 = m.status % 256)
    ∧ (x.cs = true →
        (x.full = true → exec (.smpCsDeassert now) s = .next { s' with smp := { x with cs := false, resp := [] } })
        ∧ (x.full = false → exec (.smpCsDeassert now) s = .next { s' with
            smp := { x with cs := false, resp := [], lastBad := true, frameErrors := x.frameErrors + 1, lastError := 1 } }))
    ∧ (∀ f : List Byte, x.cs = true → x.full = false → f.length = 84 →
        let r := parseSmp f
        let good := field f 0 1 = 0xA5 ∧ field f 80 4 = crc32 (f.take 80)
        (¬good → Completes (.smpFrame now f) s fun t => t = { s' with smp := { x with
            full := true, lastBad := true, frameErrors := x.frameErrors + 1, lastError := if field f 0 1 = 0xA5 then 3 else 2 } })
        ∧ (good → s.serving = false → exec (.smpFrame now f) s = .next { s' with smp := { x with full := true } })
        ∧ (good → s.serving = true →
            (x.pend = true → exec (.smpFrame now f) s = .next { s' with
              smp := { x with full := true, lastDiscarded := true, discards := x.discards + 1 } })
            ∧ (x.pend = false → r.op = 0 → exec (.smpFrame now f) s = .next { s' with smp := { x with full := true, taken := x.taken + 1 } })
            ∧ (x.pend = false → r.op ≠ 0 → x.mail.req.any r.same = true → exec (.smpFrame now f) s = .next { s' with
                smp := { x with full := true, taken := x.taken + 1, repeats := x.repeats + 1 } })
            ∧ (x.pend = false → r.op ≠ 0 → x.mail.req.any r.same = false → Completes (.smpFrame now f) s fun t => onlySmp t
                ∧ t.smp.taken = x.taken + 1 ∧ t.smp.mail.req = some r
                ∧ (r.op < 3 → t.smp.mail.status = 3 ∧ t.smp.job = some r)
                ∧ (3 ≤ r.op → t.smp.mail.status = 2 ∧ t.smp.mail.data = toLe 4 0x01000001 ∧ t.smp.job = none))))
    ∧ exec (.smpNop now) s = .next s'
    ∧ ∀ r, x.job = some r → s.serving = true → x.mail.status = 3 → r.header = true →
        let ends (t : State) (status : Nat) (data : List Byte) : Prop :=
          t.smp.mail = { x.mail with since := s'.now, status := status, typ := t.smp.mail.typ, total := t.smp.mail.total, gen := s.cm.applyGen, data := data }
          ∧ t.smp.job = none
        (r.op = 1 → s'.dict r.index = [] → Completes (.smpRead now) s fun t => onlySmp t ∧ ends t 2 (toLe 4 0x01000002))
        ∧ ∀ o, s'.dict r.index ≠ [] → pickObj (s'.dict r.index) r.sub = some o → s.phase ≠ .rom →
          (r.op = 1 → o.acc = .ro ∨ o.acc = .rw →
            (scalar o.typ = true → r.offset = 0 → Completes (.smpRead now) s fun t => onlySmp t ∧ ends t 1 o.bytes
              ∧ t.smp.mail.typ = o.typ ∧ t.smp.mail.total = o.bytes.length)
            ∧ (scalar o.typ = false → r.offset = 0 → Completes (.smpRead now) s fun t => onlySmp t ∧ ends t 1 (o.bytes.take 64)
                ∧ t.smp.capture = some ⟨r.index, r.sub, o.bytes⟩)
            ∧ (∀ c, scalar o.typ = false → 0 < r.offset → r.offset ≤ o.bytes.length → x.capture = some c → Completes (.smpRead now) s fun t =>
                onlySmp t ∧ ends t 1 ((c.bytes.drop r.offset).take 64) ∧ t.smp.capture = some ⟨r.index, r.sub, c.bytes⟩))
          ∧ (r.op = 2 → x.waits = false → o.acc = .ro → Completes (.smpWrite now) s fun t =>
              t = { s' with smp := t.smp } ∧ ends t 2 (toLe 4 0x01000004) ∧ t.smp.partial_ = none)
          ∧ ∀ tgt, r.op = 2 → x.waits = false → o.acc = .rw → o.tgt = some tgt → scalar o.typ = true → r.offset = 0 →
              r.data.length = o.bytes.length → s.phase = .ready → s.gatedNow (gateOf r.index) = false →
              let s0 : State := { s' with smp := { x with partial_ := none } }
              let v := leNat r.data
              (∀ b, x.commits.build = some b → (∀ m ∈ b.members, ¬(m.index = r.index ∧ m.sub = r.sub)) → b.members.length < 32 →
                s0.valueBad tgt v = 0 → Completes (.smpWrite now) s fun t => onlySmp t ∧ ends t 1 []
                  ∧ t.smp.commits = { x.commits with build := some { b with members := b.members ++ [⟨r.index, r.sub, v⟩] } })
              ∧ ∀ s2, x.commits.build = none → s0.valueBad tgt v = 0 → s0.submit [⟨tgt, v⟩] false = (s2, 0, false) → s2.smp = s0.smp →
                  Completes (.smpWrite now) s fun t => t = { s2 with smp := t.smp } ∧ t.smp.mail.status = 1 ∧ t.smp.mail.req = x.mail.req
                    ∧ t.smp.job = none

/-- In service, with the SMP free to take them: COMMIT_OPEN with no build open and fewer than 8 commits pending opens an empty build; with one open it leaves the build
and keeps COMMIT_SEQUENCE as LAST_ABORT. COMMIT_EXECUTE of an empty build closes it with result 0 and no apply; of a build that is refused, result and failing member
are shown and COMMIT_REFUSED is logged; of one that applies, CommitGeneration is the apply generation. COMMIT_DISCARD closes the build. COMMIT_BUILD_TIMEOUT after 1 s
without a request closes it with COMMIT_SEQUENCE, on the chip and on a tray controller. POWER_DOWN_ORDERLY with no live context makes PowerDownState 1 and kills
nothing; with one it is refused. POWER_DOWN_FORCED kills every live context with HOST_KILL. POWER_DOWN_DONE with nothing left to drain leaves no line in the device
cache and makes it 2. -/
def Obligations.CommitsAndPowerDown : Prop :=
  ∀ (s : State) (now : Nat), s.phase = .ready →
    let s' := s.at now
    let c := s.smp.commits
    let onlySmp (t : State) : Prop := t = { s' with smp := t.smp }
    (c.build = none → s.commitsPending < 8 → Completes (.commitOpen now) s fun t => onlySmp t
      ∧ t.smp.commits = { c with build := some { members := [], last := s'.now } })
    ∧ (∀ b, c.build = some b →
        (Completes (.commitOpen now) s fun t => t.smp.commits = c ∧ t = { s' with smp := t.smp, cm := { s.cm with lastAbort := 0x03000006 } })
        ∧ (Completes (.commitDiscard now) s fun t => onlySmp t ∧ t.smp.commits = { c with build := none })
        ∧ (b.last + 1000000000 ≤ s'.now → exec (.commitBuildTimeout none now) s
            = .next { s' with smp := { s.smp with commits := { c with build := none, result := 0x03000006 } } })
        ∧ (s'.now < b.last + 1000000000 → exec (.commitBuildTimeout none now) s = .next s')
        ∧ (b.members = [] → Completes (.commitExecute now) s fun t => onlySmp t ∧ t.smp.commits = { c with build := none, result := 0 })
        ∧ (b.members ≠ [] →
            let s0 : State := { s' with smp := { s.smp with commits := { c with build := none } } }
            let l := s0.memberSettings b.members
            (∀ s2 code waits, s0.submit l true = (s2, code, waits) → code ≠ 0 → s2.smp = s0.smp → Completes (.commitExecute now) s fun t =>
              t.smp.commits = { c with build := none, result := code, failMember := s0.failMember b.members (s0.changeCheck l true) }
              ∧ t.log = s2.log.add 64 s2.now 0x0011 6 1 (toLe 4 code ++ toLe 4 t.smp.commits.failMember)
              ∧ t = { s2 with smp := t.smp, log := t.log })
            ∧ (∀ s2, s0.submit l true = (s2, 0, true) → strictest l = .epoch → s2.smp = s0.smp → s.smp.waits = false →
                Completes (.commitExecute now) s fun t => t.smp.commits = { c with build := none, result := 0, failMember := 0 }
                  ∧ t = { s2 with smp := t.smp })
            ∧ ∀ s2, s0.submit l true = (s2, 0, false) → s2.smp = s0.smp → s.smp.waits = false → Completes (.commitExecute now) s fun t =>
                t.smp.commits = { c with build := none, result := 0, failMember := 0, generation := s2.cm.applyGen }
                ∧ t = { s2 with smp := t.smp }))
    ∧ (∀ who, who < 3 → ∀ b, (s.trayAt who).commits.build = some b → let u := (s.trayAt who).at now
        b.last + 1000000000 ≤ u.time → exec (.commitBuildTimeout (some who) now) s
          = .next (s.setTray who { u with commits := { u.commits with build := none, result := 0x03000006 } }))
    ∧ (s.clocked = true → c.build = none → s.cm.drain = none →
        ((∀ i, i < 64 → s.live i = false) → Completes (.powerDownOrderly now) s fun t =>
          t = { s' with smp := t.smp, boot := { s.boot with powerDown := 1 } } ∧ t.smp.commits = c)
        ∧ (∀ i, i < 64 → s.live i = true → Completes (.powerDownOrderly now) s fun t =>
            t = { s' with smp := t.smp, cm := { s.cm with lastAbort := 0x03000005 } } ∧ t.smp.commits = c)
        ∧ (s.cm.ctxs.length = 64 → Completes (.powerDownForced now) s fun t => t.boot = { s.boot with powerDown := 1 }
            ∧ (∀ i, s.live i = true → KillStarted t i 0x0F) ∧ ∀ i, s.live i = false → t.ctx i = s.ctx i))
    ∧ (s.clocked = true → s.boot.powerDown = 1 → s.downReady = true → Completes (.powerDownDone now) s fun t =>
        t.phase = .down ∧ t.boot = { s.boot with powerDown := 2 } ∧ t.mem.dc = [] ∧ t = { s' with phase := .down, mem := t.mem, boot := t.boot })

/-- PLINTH_REQUEST and REQUEST_RESEND of a message that is not for the controller change nothing; of the request that the controller keeps from its requester they send the
stored response again and count it, or nothing while it is being performed; with a reserved header byte, OP or TARGET they answer INVALID_REQUEST. A READ of a scalar of the
controller's own dictionary is answered with its value. A request to a chip joins that chip's queue, and is sent on where the queue was empty; it is refused with BRIDGE_FAILED
on a failed channel, BRIDGE_BUSY with 16 queued, COMMIT_SEQUENCE for a WRITE while another owns a build there. A final status OK answers the front request with the chip's
data and sends the next one on; a lasting error fails the channel, empties its queue and logs SMP_LASTING. BRIDGE_TIMEOUT after 6 ms answers BRIDGE_TIMEOUT. -/
def Obligations.PlinthRequestsAndTheBridge : Prop :=
  ∀ (s : State) (who now src : Nat) (msg : List Byte) (obs : ChipObs), who < 3 →
    let u := (s.trayAt who).at now
    let r := parseMsg src msg
    let pos := r.target - 1
    let ch := u.chan pos
    let goes (P : Tray → Prop) : Prop :=
      ∀ c ∈ [Instr.plinthRequest who now src msg obs [], Instr.requestResend who now src msg obs []],
        Completes c s fun t => t = s.setTray who (t.trayAt who) ∧ P (t.trayAt who)
    let answered (v : Tray) (status : Nat) (data : List Byte) : Prop :=
      ∃ out, v.sent = u.sent ++ [.response src out] ∧ Answers r out status data ∧ v.modules = u.modules ∧ v.state = u.state
    let kept := u.asked.find? fun a => a.src == src && a.key == r.key
    u.channels.length = 4 →
    (¬u.takes src msg → goes fun v => v = u)
    ∧ (u.takes src msg →
        (∀ a, kept = some a → goes fun v => v = match a.answer with
          | some m => { u with duplicates := u.duplicates + 1, sent := u.sent ++ [.response src m] }
          | none => u)
        ∧ (kept = none → (r.header = false ∨ 2 < r.op ∨ 4 < r.target) → goes fun v => answered v 2 (toLe 4 0x01000001))
        ∧ (kept = none → r.header = true → r.op = 1 → r.target = 0 → u.images.selected ≠ 0xFF → ∀ o, u.dict r.index ≠ [] →
            pickObj (u.dict r.index) r.sub = some o → o.acc = .ro ∨ o.acc = .rw → scalar o.typ = true → r.offset = 0 → o.bytes.length ≤ 8 →
            goes fun v => answered v 1 o.bytes)
        ∧ (kept = none → r.header = true → r.op ≤ 2 → 1 ≤ r.target → r.target ≤ 4 → u.images.selected ≠ 0xFF → (r.op = 2 → r.fits = true) →
            (r.op = 2 → u.owned pos (some src) = true → goes fun v => answered v 2 (toLe 4 0x03000006) ∧ v.channels = u.channels)
            ∧ ((r.op = 2 → u.owned pos (some src) = false) →
                (ch.state = 1 → goes fun v => answered v 2 (toLe 4 0x04000002) ∧ v.channels = u.channels)
                ∧ (ch.state ≠ 1 → 16 ≤ ch.queue.length → goes fun v => answered v 2 (toLe 4 0x04000003) ∧ v.channels = u.channels)
                ∧ (ch.state ≠ 1 → ch.queue.length < 16 → goes fun v => (v.chan pos).queue = ch.queue ++ [⟨src, msg, u.time⟩]
                    ∧ v.sent = u.sent ++ (if ch.queue = [] then chipMsgs pos msg else []) ∧ ∀ p, p ≠ pos → v.chan p = u.chan p))))
    ∧ (∀ (f : BridgeFinal) (b : Bridged) (rest : List Bridged), f.pos < 4 → (u.chan f.pos).queue = b :: rest →
        let ends (P : Tray → Prop) : Prop := Completes (.plinthRequest who now src [] obs [f]) s fun t =>
          t = s.setTray who (t.trayAt who) ∧ P (t.trayAt who)
        (f.status = 1 → f.data.length ≤ mediumMax b.src → ends fun v => ∃ out, Answers (parseMsg b.src b.msg) out 1 f.data
          ∧ v.sent = u.sent ++ [.response b.src out] ++ (rest.take 1).flatMap (fun x => chipMsgs f.pos x.msg)
          ∧ (v.chan f.pos).queue.map (·.msg) = rest.map (·.msg) ∧ (v.chan f.pos).state = 0
          ∧ (v.chan f.pos).transients = (u.chan f.pos).transients + f.transients)
        ∧ (f.status = 0xFF → ends fun v => (v.chan f.pos).state = 1 ∧ (v.chan f.pos).queue = [] ∧ (v.chan f.pos).lasting = (u.chan f.pos).lasting + 1
            ∧ v.log = u.log.add 1024 u.time 0x0082 0xFF 2 (toLe 1 f.pos) ∧ v.sent.length = u.sent.length + (rest.length + 1)
            ∧ ∃ out, .response b.src out ∈ v.sent ∧ Answers (parseMsg b.src b.msg) out 2 (toLe 4 0x04000002)))
    ∧ ∀ (p : Nat) (b : Bridged) (rest : List Bridged), let w := s.tray.at now
        w.channels.length = 4 → p < 4 → (w.chan p).queue = b :: rest →
        (w.time < b.sent + 6000000 → exec (.bridgeTimeout now p) s = .next { s with tray := w })
        ∧ (b.sent + 6000000 ≤ w.time → Completes (.bridgeTimeout now p) s fun t => t = { s with tray := t.tray }
            ∧ (t.tray.chan p).queue.map (·.msg) = rest.map (·.msg) ∧ ∃ out, Answers (parseMsg b.src b.msg) out 2 (toLe 4 0x04000001)
            ∧ t.tray.sent = w.sent ++ [.response b.src out] ++ (rest.take 1).flatMap (fun x => chipMsgs p x.msg))

/-- On a controller free to perform the write. SERVICE_DRAIN from RUNNING with no live context, and SERVICE_DRAIN_FORCED from RUNNING, begin a tray drain: AdminDown 1 goes to every
port of every powered chip; with a live context, or from another state, DRAIN ends with STATE_CONFLICT. SERVICE_PULL from DRAINED opens the bus connection; SERVICE_RESUME
from DRAINED or FAULT with no leak starts from step 1. TRAY_DRAIN_OBJECT_WRITE of RackNumber in DRAINED takes effect at once; in RUNNING it begins a drain that carries the
change, and no response is sent yet. MODULE_CYCLE removes the power of a module that a thermal trip unpowered or that has powered down. BER_INSTALL begins the install test, and is refused with a live
context. CAN_LOOPBACK keeps the frames that came back and sends a STATE frame before and after. IMAGE_BLOCK stages its bytes at ImageOffset, which goes on by 1,024. IMAGE_SAVE
begins the save of a valid staged image, else shows state 3. SMP_REENABLE makes the channel OK. -/
def Obligations.TrayCommandObjects : Prop :=
  ∀ (s : State) (who now src seq : Nat) (obs : ChipObs), who < 3 →
    let u := s.tray.at now
    let x := (s.trayAt who).at now
    let writes (c : Instr) (index sub : Nat) (d : List Byte) (code : Nat) (f : Tray) : Prop :=
      u.free src seq index sub d → Completes c s fun t => TrayDone s t 0 src code f
    let writesAt (c : Instr) (index sub : Nat) (d : List Byte) (f : Tray) : Prop :=
      x.free src seq index sub d → Completes c s fun t => TrayDone s t who src 0 f
    let live : Bool := u.on.any fun p => bitAt obs.live p
    let drains (f : Tray) (forced : Bool) (change : Option TrayChange) : Prop :=
      f.state = 4 ∧ f.drain = some { forced := forced, change := change }
      ∧ ((∀ p, u.owned p none = false) → f.sent = u.sent ++ u.on.flatMap fun p => (List.range 18).map fun q => .chipWrite p (0x4010 + q) 8 1)
      ∧ f = { u with state := 4, drain := f.drain, sent := f.sent }
    u.kind = 2 → u.modules.length = 4 → u.channels.length = 4 →
    (u.state = 3 → live = false → ∃ f, drains f false none ∧ writes (.serviceDrain now src seq obs) 0x8000 0x0A [1] 0 f)
    ∧ ((u.state ≠ 3 ∨ live = true) → writes (.serviceDrain now src seq obs) 0x8000 0x0A [1] 0x03000005 u)
    ∧ (u.state = 3 → ∃ f, drains f true none ∧ writes (.serviceDrainForced now src seq obs) 0x8000 0x0A [2] 0 f)
    ∧ (u.state ≠ 3 → writes (.serviceDrainForced now src seq obs) 0x8000 0x0A [2] 0x03000005 u)
    ∧ (u.state = 5 → writes (.servicePull now src seq) 0x8000 0x0A [3] 0 { u with busOpen := true, state := 6, sent := u.sent ++ [.busOpen] })
    ∧ (u.state ≠ 5 → writes (.servicePull now src seq) 0x8000 0x0A [3] 0x03000005 u)
    ∧ (u.state = 5 ∨ u.state = 7 → u.sensed.wet = false → writes (.serviceResume now src seq) 0x8000 0x0A [4] 0
        { u with state := 1, failed := 0, leakOff := none, start := some { step := 1, since := u.time } })
    ∧ (∀ v, v ≤ 7 → u.drain = none →
        (u.state = 5 → writes (.trayDrainObjectWrite now src seq 3 v obs) 0x8000 3 (toLe 1 v) 0 { u with
            persist := { u.persist with rackNumber := v }, generation := (u.generation + 1) % 2 ^ 32, images := { u.images with dictDue := true } })
        ∧ (u.state = 3 → live = false → u.free src seq 0x8000 3 (toLe 1 v) → Completes (.trayDrainObjectWrite now src seq 3 v obs) s fun t =>
            t = { s with tray := t.tray } ∧ t.tray.persist = u.persist ∧ ∃ f, t.tray = { f with asked := t.tray.asked, capture := none, partial_ := none }
              ∧ drains f false (some ⟨[⟨0x8000, 3, v⟩], ⟨src, u.writeMsg src seq 0x8000 3 (toLe 1 v), u.time⟩, false⟩))
        ∧ (u.state = 3 → live = true → writes (.trayDrainObjectWrite now src seq 3 v obs) 0x8000 3 (toLe 1 v) 0x03000005 u))
    ∧ (∀ p, p < 4 → (u.mod p).cycle = 0 →
        ((u.mod p).powered = false → (u.mod p).tripped = true → writes (.moduleCycle now src seq (p + 1) obs) 0x8000 0x0B (toLe 1 (p + 1)) 0
          { u with modules := u.modules.modify p fun m => { m with cycle := 1, since := u.time } })
        ∧ ((u.mod p).powered = true → obs.pd.getD p 0 = 2 → writes (.moduleCycle now src seq (p + 1) obs) 0x8000 0x0B (toLe 1 (p + 1)) 0
            { u with
              modules := u.modules.modify p fun m => { m with powered := false, perst := true, swapped := false, cycle := 1, since := u.time }
              sent := u.sent ++ [.modulePower p false] })
        ∧ ((u.mod p).powered = true → obs.pd.getD p 0 ≠ 2 →
            writes (.moduleCycle now src seq (p + 1) obs) 0x8000 0x0B (toLe 1 (p + 1)) 0x03000005 u))
    ∧ (u.ber.state = 0 → live = false → writes (.berInstall now src seq obs) 0x8020 1 [1] 0
        { u with ber := { u.ber with state := 1, start := u.time } })
    ∧ (live = true → writes (.berInstall now src seq obs) 0x8020 1 [1] 0x03000005 u)
    ∧ (x.busOpen = false → let f : TrayOut := .frame 1 (toLe 1 3 ++ toLe 1 x.node ++ toLe 2 0 ++ x.block)
        writesAt (.canLoopback who now src seq obs) 0x8030 1 [1]
          { x with sentBlock := x.block, canLoopback := min obs.intact 50, sent := x.sent ++ [f, f] })
    ∧ (∀ d : List Byte, d.length = 1024 → 64 ≤ src → x.images.state ≠ 1 → x.images.offset < 2 ^ 25 →
        writesAt (.imageBlock who now src seq d) 0x8050 5 d { x with images := { x.images with
          staging := Mem.putAll (some 0xFF) x.images.staging x.images.offset d, offset := x.images.offset + 1024 } })
    ∧ (x.images.state ≠ 1 → writesAt (.imageSave who now src seq) 0x8050 6 [1] { x with images := { x.images with
        state := if copyValid x.images.staging imageMagic imageSize then 1 else 3 } })
    ∧ ∀ p, p < 4 → writes (.smpReenable now src seq p 1) (0x8100 + p) 4 [1] 0
        { u with channels := u.channels.modify p fun c => { c with state := 0 } }

/-- STATE_FRAME_SEND and EMERGENCY_FRAME_SEND send the 60-byte block of what was sensed, the second where the alarms differ from those last sent. STATE_FRAME_RECEIVE keeps
the node's block and no other node's changes; a lower count of healthy shelves takes effect at once, a higher one waits; a CDU that announces a stop within 30 s starts an orderly
drain of a running tray, within 5 s powers down every chip by force and the host off. STATE_FRAME_TIMEOUT forgets a node after 50 ms. BUS_LOST applies the ceiling of five
shelves and writes each chip's cap; CEILING_RAISE takes the higher count after 10 s; CAP_CHECK writes again a cap found above the one written. FLOW_SAMPLE deasserts COOLANT_OK
at the third sample below 6.0 L/min and asserts it after 5 s of good flow, resetting chips. LEAK_POWER_REMOVE unpowers modules and host; MODULE_THERMTRIP one module. -/
def Obligations.RackBusCeilingsAndCoolant : Prop :=
  ∀ (s : State) (who now : Nat), who < 3 →
    let x := (s.trayAt who).at now
    let u := s.tray.at now
    let goes (c : Instr) (P : Tray → Prop) : Prop := Completes c s fun t => t = s.setTray who (t.trayAt who) ∧ P (t.trayAt who)
    let only (c : Instr) (P : Tray → Prop) : Prop := Completes c s fun t => t = { s with tray := t.tray } ∧ P t.tray
    let wrote (v w : Tray) (p index sub val : Nat) : Prop := v.owned p none = false → .chipWrite p index sub val ∈ w.sent
    x.modules.length = 4 → u.modules.length = 4 →
    (∀ o : TraySense, let y := x.sense o
        let frame (code kind : Nat) : TrayOut := .frame code (toLe 1 kind ++ toLe 1 x.node ++ toLe 2 0 ++ y.block)
        x.busOpen = false →
        y.block.length = 60
        ∧ (goes (.stateFrameSend who now o) fun v => v = { y with sentBlock := y.block, sent := x.sent ++ [frame 1 3] })
        ∧ (y.alarms ≠ field x.sentBlock 4 4 → goes (.emergencyFrameSend who now o) fun v =>
            v = { y with sentBlock := y.block, sent := x.sent ++ [frame 0 4] })
        ∧ (y.alarms = field x.sentBlock 4 4 → goes (.emergencyFrameSend who now o) fun v => v = y))
    ∧ (∀ (node : Nat) (em : Bool) (block : List Byte), block.length = 60 → node < 64 → node ≠ x.node → x.busOpen = false →
        (goes (.stateFrameReceive who now node em block) fun v => v.heard node = some { node := node, time := x.time, block := block }
          ∧ (∀ k, k ≠ node → v.heard k = x.heard k) ∧ (em = false → v.lastFrame = x.time)
          ∧ (x.kind = 2 → x.busLost = false → node ≠ 29 → let n := v.countHealthy
              v.healthy = n ∧ (n < x.ceilHealthy → v.ceilHealthy = n ∧ v.higher = none)
              ∧ (x.ceilHealthy < n → v.ceilHealthy = x.ceilHealthy ∧ v.higher ≠ none)))
        ∧ (who = 0 → u.kind = 2 → node = 29 → let ms := field block 24 4
            (u.state = 3 → 5000 < ms → ms ≤ 30000 → only (.stateFrameReceive 0 now 29 em block) fun v =>
              v.state = 4 ∧ v.drain = some { forced := false, planned := true })
            ∧ (0 < ms → ms ≤ 5000 → u.state = 3 ∨ u.state = 4 → u.drain = none → only (.stateFrameReceive 0 now 29 em block) fun v =>
                v.hostOn = false ∧ (v.state = 4 ∨ v.state = 5) ∧ ∀ p ∈ u.on, wrote u v p 0x2090 1 2)))
    ∧ (∀ node, (∃ h ∈ x.rack, h.node = node ∧ h.fresh = true ∧ h.time + 50000000 < x.time) →
        goes (.stateFrameTimeout who now node) fun v => v.heard node = none ∧ ∀ k, k ≠ node → v.heard k = x.heard k)
    ∧ (u.busLost = false → u.lastFrame + 50000000 ≤ u.time → only (.busLost now) fun v => v.busLost = true ∧ v.ceilHealthy = 5
        ∧ ∀ p ∈ u.on, wrote u v p 0x2000 2 (min (u.persist.chipCapW.getD p 1500) ((min 6500 u.persist.limitW - 800) / 4)))
    ∧ (∀ h, u.busLost = false → u.higher = some h → h + 10000000000 ≤ u.time → only (.ceilingRaise now) fun v =>
        v.ceilHealthy = u.healthy ∧ v.higher = none)
    ∧ (∀ caps : List Nat, only (.capCheck now caps) fun v => v = { u with sent := v.sent }
        ∧ ∀ p ∈ u.on, (u.mod p).capLast < caps.getD p 0 → wrote u v p 0x2000 2 (u.mod p).capLast)
    ∧ (∀ flow supply ret latched wet, u.kind = 2 →
        (u.coolantOk = true → flow < 600 → 2 ≤ u.lowFlow → only (.flowSample 0 now flow supply ret latched wet) fun v =>
          v.coolantOk = false ∧ .coolantOk false ∈ v.sent ∧ v.flowStops = u.flowStops + 1 ∧ (u.state = 3 → wet = false → v.state = 8)
          ∧ (wet = true → u.state ≠ 7 → u.leakOff = none → v.leakOff = some (u.time + 100000000)))
        ∧ (∀ f, u.coolantOk = false → u.flowLost = true → 1050 ≤ flow → latched = true → wet = false → u.flowSince = some f →
            f + 5000000000 ≤ u.time → u.okAt + 10000000 ≤ u.time → u.state = 8 → u.leakOff = none → u.start = none →
            only (.flowSample 0 now flow supply ret latched wet) fun v => v.coolantOk = true ∧ v.state = 3 ∧ .coolantOk true ∈ v.sent
              ∧ ∀ p ∈ u.on, wrote u v p 0x7000 4 1))
    ∧ (∀ t0, u.leakOff = some t0 → t0 ≤ u.time → only (.leakPowerRemove now) fun v =>
        v.state = 7 ∧ v.hostOn = false ∧ v.leakOff = none ∧ ∀ p, (v.mod p).powered = false ∨ 4 ≤ p)
    ∧ ∀ p, p < 4 → (u.mod p).powered = true → only (.moduleThermtrip now p) fun v => (v.mod p).powered = false ∧ (v.mod p).tripped = true
        ∧ (∀ q, q ≠ p → v.mod q = u.mod q) ∧ v.sent = u.sent ++ [.modulePower p false]

/-- TRAY_START_STEP goes on from each step whose condition holds: COOLANT_OK after step 3, the host after 4, the enabled modules that have not tripped after 5; once every chip has booted well, each has
its ChipId written and PERST_N released, and the tray runs. SWITCH_WAIT_TIMEOUT lets one switch tray do; HOST_STANDBY_TIMEOUT and CHIP_READY_TIMEOUT end in FAULT.
SWITCH_TRAY_START, MANAGEMENT_TRAY_START and SWITCH_TRAY_POWER_OFF switch the load. TRAY_DRAIN_STEP writes PowerDown once every port is down, removes power and signals
the host once every chip has powered down, and is DRAINED once the host is off; HOST_SHUTDOWN_TIMEOUT ends it after 120 s. BER_INSTALL_END records each lane;
BER_PERIODIC tests the first port that is spare-capable; BER_PORT_TEST_END puts it back in service, or holds it where a lane failed. -/
def Obligations.TraysStartDrainAndTest : Prop :=
  ∀ (s : State) (now : Nat),
    let u := s.tray.at now
    let x := s.sw.at now
    let y := s.mgmt.at now
    let only (c : Instr) (P : Tray → Prop) : Prop := Completes c s fun t => t = { s with tray := t.tray } ∧ P t.tray
    let wrote (w : Tray) (p index sub val : Nat) : Prop := u.owned p none = false → .chipWrite p index sub val ∈ w.sent
    let done : Tray := { u with state := 2, start := some { step := 5, since := u.time }, hostOn := true
                                sent := u.sent ++ if u.hostOn then [] else [.hostPower true] }
    u.modules.length = 4 →
    (∀ (o : StartObs) (st : TrayStart), u.start = some st →
      (st.step = 1 → 1000 ≤ o.busMs → o.lidClosed = true → only (.trayStartStep now o) fun v =>
        v = { u with state := 1, start := some { step := 2, since := u.time } })
      ∧ (st.step = 2 → u.cduGood = true → only (.trayStartStep now o) fun v => v = { u with start := some { step := 3, since := u.time } })
      ∧ (st.step = 3 → u.flowGood = true → u.okAt + 10000000 ≤ u.time → only (.trayStartStep now o) fun v =>
          v.coolantOk = true ∧ v.start = some { step := 4, since := u.time })
      ∧ (st.step = 4 → (∀ i, i < 4 → u.running (24 + i) = true) → only (.trayStartStep now o) fun v => v = done)
      ∧ (st.step = 5 → o.hostReady = true → only (.trayStartStep now o) fun v => v.start = some { step := 6, since := u.time }
          ∧ ∀ p, p < 4 →
              (bitAt u.persist.moduleEnable p = true → (u.mod p).tripped = false → (v.mod p).powered = true ∧ (v.mod p).cycle = 2
                ∧ (v.mod p).perst = true ∧ .chipReset p false ∈ v.sent)
              ∧ (bitAt u.persist.moduleEnable p = false ∨ (u.mod p).tripped = true → v.mod p = u.mod p))
      ∧ (st.step = 6 → (∀ p ∈ u.on, (u.mod p).cycle = 2 ∧ bitAt o.notReady p = false ∧ bitAt o.manufacture p = false ∧ o.boot.getD p 0 = 0) →
          only (.trayStartStep now o) fun v => v.state = 3 ∧ v.start = none ∧ ∀ p ∈ u.on, (v.mod p).perst = false ∧ .perst p false ∈ v.sent
            ∧ wrote v p 0x4000 1 (place u.persist.rackNumber 7 3 + place u.slot 2 5 + p))
      ∧ (st.step = 4 → st.since + 120000000000 ≤ u.time → (∃ i, i < 4 ∧ u.running (24 + i) = true) →
          only (.switchWaitTimeout now) fun v => v = done)
      ∧ (st.step = 5 → st.since + 60000000000 ≤ u.time → only (.hostStandbyTimeout now) fun v =>
          v.state = 7 ∧ v.start = none ∧ bitAt v.failed 15 = true))
    ∧ ((∃ m ∈ u.modules, m.powered = true ∧ m.cycle = 2 ∧ m.since + 2000000000 ≤ u.time) → only (.chipReadyTimeout now) fun v =>
        v.state = 7 ∧ v.start = none ∧ bitAt v.failed 11 = true)
    ∧ (x.powered = false → x.cduGood = true → x.flowGood = true → exec (.switchTrayStart now 1000) s
        = .next { s with sw := { x with powered := true, state := 3, noCompute := none, sent := x.sent ++ [.load true] } })
    ∧ (∀ n, x.powered = true → x.noCompute = some n → n + 10000000000 ≤ x.time → exec (.switchTrayPowerOff now) s
        = .next { s with sw := { x with powered := false, state := 1, noCompute := none, sent := x.sent ++ [.load false] } })
    ∧ (y.powered = false → exec (.managementTrayStart now 1000) s
        = .next { s with mgmt := { y with powered := true, state := 3, noCompute := none, sent := y.sent ++ [.load true] } })
    ∧ (∀ (d : TrayDrain) (o : ChipObs), u.drain = some d →
        (d.step = 1 → d.planned = false → (∀ p ∈ u.on, o.pd.getD p 0 = 0 ∧ bitAt o.adminDown p = true) → only (.trayDrainStep now o) fun v =>
          v.drain = some { d with step := 2 } ∧ ∀ p ∈ u.on, wrote v p 0x2090 1 (if d.forced then 2 else 1))
        ∧ (d.step = 2 → u.hostOn = true → (∀ p ∈ u.on, o.pd.getD p 0 = 2 ∨ o.pd.getD p 0 = 3) → only (.trayDrainStep now o) fun v =>
            v.drain = some { d with step := 4, shutdownAt := u.time } ∧ .hostShutdown ∈ v.sent
            ∧ ∀ p ∈ u.on, (v.mod p).powered = false ∧ .modulePower p false ∈ v.sent)
        ∧ (d.step = 4 → o.hostOff = true →
            (d.change = none → only (.trayDrainStep now o) fun v => v.state = 5 ∧ v.drain = none ∧ v.hostOn = false)
            ∧ ∀ c, d.change = some c → c.members = [⟨0x8000, 3, 5⟩] → only (.trayDrainStep now o) fun v => v.persist.rackNumber = 5
                ∧ v.state = 1 ∧ v.start = some { step := 1, since := u.time } ∧ v.drain = none ∧ ∃ out, .response c.ask.src out ∈ v.sent)
        ∧ (d.step = 4 → d.shutdownAt + 120000000000 ≤ u.time → d.change = none → only (.hostShutdownTimeout now) fun v =>
            v.state = 5 ∧ v.drain = none ∧ v.hostOn = false ∧ bitAt v.failed 15 = true))
    ∧ (∀ o : BerObs, o.pos < 4 → o.port < 18 → u.ber.results.length = 4 → (u.ber.results.getD o.pos []).length = 144 →
        let fails (l : Nat) : Bool := laneFails (o.syms.getD l 0) o.bits o.bad
        (u.ber.state = 1 → u.ber.start + 120000000000 ≤ u.time → only (.berInstallEnd now [o]) fun v => v.ber.state = 0 ∧ v.ber.held = u.ber.held
          ∧ ∀ l, l < 8 → (v.ber.results.getD o.pos []).getD (8 * o.port + l) 0 = laneResult (o.syms.getD l 0) o.bits o.bad
            ∧ (144 * o.pos + (8 * o.port + l) ∈ v.ber.bad ↔ fails l = true))
        ∧ (∀ since spare, u.ber.state = 2 → u.ber.port = some (o.pos, o.port, since) → since + 10000000000 ≤ u.time → u.ber.next = [] →
            only (.berPortTestEnd now o spare) fun v => v.ber.state = 0 ∧ v.ber.port = none ∧ v.ber.lastPeriodic = u.time
              ∧ ((∃ l, l < 8 ∧ fails l = true) → (o.pos, o.port) ∈ v.ber.held ∧ v.sent = u.sent)
              ∧ ((∀ l, l < 8 → fails l = false) → wrote v o.pos (0x4010 + o.port) 8 0)))
    ∧ ∀ up spare, u.state = 3 → u.ber.state = 0 → u.ber.periodicAt + 86400000000000 ≤ u.time →
        let all := ((List.range 72).map fun i => (i / 18, i % 18)).filter fun z => up.contains z && testedHere z.1 z.2
        (all = [] → only (.berPeriodic now up spare) fun v => v.ber.state = 0 ∧ v.ber.lastPeriodic = u.time ∧ v.ber.periodicAt = u.time)
        ∧ ∀ p q rest, all = (p, q) :: rest → spare.contains (p, q) = true → only (.berPeriodic now up spare) fun v =>
            v.ber.state = 2 ∧ v.ber.port = some (p, q, u.time) ∧ v.ber.next = rest ∧ v.ber.skipped = u.ber.skipped
            ∧ wrote v p (0x4010 + q) 8 1 ∧ wrote v p 0x7100 1 (6 + place q 8 8 + place 1 16 8 + place 10000 32 32)

/-- IMAGE_SAVE_COMPLETE of a save under way, and DICT_SAVE after a change, leave both copies equal, with SEQ one above the higher SEQ; the image's other bytes are as staged. TRAY_CONTROLLER_START, no flash
byte changed: time is 0; two valid equal image copies select A and change neither; one valid copy is selected, both are then equal, and IMAGE_DIVERGE 1 is logged; with none valid nothing is
selected and the tray is in FAULT. With no valid dictionary copy the persisted objects have their defaults. EVENT_LOG_POLL copies the next record of a powered chip, keeps the
retirement record of HBM_RETIRED, and logs the SEQ range it finds missing. -/
def Obligations.TrayCopiesAndLog : Prop :=
  ∀ (s : State) (who now : Nat), who < 3 →
    let x := (s.trayAt who).at now
    let i := x.images
    let u := s.tray.at now
    let goes (c : Instr) (P : Tray → Prop) : Prop := Completes c s fun t => t = s.setTray who (t.trayAt who) ∧ P (t.trayAt who)
    let valid (m : Mem) : Bool := copyValid m imageMagic imageSize
    (i.state = 1 → Mem.wf (some 0xFF) i.staging → goes (.imageSaveComplete who now) fun v => v = { x with images := v.images }
        ∧ v.images.a = v.images.b ∧ v.images.state = 2 ∧ Mem.wf (some 0xFF) v.images.a
        ∧ Mem.bytes v.images.a 0xFF 4 4 = toLe 4 (max (copySeq i.a imageMagic imageSize) (copySeq i.b imageMagic imageSize) + 1)
        ∧ ∀ k, k < 4 ∨ 8 ≤ k → Mem.get (some 0xFF) v.images.a k = Mem.get (some 0xFF) i.staging k)
    ∧ (i.state ≠ 1 → goes (.imageSaveComplete who now) fun v => v = x)
    ∧ (i.dictDue = true → goes (.dictSave who now) fun v => v = { x with images := v.images } ∧ v.images.dictA = v.images.dictB
        ∧ v.images.dictDue = false ∧ v.images.a = i.a ∧ v.images.b = i.b)
    ∧ (goes (.trayControllerStart who []) fun v => v.time = 0 ∧ v.kind = x.kind ∧ v.slot = x.slot
        ∧ (valid i.a = true → i.a = i.b → v.images.selected = 0 ∧ v.images.a = i.a ∧ v.images.b = i.b ∧ v.state = 1
            ∧ v.images.seq = copySeq i.a imageMagic imageSize)
        ∧ (valid i.a = true → valid i.b = false → v.images.selected = 0 ∧ v.images.a = v.images.b ∧ v.state = 1
            ∧ ∃ e ∈ v.log.recs, e.code = 0x0080 ∧ e.detail = [1] ∧ e.source = 0xFF)
        ∧ (valid i.a = false → valid i.b = true → v.images.selected = 1 ∧ v.images.a = v.images.b ∧ v.state = 1)
        ∧ (valid i.a = false → valid i.b = false → v.images.selected = 0xFF ∧ v.state = 7 ∧ v.start = none
            ∧ v.images.a = i.a ∧ v.images.b = i.b)
        ∧ (copyValid i.dictA dictMagic dictSize = false → copyValid i.dictB dictMagic dictSize = false → v.persist = {}
            ∧ ∃ e ∈ v.log.recs, e.code = 0x0081))
    ∧ ∀ p, p < 4 → u.modules.length = 4 → (u.mod p).powered = true → u.persist.retired.length = 4 → let last := (u.mod p).seq
        let polled (seq : Nat) (recs : List LogRecord) (P : Tray → Prop) : Prop := Completes (.eventLogPoll now p seq recs) s fun t =>
          t = { s with tray := t.tray } ∧ (t.tray.mod p).seq = seq ∧ P t.tray
        (∀ r : LogRecord, r.seq = last + 1 → polled r.seq [r] fun v => v.log = u.log.add 1024 r.time r.code r.source r.severity r.detail
          ∧ (r.code ≠ 0x0030 → v.persist = u.persist)
          ∧ (r.code = 0x0030 → r.detail.length = 16 → v.images.dictDue = true
              ∧ ∃ old, v.persist.retired.getD p [] = old ++ [r.detail] ∧ old.length ≤ 254))
        ∧ ∀ seq, last < seq → polled seq [] fun v => v.log = u.log.add 1024 u.time 0x0083 0xFF 2 (toLe 4 p ++ toLe 4 (last + 1) ++ toLe 4 (seq - last))

/-- A SEC_KEY_CMD of the PF begins the drain of its slot and shows BUSY; with a slot above 32 it ends with BAD_CMD, while BUSY with BUSY, GENERATE and LOAD with the lid open with LID_OPEN, while
another drain runs with DRAIN_REFUSED. A key that GENERATE drew into a slot is the key that LOAD of its blob puts there; a blob that does not unwrap ends with UNWRAP_FAIL, one of another slot with
SLOT_MISMATCH. UNLOCK_TOKEN
judges a token once no context is live and the unlock is not open, locked out or under way: a valid one draws every slot key and the KWK anew; an invalid one is counted, the
third locking out; either draws a new challenge. With a live context it leaves the security block as it is. UNLOCK_OPEN empties local memories and caches, opens the test
instructions and logs DEBUG_UNLOCK and ZEROISE. INTRUSION draws every key anew, closes the unlock, kills every live context with HOST_KILL and invalidates device and near caches.
INTRUSION_N_DEASSERT only ends it. -/
def Obligations.KeysUnlockAndIntrusion : Prop :=
  ∀ (s : State) (now : Nat), s.clocked = true → s.mem.keys.length = 33 →
    let s' := s.at now
    let s1 := s'.fullWrite 0
    let redrawn (t : State) : Prop := t.mem.keys = (List.range 33).map (KeyId.drawn <| s.mem.nextKey + 1 + ·) ∧ t.sec.kwk = s.mem.nextKey
      ∧ t.boot = { s.boot with zeroises := s.boot.zeroises + 1 }
    (∀ (v : DWord) (c : Instr), c = .keyGenerate now 0 v ∧ keyOp v.toNat = 1 ∨ c = .keyLoad now 0 v ∧ keyOp v.toNat = 2
        ∨ c = .keyErase now 0 v ∧ keyOp v.toNat = 3 →
      let op := keyOp v.toNat
      let slot := cmdSlot v.toNat
      let result (n : Nat) : Prop := exec c s = .next { s1 with sec := { s.sec with busy := false, result := n } }
      (s.sec.busy = true → exec c s = .next { s1 with sec := { s.sec with result := 2 } })
      ∧ (s.sec.busy = false → 32 < slot → result 1)
      ∧ (s.sec.busy = false → slot ≤ 32 → op ≠ 3 → s.pins.intrusion = true → result 5)
      ∧ (s.sec.busy = false → slot ≤ 32 → (op = 3 ∨ s.pins.intrusion = false) →
          (s.cm.drain = none → exec c s = .next { s1 with
            sec := { s.sec with busy := true }
            cm := { s.cm with drain := some { act := .key op slot, parts := [slot], all := slot == 32, time := s'.now } } })
          ∧ (s.cm.drain ≠ none → exec c s = .next { s1 with
              sec := { s.sec with busy := false, result := 6 }, cm := { s.cm with lastAbort := 0x03000003 } })))
    ∧ (∀ slot, slot ≤ 32 → s.pins.intrusion = false →
        (let t := s.keyApply 1 slot
         t.sec.result = 0 ∧ t.sec.busy = false ∧ t.sec.blob.length = 80 ∧ (t.keyApply 2 slot).sec.result = 0
         ∧ (t.keyApply 2 slot).mem.keys = t.mem.keys ∧ t.mem.keys[slot]? = some (.drawn s.mem.nextKey)
         ∧ ∀ k, k ≠ slot → t.mem.keys[k]? = s.mem.keys[k]?)
        ∧ (let t := s.keyApply 2 slot
          match s.unwrap with
          | none => t.sec.result = 3 ∧ t.mem = s.mem
          | some (key, n) =>
            (n ≠ slot → t.sec.result = 4 ∧ t.mem = s.mem) ∧ (n = slot → t.sec.result = 0 ∧ t.mem.keys = s.mem.keys.set slot key)))
    ∧ (∀ token : List Byte, token.length = 112 →
        ((∃ i, s.live i = true) → Completes (.unlockToken now token) s fun t => t.sec = s.sec ∧ t.mem = s.mem)
        ∧ ((∀ i, s.live i = false) → s.pins.intrusion = false → s.sec.unlock = 0 ∨ s.sec.unlock = 4 →
            (s.tokenValid token = true → Completes (.unlockToken now token) s fun t => redrawn t ∧ t.sec.unlock = 2 ∧ t.sec.nonce = s.sec.nonce + 1
              ∧ t.sec.rejects = s.sec.rejects)
            ∧ (s.tokenValid token = false → Completes (.unlockToken now token) s fun t => t.mem = s.mem ∧ t.sec = { s.sec with
                nonce := s.sec.nonce + 1, attempt := s.sec.attempt + 1, rejects := s.sec.rejects + 1
                unlock := if 2 ≤ s.sec.rejects then 5 else 4 })))
    ∧ (s.sec.unlock = 2 → Completes (.unlockOpen now) s fun t => t.sec = { s.sec with unlock := 3 } ∧ t.testOpen = true ∧ t.mem.dc = []
        ∧ (∀ x ∈ t.tiles, x.localMem = [] ∧ x.nc = [] ∧ x.ic = [] ∧ x.chs.nwc = [])
        ∧ t.log = (s.log.add 64 s'.now 0x0061 11 3 []).add 64 s'.now 0x0062 11 3 [1])
    ∧ (s.cm.ctxs.length = 64 → s.pins.intrusion = false → Completes (.intrusion now) s fun t => redrawn t ∧ t.pins = { s.pins with intrusion := true }
        ∧ t.sec.unlock = (if s.sec.unlock = 5 then 5 else 0) ∧ t.mem.dc = [] ∧ (∀ x ∈ t.tiles, x.nc = [] ∧ x.ic = [])
        ∧ (∀ i, s.live i = true → KillStarted t i 0x0F) ∧ ∀ i, s.live i = false → t.ctx i = s.ctx i)
    ∧ (s.pins.intrusion = true → exec (.intrusion now) s = .next s')
    ∧ exec (.intrusionNDeassert now) s = .next { s' with pins := { s.pins with intrusion := false } }

/-- PWRIN_GOOD_RISE, CHIP_RST_N_ASSERT and RESET_COMMAND_COLD reset the chip cold: contexts, tiles, log, memory and registers are as at reset, the keys are drawn anew, and the boot
runs where power is good and CHIP_RST_N is not asserted; PWRIN_GOOD_FALL holds it, CHIP_RST_N_DEASSERT starts the boot. RESET_COMMAND_WARM, PF_FLR, HOT_RESET and the edge of PERST_N_ASSERT reset
a chip in service warm: what the reset table keeps stays, contexts and tiles are as at reset, the slot keys are drawn anew; HOT_RESET and PERST_N return BAR4 to 16 GiB. In NOT_READY
they merge. BOOT_COMPLETE sets BootStatus and ends in service where it is 0, else in ROM mode; WARM_RESET_COMPLETE ends the warm reset, counts it and shows its kind. -/
def Obligations.ResetsAndBoot : Prop :=
  ∀ (s : State) (now : Nat),
    let s' := s.at now
    let up := s.pins.pwrinGood = true
    let cold (t : State) (kind : Nat) (phase : Phase) : Prop :=
      t.phase = phase ∧ t.boot = { kind := kind } ∧ t.cm = {} ∧ t.tiles = List.replicate 144 {} ∧ t.log = {} ∧ t.hbm = {} ∧ t.mem.hbm = []
      ∧ t.mem.dc = [] ∧ t.str = {} ∧ t.arm = {} ∧ t.srt = {} ∧ t.pwr = { ageFuses := s.pwr.ageFuses, bus := s.pwr.bus } ∧ t.stopped = false ∧ t.fab.chipId = 0xFFFF
      ∧ t.mem.keys = (List.range 33).map (KeyId.drawn <| s.mem.nextKey + 1 + ·) ∧ t.sec.kwk = s.mem.nextKey ∧ t.sec.unlock = 0 ∧ t.pending = s.pending
      ∧ t.tray = s.tray ∧ t.sw = s.sw ∧ t.mgmt = s.mgmt
    let warm (t : State) (kind bar4 : Nat) : Prop :=
      t.phase = .warm ∧ t.boot.kind = kind ∧ t.log = s.log ∧ t.stopped = s.stopped ∧ t.pwr.cap = s.pwr.cap ∧ t.pwr.patina = s.pwr.patina
      ∧ t.pwr.thermtrip = s.pwr.thermtrip ∧ t.fab.chipId = s.fab.chipId ∧ t.hbm.recs = s.hbm.recs
      ∧ t.hbm.stackList.map (·.redirects) = s.hbm.stackList.map (·.redirects) ∧ t.hbm.stackList.map (·.patrolH) = s.hbm.stackList.map (·.patrolH)
      ∧ t.cm.faultSeq = s.cm.faultSeq ∧ (s.stopped = false → t.cm.ctxs = List.replicate 64 {}) ∧ t.cm.queues = ({} : CtxMgr).queues ∧ t.cm.staged = []
      ∧ t.cm.drain = none ∧ t.tiles = List.replicate 144 {} ∧ t.mem.dc = [] ∧ t.mem.tlb = [] ∧ t.str = {} ∧ t.hst.bar4Size = bar4
      ∧ t.sec.kwk = s.sec.kwk ∧ t.sec.unlock = 0 ∧ t.mem.keys = (List.range 33).map (KeyId.drawn <| s.mem.nextKey + ·) ∧ t.tray = s.tray
    (s.pins.pwrinGood = false → Completes .pwrinGoodRise s fun t => cold t 1 (if s.pins.chipRst then .off else .cold)
      ∧ t.pins = { s.pins with pwrinGood := true })
    ∧ (up → exec .pwrinGoodRise s = .next s)
    ∧ (Completes .pwrinGoodFall s fun t => cold t 1 .off ∧ t.pins = { s.pins with pwrinGood := false } ∧ t.smp = {} ∧ t.jtag = {})
    ∧ (up → s.pins.chipRst = false → s.phase ≠ .off → Completes .chipRstNAssert s fun t => cold t 2 .off
        ∧ t.pins = { s.pins with chipRst := true })
    ∧ (up → s.phase = .off → exec .chipRstNDeassert s = .next { s with pins := { s.pins with chipRst := false }, phase := .cold })
    ∧ (s.phase = .ready → s.smp.commits.build = none →
        (Completes (.resetCommandCold now 2) s fun t => cold t 3 (if s.pins.pwrinGood && !s.pins.chipRst then .cold else .off))
        ∧ Completes (.resetCommandWarm now 1) s fun t => warm t 7 s.hst.bar4Size)
    ∧ (s.phase = .down → s.smp.commits.build = none → Completes (.resetCommandCold now 2) s fun t => t.phase = .down ∧ t.cm.lastAbort = 0x03000005)
    ∧ (s.serving = true →
        (Completes (.pfFlr now) s fun t => warm t 4 s.hst.bar4Size)
        ∧ (Completes (.hotReset now) s fun t => warm t 5 16)
        ∧ (s.pins.perst = false → Completes (.perstNAssert now) s fun t => warm t 6 16 ∧ t.pins = { s.pins with perst := true }))
    ∧ (s.serving = false → exec (.pfFlr now) s = .next s' ∧ exec (.hotReset now) s = .next s'
        ∧ exec (.perstNAssert now) s = .next { s' with pins := { s.pins with perst := true } })
    ∧ exec (.perstNDeassert now) s = .next { s' with pins := { s.pins with perst := false } }
    ∧ (∀ o : BootObs, s.phase = .cold → Completes (.bootComplete now o) s fun t =>
        t.boot.status = bootStatus o t.pwr.patina ∧ t.phase = (if t.boot.status = 0 then .ready else .rom) ∧ t.boot.lastKind = s.boot.kind
        ∧ t.smp.mail.status = 0 ∧ t.log.seq = s.log.seq + patinaDiffs.length
        ∧ t.boot.imageVersion = (if t.boot.status = 0 then bootVersion o else 0))
    ∧ ∀ coolant, s.phase = .warm → Completes (.warmResetComplete now coolant) s fun t =>
        t.phase = (if s.boot.status = 0 then .ready else .rom) ∧ t.boot.lastKind = s.boot.kind ∧ t.boot.warmResets = s.boot.warmResets + 1
        ∧ t.stopped = (s.stopped && !coolant) ∧ t.smp.mail.status = 0 ∧ t.log = s.log ∧ (coolant = true → t.cm.ctxs = List.replicate 64 {})

/-- With power good: JTAG_IDCODE captures the 32 bits of the identification code, JTAG_SAMPLE_PRELOAD the boundary; JTAG_EXTEST, JTAG_EXTEST_PULSE and JTAG_EXTEST_TRAIN capture the boundary
while CHIP_RST_N is asserted, and they, JTAG_CLAMP and JTAG_HIGHZ one 0 as BYPASS otherwise; JTAG_BYPASS and a closed JTAG_TEST_INSTRUCTION act as BYPASS. Nothing outside
the test access port changes. An open JTAG_TEST_INSTRUCTION is refused: the manual does not say what it does. The identification code has 1 in bit 0, 0x4D3 above it, then
0x7240. -/
def Obligations.TestAccessPort : Prop :=
  ∀ (s : State), s.pins.pwrinGood = true →
    let loads (c : Instr) (ir : Nat) (dr : List Bool) : Prop := exec c s = .next { s with jtag := { ir := ir, dr := dr } }
    let pins (b : List Bool) : List Bool := if s.pins.chipRst then b else [false]
    loads .jtagIdcode 0x01 ((List.range 32).map (bitAt idcode))
    ∧ bits idcode 0 1 = 1 ∧ bits idcode 1 11 = 0x4D3 ∧ bits idcode 12 16 = 0x7240 ∧ idcode < 2 ^ 32
    ∧ loads .jtagSamplePreload 0x02 s.boundary
    ∧ loads .jtagExtest 0x00 (pins s.boundary) ∧ loads .jtagExtestPulse 0x05 (pins s.boundary) ∧ loads .jtagExtestTrain 0x06 (pins s.boundary)
    ∧ loads .jtagClamp 0x03 [false] ∧ loads .jtagHighz 0x04 [false]
    ∧ ∀ code,
      ((0x07 ≤ code ∧ code ≤ 0x0F ∨ 0x40 ≤ code ∧ code ≤ 0xFF) → loads (.jtagBypass code) 0xFF [false])
      ∧ (0x10 ≤ code → code ≤ 0x3F →
          (s.testOpen = false → loads (.jtagTestInstruction code) 0xFF [false])
          ∧ (s.testOpen = true → exec (.jtagTestInstruction code) s = .refused .testInstructionEffectNotGiven))

/-- With the command c at the front of its queue, a step of the block is exec of c on the state with the queue's rest. On an empty queue the block idles: that
is the model's choice (log 1), no rule. exec of a command c answers a next state, unless c is a test instruction of the test access port while those are open: for that one the
manual gives no effect, and it is refused under a name of its own. No row of the table has bits, so withFetchWord leaves a state as it is. -/
def Obligations.StepRunsTheFrontCommand : Prop :=
  (∀ (s : State) (c : Instr) (rest : List Instr), s.pending = c :: rest → step s = exec c { s with pending := rest })
  ∧ (∀ s : State, s.pending = [] → step s = .next s)
  ∧ (∀ (s : State) (c : Instr), (∃ t, exec c s = .next t)
      ∨ (exec c s = .refused .testInstructionEffectNotGiven ∧ s.testOpen = true ∧ ∃ code, c = .jtagTestInstruction code))
  ∧ ∀ (s : State) (nbits w : Nat), s.withFetchWord nbits w = s

/-- In State.reset: every context is FREE, no partition and no queue is enabled, nothing is in flight, no memory byte is listed, the chip is in its cold boot and its sideband engine in NOT_READY, and
no command waits. The dictionary of the chip and of the compute tray's controller read as the object tables' defaults: CapW 1500, SharingMode 0, EstimatorGain 65536, Bar4SizeGiB
16, ChipId and TimeMaster 0xFFFF, LastResetKind 1, way mask p 1 << p, and 0 in the counters named; RackNumber 0, TrayLimitW 6800, ModuleEnable 0x0F, ChipCapW 1500 each,
TrayState 1, TrayWait 0, Alarms 0. -/
def Obligations.ResetStateHoldsTheDefaults : Prop :=
  let s := State.reset
  let reads (index sub n v : Nat) : Prop := (pickObj (s.dict index) sub).map (·.bytes) = some (toLe n v)
  let trayReads (index sub n v : Nat) : Prop := (pickObj (s.tray.dict index) sub).map (·.bytes) = some (toLe n v)
  (∀ c, (s.ctx c).state = .free) ∧ (∀ q, (s.queue q).enable = false) ∧ (∀ p, (s.part p).enabled = false)
  ∧ s.cm.launches = [] ∧ s.cm.copies = [] ∧ s.cm.waits = [] ∧ s.cm.staged = [] ∧ s.cm.drain = none ∧ s.pending = []
  ∧ s.mem.hbm = [] ∧ s.mem.dc = [] ∧ (∀ t, (s.tile t).localMem = [] ∧ (s.tile t).groups = [] ∧ (s.tile t).blocks = [])
  ∧ s.phase = .cold ∧ s.smp.mail.status = 4 ∧ s.str.streams = []
  ∧ reads 0x2000 2 2 1500 ∧ reads 0x2000 3 1 0 ∧ reads 0x2000 6 4 65536 ∧ reads 0x1200 6 2 16 ∧ reads 0x4000 1 2 0xFFFF ∧ reads 0x4000 3 2 0xFFFF
  ∧ reads 0x7000 5 1 1 ∧ reads 0x7000 6 4 0 ∧ reads 0x7000 1 1 0 ∧ (∀ p, p < 32 → reads (0x5010 + p) 1 4 (2 ^ p))
  ∧ (∀ sub, 3 ≤ sub → sub ≤ 8 → reads 0x3000 sub 4 0) ∧ (∀ sub, 1 ≤ sub → sub ≤ 4 → reads 0x1100 sub 4 0)
  ∧ reads 0x6000 1 4 0 ∧ reads 0x6000 2 4 0 ∧ reads 0x1F00 4 4 0 ∧ reads 0x2090 2 1 0 ∧ reads 0x7200 3 1 0 ∧ reads 0x7110 1 64 0
  ∧ trayReads 0x8000 1 1 1 ∧ trayReads 0x8000 2 1 0 ∧ trayReads 0x8000 3 1 0 ∧ trayReads 0x8000 5 2 6800 ∧ trayReads 0x8000 6 2 6800
  ∧ trayReads 0x8000 7 1 0 ∧ trayReads 0x8000 8 1 0x0F ∧ (pickObj (s.tray.dict 0x8000) 9).map (·.bytes) = some ((List.range 4).flatMap fun _ => toLe 2 1500)
  ∧ trayReads 0x1110 2 1 1 ∧ trayReads 0x1110 4 1 24 ∧ trayReads 0x9000 2 4 0 ∧ trayReads 0x8020 2 1 0 ∧ trayReads 0x8050 7 1 0

/-- For every well-formed instruction c of the thread engine, with any operands its encoding admits, the 64-bit word that c stands for decodes, on its tile, to c; for every
well-formed instruction of a TCU slot that has a word of its own, its 32-bit word decodes, on its tile and slot, to c. So no bit of an operand is dropped, and no two
instructions share a word. -/
def Obligations.WordsOfInstructionsDecodeBack : Prop :=
  ∀ c : Instr, c.wf = true →
    (∀ tile w, c.threadWord? = some (tile, w) → w < 2 ^ 64 ∧ decodeThread tile w = some c)
    ∧ (∀ tile slot w, c.tcuWord? = some (tile, slot, w) → w < 2 ^ 32 ∧ decodeTcu tile slot w = some c)

/-- From every state, whatever the command at the front is (a reset, a kill and a power-down among them), a step that answers a next state has taken exactly the front command from the queue: the commands behind
it wait unchanged and in their order. -/
def Obligations.CommandsLeaveTheQueueInOrder : Prop :=
  ∀ s t : State, step s = .next t → t.pending = s.pending.tail
end

