-- ==== Sys2Proof/Laws/Mem.lean ====
section
/-! SUPPORT. The laws of memories: every operation keeps the canonical form, a read after a write to the same address gives the byte
written, and a write leaves every other address alone; the same for the memory system's own operations. -/
namespace Sys2Proof.Machine

/-! ## One byte -/

theorem Mem.mem_put {d : Option Byte} {m : Mem} {a : Nat} {v : Option Byte} {c : Host.Cell} (h : c ∈ Mem.put d m a v) :
    c ∈ m ∨ (c.1 = a ∧ v = some c.2 ∧ d ≠ some c.2) := by
  induction m with
  | nil =>
    simp only [Mem.put] at h
    split at h
    · simp at h
    · split at h
      · simp at h
      · simp at h; subst h; exact .inr ⟨rfl, rfl, by assumption⟩
  | cons x r ih =>
    obtain ⟨b, w⟩ := x
    simp only [Mem.put] at h
    split at h
    · rcases List.mem_cons.mp h with h | h
      · exact .inl (h ▸ List.mem_cons_self)
      · rcases ih h with h | h
        · exact .inl (List.mem_cons_of_mem _ h)
        · exact .inr h
    · have hr : ∀ c : Host.Cell, c ∈ (if b = a then r else (b, w) :: r) → c ∈ (b, w) :: r := by
        intro c hc
        split at hc
        · exact List.mem_cons_of_mem _ hc
        · exact hc
      split at h
      · exact .inl (hr c h)
      · split at h
        · exact .inl (hr c h)
        · rcases List.mem_cons.mp h with h | h
          · subst h; exact .inr ⟨rfl, rfl, by assumption⟩
          · exact .inl (hr c h)

theorem Mem.wf_put {d : Option Byte} {m : Mem} (h : Mem.wf d m) (a : Nat) (v : Option Byte) : Mem.wf d (Mem.put d m a v) := by
  refine ⟨?_, fun c hc => ?_⟩
  · obtain ⟨hp, -⟩ := h
    induction m with
    | nil => simp only [Mem.put]; split <;> (try split) <;> simp
    | cons x r ih =>
      obtain ⟨b, w⟩ := x
      have hr := (List.pairwise_cons.mp hp).2
      have hb := (List.pairwise_cons.mp hp).1
      simp only [Mem.put]
      split
      · rename_i hlt
        refine List.pairwise_cons.mpr ⟨fun c hc => ?_, ih hr⟩
        rcases Mem.mem_put hc with hc | ⟨hc, -⟩
        · exact hb c hc
        · simp [hc, hlt]
      · rename_i hge
        have hrest : (if b = a then r else (b, w) :: r).Pairwise (fun a b => a.1 < b.1) := by split <;> assumption
        have hlo : ∀ c ∈ (if b = a then r else (b, w) :: r), a < c.1 := by
          intro c hc
          split at hc
          · rename_i he; subst he; exact hb c hc
          · rename_i hne
            rcases List.mem_cons.mp hc with hc | hc
            · subst hc; simp; omega
            · have := hb c hc; simp at this; omega
        split
        · exact hrest
        · split
          · exact hrest
          · exact List.pairwise_cons.mpr ⟨hlo, hrest⟩
  · rcases Mem.mem_put hc with hc | ⟨-, -, hc⟩
    · exact h.2 c hc
    · exact hc

theorem Mem.get_of_lt {d : Option Byte} {m : Mem} {a : Nat} (h : ∀ c ∈ m, a < c.1) : Mem.get d m a = d := by
  induction m with
  | nil => rfl
  | cons x r ih =>
    obtain ⟨b, w⟩ := x
    have hb : a < b := h (b, w) List.mem_cons_self
    simp only [Mem.get]
    rw [if_neg (by omega)]
    exact ih fun c hc => h c (List.mem_cons_of_mem _ hc)

/-- A read after a write: the byte written at its address, what was there before at every other. -/
theorem Mem.get_put {d : Option Byte} {m : Mem} (h : Mem.wf d m) (a : Nat) (v : Option Byte) (k : Nat) :
    Mem.get d (Mem.put d m a v) k = if k = a then v.or d else Mem.get d m k := by
  obtain ⟨hp, -⟩ := h
  induction m with
  | nil =>
    simp only [Mem.put]
    split
    · split <;> simp [Mem.get]
    · split
      · rename_i hd; split <;> simp_all [Mem.get]
      · simp only [Mem.get, eq_comm (a := a)]; split <;> simp_all
  | cons x r ih =>
    obtain ⟨b, w⟩ := x
    have hr := (List.pairwise_cons.mp hp).2
    have hb := (List.pairwise_cons.mp hp).1
    simp only [Mem.put]
    split
    · rename_i hlt
      simp only [Mem.get, ih hr]
      by_cases hk : k = a
      · subst hk; rw [if_neg (by omega), if_pos rfl]; simp
      · simp [hk]
    · rename_i hge
      have hrest : Mem.get d (if b = a then r else (b, w) :: r) k = if k = a then d else Mem.get d ((b, w) :: r) k := by
        by_cases he : b = a
        · subst he
          simp only [if_true]
          by_cases hk : k = b
          · subst hk; rw [if_pos rfl]; exact Mem.get_of_lt fun c hc => hb c hc
          · rw [if_neg hk]; simp only [Mem.get]; rw [if_neg (by omega)]
        · rw [if_neg he]
          by_cases hk : k = a
          · subst hk
            rw [if_pos rfl]
            refine Mem.get_of_lt fun c hc => ?_
            rcases List.mem_cons.mp hc with hc | hc
            · subst hc; simp; omega
            · have := hb c hc; simp at this; omega
          · rw [if_neg hk]
      cases v with
      | none => simp only [hrest, Option.or]
      | some x =>
        simp only
        split
        · rename_i hd; rw [hrest]; simp [hd]
        · simp only [Mem.get, hrest]
          by_cases hk : k = a
          · subst hk; simp
          · rw [if_neg (fun h => hk h.symm), if_neg hk, if_neg hk]

/-! ## Runs of bytes, overlays, ranges -/

theorem Mem.wf_putAll {d : Option Byte} (l : List Byte) : ∀ {m : Mem}, Mem.wf d m → ∀ a, Mem.wf d (Mem.putAll d m a l) := by
  induction l with
  | nil => intro m h a; exact h
  | cons v r ih => intro m h a; exact ih (Mem.wf_put h a (some v)) (a + 1)

/-- A read after a run of bytes is written: the byte of the run, and outside it what was there before. -/
theorem Mem.get_putAll {d : Option Byte} (l : List Byte) : ∀ {m : Mem}, Mem.wf d m → ∀ a k : Nat,
    Mem.get d (Mem.putAll d m a l) k = if a ≤ k ∧ k < a + l.length then l[k - a]? else Mem.get d m k := by
  induction l with
  | nil => intro m _ a k; simp only [Mem.putAll, List.length_nil]; rw [if_neg (by omega)]
  | cons v r ih =>
    intro m h a k
    simp only [Mem.putAll, ih (Mem.wf_put h a (some v)), Mem.get_put h, List.length_cons, Option.or]
    by_cases hk : k = a
    · subst hk; rw [if_neg (by omega), if_pos rfl, if_pos (by omega)]; simp
    · rw [if_neg hk]
      by_cases h2 : a + 1 ≤ k ∧ k < a + 1 + r.length
      · rw [if_pos h2, if_pos (by omega), show k - a = (k - (a + 1)) + 1 from by omega]; simp
      · rw [if_neg h2, if_neg (by omega)]

theorem Mem.wf_overlay {d : Option Byte} (c : Mem) : ∀ {m : Mem}, Mem.wf d m → Mem.wf d (Mem.overlay d m c) := by
  induction c with
  | nil => intro m h; exact h
  | cons x r ih => intro m h; exact ih (Mem.wf_put h x.1 (some x.2))

theorem Mem.get_overlay_other {d : Option Byte} (c : Mem) : ∀ {m : Mem}, Mem.wf d m → ∀ k : Nat, (∀ x ∈ c, x.1 ≠ k) →
    Mem.get d (Mem.overlay d m c) k = Mem.get d m k := by
  induction c with
  | nil => intro m _ k _; rfl
  | cons x r ih =>
    intro m h k hk
    have h1 : Mem.get d (Mem.overlay d (Mem.put d m x.1 (some x.2)) r) k = Mem.get d (Mem.put d m x.1 (some x.2)) k :=
      ih (Mem.wf_put h x.1 (some x.2)) k fun y hy => hk y (List.mem_cons_of_mem _ hy)
    rw [show Mem.overlay d m (x :: r) = Mem.overlay d (Mem.put d m x.1 (some x.2)) r from rfl, h1, Mem.get_put h,
      if_neg fun he => hk x List.mem_cons_self he.symm]

theorem Mem.wf_filter {d : Option Byte} {m : Mem} (h : Mem.wf d m) (p : Host.Cell → Bool) : Mem.wf d (m.filter p) :=
  ⟨h.1.filter p, fun c hc => h.2 c (List.mem_filter.mp hc).1⟩
theorem Mem.wf_within {d : Option Byte} {m : Mem} (h : Mem.wf d m) (lo hi : Nat) : Mem.wf d (Mem.within m lo hi) := Mem.wf_filter h _
theorem Mem.wf_drop {d : Option Byte} {m : Mem} (h : Mem.wf d m) (lo hi : Nat) : Mem.wf d (Mem.drop m lo hi) := Mem.wf_filter h _

theorem Mem.get_filter {d : Option Byte} (p : Nat → Bool) (m : Mem) (k : Nat) :
    Mem.get d (m.filter fun c => p c.1) k = if p k then Mem.get d m k else d := by
  induction m with
  | nil => simp [Mem.get]
  | cons x r ih =>
    obtain ⟨b, w⟩ := x
    simp only [List.filter_cons]
    by_cases hb : p b
    · simp only [hb, if_true, Mem.get, ih]
      by_cases hk : b = k
      · subst hk; simp [hb]
      · simp [hk]
    · simp only [hb, Bool.false_eq_true, if_false, Mem.get, ih]
      by_cases hk : b = k
      · subst hk; simp [hb]
      · simp [hk]

/-- After bytes are dropped they read as the default; every other byte reads as before. -/
theorem Mem.get_drop {d : Option Byte} (m : Mem) (lo hi k : Nat) :
    Mem.get d (Mem.drop m lo hi) k = if lo ≤ k ∧ k < hi then d else Mem.get d m k := by
  have := Mem.get_filter (d := d) (fun a => a < lo || hi ≤ a) m k
  rw [show Mem.drop m lo hi = m.filter fun c => (c.1 < lo || hi ≤ c.1) from rfl, this]
  by_cases h1 : lo ≤ k
  · by_cases h2 : k < hi
    · simp [h1, h2, Nat.not_lt.mpr h1, Nat.not_le.mpr h2]
    · simp [h2, Nat.not_lt.mp h2]
  · simp [h1, Nat.lt_of_not_le h1]

/-! ## The memory system -/

/-- The bytes of HBM and of the device cache are held in canonical form. -/
abbrev MemSys.wf (m : MemSys) : Prop := Mem.wf none m.hbm ∧ Mem.wf none m.dcData

theorem MemSys.wf_setHbm {m : MemSys} (h : m.wf) (i : LineMeta) (cells : Mem) : (m.setHbm i cells).wf :=
  ⟨Mem.wf_overlay cells (Mem.wf_drop h.1 _ _), h.2⟩

@[simp] theorem MemSys.countEcc_hbm (m : MemSys) (e : DcLine) : (m.countEcc e).hbm = m.hbm := by
  simp only [MemSys.countEcc]; split <;> rfl
@[simp] theorem MemSys.countEcc_dcData (m : MemSys) (e : DcLine) : (m.countEcc e).dcData = m.dcData := by
  simp only [MemSys.countEcc]; split <;> rfl
theorem MemSys.wf_countEcc {m : MemSys} (h : m.wf) (e : DcLine) : (m.countEcc e).wf := by simpa [MemSys.wf] using h

theorem MemSys.wf_evict {m : MemSys} (h : m.wf) (e : DcLine) : (m.evict e).wf := by
  simp only [MemSys.evict]
  split
  · have h1 := MemSys.wf_countEcc h e
    exact ⟨(MemSys.wf_setHbm h1 _ _).1, Mem.wf_drop (MemSys.wf_setHbm h1 _ _).2 _ _⟩
  · exact ⟨h.1, Mem.wf_drop h.2 _ _⟩

theorem MemSys.wf_evictAll (l : List DcLine) : ∀ {m : MemSys}, m.wf → (l.foldl MemSys.evict m).wf := by
  induction l with
  | nil => intro m h; exact h
  | cons e r ih => intro m h; exact ih (MemSys.wf_evict h e)

@[simp] theorem MemSys.countDc_hbm (m : MemSys) (slot : Nat) (hit : Bool) : (m.countDc slot hit).hbm = m.hbm := by
  simp only [MemSys.countDc]; split <;> (try split) <;> rfl
@[simp] theorem MemSys.countDc_dcData (m : MemSys) (slot : Nat) (hit : Bool) : (m.countDc slot hit).dcData = m.dcData := by
  simp only [MemSys.countDc]; split <;> (try split) <;> rfl
theorem MemSys.wf_countDc {m : MemSys} (h : m.wf) (slot : Nat) (hit : Bool) : (m.countDc slot hit).wf := by simpa [MemSys.wf] using h

theorem MemSys.wf_access {m : MemSys} (h : m.wf) (slot line : Nat) : (m.access slot line).wf := by
  simp only [MemSys.access]
  split
  · exact MemSys.wf_countDc (MemSys.wf_countEcc (by exact h) _) slot true
  · have h1 : MemSys.wf (((m.countDc slot false).dc.filter (·.info.line == line)).foldl MemSys.evict (m.countDc slot false)) :=
      MemSys.wf_evictAll _ (MemSys.wf_countDc h slot false)
    split
    · exact h1
    · rename_i old _
      cases old with
      | none => exact ⟨h1.1, Mem.wf_overlay _ h1.2⟩
      | some e => exact ⟨(MemSys.wf_evict h1 e).1, Mem.wf_overlay _ (MemSys.wf_evict h1 e).2⟩

theorem MemSys.wf_read {m : MemSys} (h : m.wf) (slot pa n : Nat) : (m.read slot pa n).1.wf := by
  simp only [MemSys.read]
  split <;> exact MemSys.wf_access h slot _

theorem MemSys.wf_writeHbm {m : MemSys} (h : m.wf) (slot line : Nat) (cells : Mem) : (m.writeHbm slot line cells).wf := by
  simp only [MemSys.writeHbm]
  split
  · exact h
  · exact MemSys.wf_setHbm h _ _

theorem MemSys.wf_write {m : MemSys} (h : m.wf) (slot line : Nat) (cells : Mem) : (m.write slot line cells).wf := by
  simp only [MemSys.write]
  have h1 := MemSys.wf_access h slot line
  split
  · split
    · exact h1
    · exact ⟨h1.1, Mem.wf_overlay _ h1.2⟩
  · exact MemSys.wf_writeHbm h1 slot line cells

theorem MemSys.wf_readMany (slot : Nat) : ∀ (fuel : Nat) {m : MemSys}, m.wf → ∀ pa n, (m.readMany slot fuel pa n).1.wf := by
  intro fuel
  induction fuel with
  | zero => intro m h pa n; exact h
  | succ f ih =>
    intro m h pa n
    simp only [MemSys.readMany]
    split
    · exact h
    · exact ih (MemSys.wf_read h slot pa _) _ _

theorem MemSys.wf_writeMany (slot : Nat) : ∀ (fuel : Nat) {m : MemSys}, m.wf → ∀ (pa : Nat) (l : List Byte), (m.writeMany slot fuel pa l).wf := by
  intro fuel
  induction fuel with
  | zero => intro m h pa l; exact h
  | succ f ih =>
    intro m h pa l
    simp only [MemSys.writeMany]
    split
    · exact h
    · exact ih (MemSys.wf_write h slot _ _) _ _

/-- The memories of State.reset are in canonical form. -/
theorem State.reset_mem_wf : State.reset.mem.wf ∧ ∀ t ∈ State.reset.tiles, Mem.wf (some 0) t.localMem := by
  refine ⟨⟨⟨List.Pairwise.nil, List.forall_mem_nil _⟩, ⟨List.Pairwise.nil, List.forall_mem_nil _⟩⟩, fun t ht => ?_⟩
  rw [List.eq_of_mem_replicate (show t ∈ List.replicate 144 {} from ht)]
  exact ⟨List.Pairwise.nil, List.forall_mem_nil _⟩

end Sys2Proof.Machine
end

