-- ==== Sys2Proof/Laws/Pcs.lean ====
section
/-! SUPPORT. The physical coding of the ports: a word whose syndromes are zero is taken as it came, and what a frame without errors holds. -/
namespace Sys2Proof.Machine

/-- The zero polynomial is zero everywhere. -/
theorem gfEval_zeros (n x : Nat) : gfEval (List.replicate n 0) x = 0 := by
  have h : ∀ y, gfMul 0 y = 0 := fun y => by simp [gfMul, polyMul, polyFold]
  induction n with
  | zero => rfl
  | succ n ih => simpa [gfEval, List.replicate_succ, h] using ih

/-- A word whose syndromes are zero has no symbol in error. -/
theorem clean_errors (w : List Nat) (h : (rsSyndromes w).all (· == 0) = true) : rsErrors w = some [] := by
  unfold rsErrors
  simp only [h, if_true]

/-- The word of zeros is a codeword. -/
theorem zeros_errors (n : Nat) : rsErrors (List.replicate n 0) = some [] :=
  clean_errors _ (by simp [rsSyndromes, gfEval_zeros])

/-- The k-th chunk of a list made of chunks of 5. -/
theorem drop_chunk (f : Nat → List Nat) (hf : ∀ k, (f k).length = 5) :
    ∀ (l : List Nat) (k : Nat) (h : k < l.length), ((l.flatMap f).drop (5 * k)).take 5 = f l[k]
  | a :: r, 0, _ => by
    have := hf a
    simp [← this]
  | a :: r, k + 1, h => by
    have e : 5 * (k + 1) = (f a).length + 5 * k := by rw [hf]; omega
    rw [List.flatMap_cons, e, List.drop_append]
    have h0 : (f a).drop ((f a).length + 5 * k) = [] := List.drop_eq_nil_of_le (by omega)
    simpa [h0] using drop_chunk f hf r k (by simpa using h)

/-- The data of a frame whose codewords came without error are the symbols of their messages. -/
theorem frameView_clean (lanes : List (List Nat)) (words : List (List Nat))
    (hw : ((List.range 4).map fun c => (List.range 544).map fun i =>
      levelsSym (((lanes.getD (i % lanes.length) []).drop (5 * (4 * (i / lanes.length) + c))).take 5)) = words)
    (he : ∀ w ∈ words, rsErrors w = some []) :
    (frameView lanes 0).data = toLe 2570 ((words.flatMap (·.take 514)).foldr (fun v r => v + 1024 * r) 0) := by
  have hz : ∀ l : List (List Nat), (∀ w ∈ l, rsErrors w = some []) → List.zipWith
      (fun (w : List Nat) (e : Option (List (Nat × Nat))) => (e.getD []).foldl (fun w x => w.modify x.1 (· ^^^ x.2)) w) l (l.map rsErrors) = l := by
    intro l h
    induction l with
    | nil => rfl
    | cons a r ih =>
      rw [List.map_cons, List.zipWith_cons_cons, h a (by simp), ih fun w hw => h w (by simp [hw])]
      rfl
  unfold frameView
  simp only [hw, hz words he]

end Sys2Proof.Machine
end

