-- ==== Sys2Proof/Laws/State.lean ====
section
/-! SUPPORT. The small lemmas of State: each field after each base update, by rfl; then the families behind an index, and the updates
built on the base ones. -/
namespace Sys2Proof.Machine

@[simp] theorem State.updCm_pending (s : State) (f : CtxMgr → CtxMgr) : (s.updCm f).pending = s.pending := rfl
@[simp] theorem State.updCm_freeCount (s : State) (f : CtxMgr → CtxMgr) : (s.updCm f).freeCount = s.freeCount := rfl
@[simp] theorem State.updCm_now (s : State) (f : CtxMgr → CtxMgr) : (s.updCm f).now = s.now := rfl
@[simp] theorem State.updCm_cm (s : State) (f : CtxMgr → CtxMgr) : (s.updCm f).cm = f s.cm := rfl
@[simp] theorem State.updCm_tiles (s : State) (f : CtxMgr → CtxMgr) : (s.updCm f).tiles = s.tiles := rfl
@[simp] theorem State.updCm_mem (s : State) (f : CtxMgr → CtxMgr) : (s.updCm f).mem = s.mem := rfl
@[simp] theorem State.updCm_hst (s : State) (f : CtxMgr → CtxMgr) : (s.updCm f).hst = s.hst := rfl
@[simp] theorem State.updCm_phase (s : State) (f : CtxMgr → CtxMgr) : (s.updCm f).phase = s.phase := rfl
@[simp] theorem State.updCm_stopped (s : State) (f : CtxMgr → CtxMgr) : (s.updCm f).stopped = s.stopped := rfl
@[simp] theorem State.updCm_str (s : State) (f : CtxMgr → CtxMgr) : (s.updCm f).str = s.str := rfl
@[simp] theorem State.updCm_bus (s : State) (f : CtxMgr → CtxMgr) : (s.updCm f).bus = s.bus := rfl
@[simp] theorem State.updCm_arm (s : State) (f : CtxMgr → CtxMgr) : (s.updCm f).arm = s.arm := rfl
@[simp] theorem State.updCm_srt (s : State) (f : CtxMgr → CtxMgr) : (s.updCm f).srt = s.srt := rfl
@[simp] theorem State.updCm_pwr (s : State) (f : CtxMgr → CtxMgr) : (s.updCm f).pwr = s.pwr := rfl
@[simp] theorem State.updCm_log (s : State) (f : CtxMgr → CtxMgr) : (s.updCm f).log = s.log := rfl
@[simp] theorem State.updCm_hbm (s : State) (f : CtxMgr → CtxMgr) : (s.updCm f).hbm = s.hbm := rfl
@[simp] theorem State.updCm_fab (s : State) (f : CtxMgr → CtxMgr) : (s.updCm f).fab = s.fab := rfl
@[simp] theorem State.updCm_smp (s : State) (f : CtxMgr → CtxMgr) : (s.updCm f).smp = s.smp := rfl
@[simp] theorem State.updCm_pins (s : State) (f : CtxMgr → CtxMgr) : (s.updCm f).pins = s.pins := rfl
@[simp] theorem State.updCm_boot (s : State) (f : CtxMgr → CtxMgr) : (s.updCm f).boot = s.boot := rfl
@[simp] theorem State.updCm_sec (s : State) (f : CtxMgr → CtxMgr) : (s.updCm f).sec = s.sec := rfl
@[simp] theorem State.updCm_jtag (s : State) (f : CtxMgr → CtxMgr) : (s.updCm f).jtag = s.jtag := rfl
@[simp] theorem State.updCm_loop (s : State) (f : CtxMgr → CtxMgr) : (s.updCm f).loop = s.loop := rfl
@[simp] theorem State.updCm_tray (s : State) (f : CtxMgr → CtxMgr) : (s.updCm f).tray = s.tray := rfl
@[simp] theorem State.updCm_sw (s : State) (f : CtxMgr → CtxMgr) : (s.updCm f).sw = s.sw := rfl
@[simp] theorem State.updCm_mgmt (s : State) (f : CtxMgr → CtxMgr) : (s.updCm f).mgmt = s.mgmt := rfl
@[simp] theorem State.updHst_pending (s : State) (f : HostLink → HostLink) : (s.updHst f).pending = s.pending := rfl
@[simp] theorem State.updHst_freeCount (s : State) (f : HostLink → HostLink) : (s.updHst f).freeCount = s.freeCount := rfl
@[simp] theorem State.updHst_now (s : State) (f : HostLink → HostLink) : (s.updHst f).now = s.now := rfl
@[simp] theorem State.updHst_cm (s : State) (f : HostLink → HostLink) : (s.updHst f).cm = s.cm := rfl
@[simp] theorem State.updHst_tiles (s : State) (f : HostLink → HostLink) : (s.updHst f).tiles = s.tiles := rfl
@[simp] theorem State.updHst_mem (s : State) (f : HostLink → HostLink) : (s.updHst f).mem = s.mem := rfl
@[simp] theorem State.updHst_hst (s : State) (f : HostLink → HostLink) : (s.updHst f).hst = f s.hst := rfl
@[simp] theorem State.updHst_phase (s : State) (f : HostLink → HostLink) : (s.updHst f).phase = s.phase := rfl
@[simp] theorem State.updHst_stopped (s : State) (f : HostLink → HostLink) : (s.updHst f).stopped = s.stopped := rfl
@[simp] theorem State.updHst_str (s : State) (f : HostLink → HostLink) : (s.updHst f).str = s.str := rfl
@[simp] theorem State.updHst_bus (s : State) (f : HostLink → HostLink) : (s.updHst f).bus = s.bus := rfl
@[simp] theorem State.updHst_arm (s : State) (f : HostLink → HostLink) : (s.updHst f).arm = s.arm := rfl
@[simp] theorem State.updHst_srt (s : State) (f : HostLink → HostLink) : (s.updHst f).srt = s.srt := rfl
@[simp] theorem State.updHst_pwr (s : State) (f : HostLink → HostLink) : (s.updHst f).pwr = s.pwr := rfl
@[simp] theorem State.updHst_log (s : State) (f : HostLink → HostLink) : (s.updHst f).log = s.log := rfl
@[simp] theorem State.updHst_hbm (s : State) (f : HostLink → HostLink) : (s.updHst f).hbm = s.hbm := rfl
@[simp] theorem State.updHst_fab (s : State) (f : HostLink → HostLink) : (s.updHst f).fab = s.fab := rfl
@[simp] theorem State.updHst_smp (s : State) (f : HostLink → HostLink) : (s.updHst f).smp = s.smp := rfl
@[simp] theorem State.updHst_pins (s : State) (f : HostLink → HostLink) : (s.updHst f).pins = s.pins := rfl
@[simp] theorem State.updHst_boot (s : State) (f : HostLink → HostLink) : (s.updHst f).boot = s.boot := rfl
@[simp] theorem State.updHst_sec (s : State) (f : HostLink → HostLink) : (s.updHst f).sec = s.sec := rfl
@[simp] theorem State.updHst_jtag (s : State) (f : HostLink → HostLink) : (s.updHst f).jtag = s.jtag := rfl
@[simp] theorem State.updHst_loop (s : State) (f : HostLink → HostLink) : (s.updHst f).loop = s.loop := rfl
@[simp] theorem State.updHst_tray (s : State) (f : HostLink → HostLink) : (s.updHst f).tray = s.tray := rfl
@[simp] theorem State.updHst_sw (s : State) (f : HostLink → HostLink) : (s.updHst f).sw = s.sw := rfl
@[simp] theorem State.updHst_mgmt (s : State) (f : HostLink → HostLink) : (s.updHst f).mgmt = s.mgmt := rfl
@[simp] theorem State.updMem_pending (s : State) (f : MemSys → MemSys) : (s.updMem f).pending = s.pending := rfl
@[simp] theorem State.updMem_freeCount (s : State) (f : MemSys → MemSys) : (s.updMem f).freeCount = s.freeCount := rfl
@[simp] theorem State.updMem_now (s : State) (f : MemSys → MemSys) : (s.updMem f).now = s.now := rfl
@[simp] theorem State.updMem_cm (s : State) (f : MemSys → MemSys) : (s.updMem f).cm = s.cm := rfl
@[simp] theorem State.updMem_tiles (s : State) (f : MemSys → MemSys) : (s.updMem f).tiles = s.tiles := rfl
@[simp] theorem State.updMem_mem (s : State) (f : MemSys → MemSys) : (s.updMem f).mem = f s.mem := rfl
@[simp] theorem State.updMem_hst (s : State) (f : MemSys → MemSys) : (s.updMem f).hst = s.hst := rfl
@[simp] theorem State.updMem_phase (s : State) (f : MemSys → MemSys) : (s.updMem f).phase = s.phase := rfl
@[simp] theorem State.updMem_stopped (s : State) (f : MemSys → MemSys) : (s.updMem f).stopped = s.stopped := rfl
@[simp] theorem State.updMem_str (s : State) (f : MemSys → MemSys) : (s.updMem f).str = s.str := rfl
@[simp] theorem State.updMem_bus (s : State) (f : MemSys → MemSys) : (s.updMem f).bus = s.bus := rfl
@[simp] theorem State.updMem_arm (s : State) (f : MemSys → MemSys) : (s.updMem f).arm = s.arm := rfl
@[simp] theorem State.updMem_srt (s : State) (f : MemSys → MemSys) : (s.updMem f).srt = s.srt := rfl
@[simp] theorem State.updMem_pwr (s : State) (f : MemSys → MemSys) : (s.updMem f).pwr = s.pwr := rfl
@[simp] theorem State.updMem_log (s : State) (f : MemSys → MemSys) : (s.updMem f).log = s.log := rfl
@[simp] theorem State.updMem_hbm (s : State) (f : MemSys → MemSys) : (s.updMem f).hbm = s.hbm := rfl
@[simp] theorem State.updMem_fab (s : State) (f : MemSys → MemSys) : (s.updMem f).fab = s.fab := rfl
@[simp] theorem State.updMem_smp (s : State) (f : MemSys → MemSys) : (s.updMem f).smp = s.smp := rfl
@[simp] theorem State.updMem_pins (s : State) (f : MemSys → MemSys) : (s.updMem f).pins = s.pins := rfl
@[simp] theorem State.updMem_boot (s : State) (f : MemSys → MemSys) : (s.updMem f).boot = s.boot := rfl
@[simp] theorem State.updMem_sec (s : State) (f : MemSys → MemSys) : (s.updMem f).sec = s.sec := rfl
@[simp] theorem State.updMem_jtag (s : State) (f : MemSys → MemSys) : (s.updMem f).jtag = s.jtag := rfl
@[simp] theorem State.updMem_loop (s : State) (f : MemSys → MemSys) : (s.updMem f).loop = s.loop := rfl
@[simp] theorem State.updMem_tray (s : State) (f : MemSys → MemSys) : (s.updMem f).tray = s.tray := rfl
@[simp] theorem State.updMem_sw (s : State) (f : MemSys → MemSys) : (s.updMem f).sw = s.sw := rfl
@[simp] theorem State.updMem_mgmt (s : State) (f : MemSys → MemSys) : (s.updMem f).mgmt = s.mgmt := rfl
@[simp] theorem State.updPwr_pending (s : State) (f : Pwr → Pwr) : (s.updPwr f).pending = s.pending := rfl
@[simp] theorem State.updPwr_freeCount (s : State) (f : Pwr → Pwr) : (s.updPwr f).freeCount = s.freeCount := rfl
@[simp] theorem State.updPwr_now (s : State) (f : Pwr → Pwr) : (s.updPwr f).now = s.now := rfl
@[simp] theorem State.updPwr_cm (s : State) (f : Pwr → Pwr) : (s.updPwr f).cm = s.cm := rfl
@[simp] theorem State.updPwr_tiles (s : State) (f : Pwr → Pwr) : (s.updPwr f).tiles = s.tiles := rfl
@[simp] theorem State.updPwr_mem (s : State) (f : Pwr → Pwr) : (s.updPwr f).mem = s.mem := rfl
@[simp] theorem State.updPwr_hst (s : State) (f : Pwr → Pwr) : (s.updPwr f).hst = s.hst := rfl
@[simp] theorem State.updPwr_phase (s : State) (f : Pwr → Pwr) : (s.updPwr f).phase = s.phase := rfl
@[simp] theorem State.updPwr_stopped (s : State) (f : Pwr → Pwr) : (s.updPwr f).stopped = s.stopped := rfl
@[simp] theorem State.updPwr_str (s : State) (f : Pwr → Pwr) : (s.updPwr f).str = s.str := rfl
@[simp] theorem State.updPwr_bus (s : State) (f : Pwr → Pwr) : (s.updPwr f).bus = s.bus := rfl
@[simp] theorem State.updPwr_arm (s : State) (f : Pwr → Pwr) : (s.updPwr f).arm = s.arm := rfl
@[simp] theorem State.updPwr_srt (s : State) (f : Pwr → Pwr) : (s.updPwr f).srt = s.srt := rfl
@[simp] theorem State.updPwr_pwr (s : State) (f : Pwr → Pwr) : (s.updPwr f).pwr = f s.pwr := rfl
@[simp] theorem State.updPwr_log (s : State) (f : Pwr → Pwr) : (s.updPwr f).log = s.log := rfl
@[simp] theorem State.updPwr_hbm (s : State) (f : Pwr → Pwr) : (s.updPwr f).hbm = s.hbm := rfl
@[simp] theorem State.updPwr_fab (s : State) (f : Pwr → Pwr) : (s.updPwr f).fab = s.fab := rfl
@[simp] theorem State.updPwr_smp (s : State) (f : Pwr → Pwr) : (s.updPwr f).smp = s.smp := rfl
@[simp] theorem State.updPwr_pins (s : State) (f : Pwr → Pwr) : (s.updPwr f).pins = s.pins := rfl
@[simp] theorem State.updPwr_boot (s : State) (f : Pwr → Pwr) : (s.updPwr f).boot = s.boot := rfl
@[simp] theorem State.updPwr_sec (s : State) (f : Pwr → Pwr) : (s.updPwr f).sec = s.sec := rfl
@[simp] theorem State.updPwr_jtag (s : State) (f : Pwr → Pwr) : (s.updPwr f).jtag = s.jtag := rfl
@[simp] theorem State.updPwr_loop (s : State) (f : Pwr → Pwr) : (s.updPwr f).loop = s.loop := rfl
@[simp] theorem State.updPwr_tray (s : State) (f : Pwr → Pwr) : (s.updPwr f).tray = s.tray := rfl
@[simp] theorem State.updPwr_sw (s : State) (f : Pwr → Pwr) : (s.updPwr f).sw = s.sw := rfl
@[simp] theorem State.updPwr_mgmt (s : State) (f : Pwr → Pwr) : (s.updPwr f).mgmt = s.mgmt := rfl
@[simp] theorem State.updArms_pending (s : State) (f : ArmEng → ArmEng) : (s.updArms f).pending = s.pending := rfl
@[simp] theorem State.updArms_freeCount (s : State) (f : ArmEng → ArmEng) : (s.updArms f).freeCount = s.freeCount := rfl
@[simp] theorem State.updArms_now (s : State) (f : ArmEng → ArmEng) : (s.updArms f).now = s.now := rfl
@[simp] theorem State.updArms_cm (s : State) (f : ArmEng → ArmEng) : (s.updArms f).cm = s.cm := rfl
@[simp] theorem State.updArms_tiles (s : State) (f : ArmEng → ArmEng) : (s.updArms f).tiles = s.tiles := rfl
@[simp] theorem State.updArms_mem (s : State) (f : ArmEng → ArmEng) : (s.updArms f).mem = s.mem := rfl
@[simp] theorem State.updArms_hst (s : State) (f : ArmEng → ArmEng) : (s.updArms f).hst = s.hst := rfl
@[simp] theorem State.updArms_phase (s : State) (f : ArmEng → ArmEng) : (s.updArms f).phase = s.phase := rfl
@[simp] theorem State.updArms_stopped (s : State) (f : ArmEng → ArmEng) : (s.updArms f).stopped = s.stopped := rfl
@[simp] theorem State.updArms_str (s : State) (f : ArmEng → ArmEng) : (s.updArms f).str = s.str := rfl
@[simp] theorem State.updArms_bus (s : State) (f : ArmEng → ArmEng) : (s.updArms f).bus = s.bus := rfl
@[simp] theorem State.updArms_arm (s : State) (f : ArmEng → ArmEng) : (s.updArms f).arm = f s.arm := rfl
@[simp] theorem State.updArms_srt (s : State) (f : ArmEng → ArmEng) : (s.updArms f).srt = s.srt := rfl
@[simp] theorem State.updArms_pwr (s : State) (f : ArmEng → ArmEng) : (s.updArms f).pwr = s.pwr := rfl
@[simp] theorem State.updArms_log (s : State) (f : ArmEng → ArmEng) : (s.updArms f).log = s.log := rfl
@[simp] theorem State.updArms_hbm (s : State) (f : ArmEng → ArmEng) : (s.updArms f).hbm = s.hbm := rfl
@[simp] theorem State.updArms_fab (s : State) (f : ArmEng → ArmEng) : (s.updArms f).fab = s.fab := rfl
@[simp] theorem State.updArms_smp (s : State) (f : ArmEng → ArmEng) : (s.updArms f).smp = s.smp := rfl
@[simp] theorem State.updArms_pins (s : State) (f : ArmEng → ArmEng) : (s.updArms f).pins = s.pins := rfl
@[simp] theorem State.updArms_boot (s : State) (f : ArmEng → ArmEng) : (s.updArms f).boot = s.boot := rfl
@[simp] theorem State.updArms_sec (s : State) (f : ArmEng → ArmEng) : (s.updArms f).sec = s.sec := rfl
@[simp] theorem State.updArms_jtag (s : State) (f : ArmEng → ArmEng) : (s.updArms f).jtag = s.jtag := rfl
@[simp] theorem State.updArms_loop (s : State) (f : ArmEng → ArmEng) : (s.updArms f).loop = s.loop := rfl
@[simp] theorem State.updArms_tray (s : State) (f : ArmEng → ArmEng) : (s.updArms f).tray = s.tray := rfl
@[simp] theorem State.updArms_sw (s : State) (f : ArmEng → ArmEng) : (s.updArms f).sw = s.sw := rfl
@[simp] theorem State.updArms_mgmt (s : State) (f : ArmEng → ArmEng) : (s.updArms f).mgmt = s.mgmt := rfl
@[simp] theorem State.updStr_pending (s : State) (f : StrEng → StrEng) : (s.updStr f).pending = s.pending := rfl
@[simp] theorem State.updStr_freeCount (s : State) (f : StrEng → StrEng) : (s.updStr f).freeCount = s.freeCount := rfl
@[simp] theorem State.updStr_now (s : State) (f : StrEng → StrEng) : (s.updStr f).now = s.now := rfl
@[simp] theorem State.updStr_cm (s : State) (f : StrEng → StrEng) : (s.updStr f).cm = s.cm := rfl
@[simp] theorem State.updStr_tiles (s : State) (f : StrEng → StrEng) : (s.updStr f).tiles = s.tiles := rfl
@[simp] theorem State.updStr_mem (s : State) (f : StrEng → StrEng) : (s.updStr f).mem = s.mem := rfl
@[simp] theorem State.updStr_hst (s : State) (f : StrEng → StrEng) : (s.updStr f).hst = s.hst := rfl
@[simp] theorem State.updStr_phase (s : State) (f : StrEng → StrEng) : (s.updStr f).phase = s.phase := rfl
@[simp] theorem State.updStr_stopped (s : State) (f : StrEng → StrEng) : (s.updStr f).stopped = s.stopped := rfl
@[simp] theorem State.updStr_str (s : State) (f : StrEng → StrEng) : (s.updStr f).str = f s.str := rfl
@[simp] theorem State.updStr_bus (s : State) (f : StrEng → StrEng) : (s.updStr f).bus = s.bus := rfl
@[simp] theorem State.updStr_arm (s : State) (f : StrEng → StrEng) : (s.updStr f).arm = s.arm := rfl
@[simp] theorem State.updStr_srt (s : State) (f : StrEng → StrEng) : (s.updStr f).srt = s.srt := rfl
@[simp] theorem State.updStr_pwr (s : State) (f : StrEng → StrEng) : (s.updStr f).pwr = s.pwr := rfl
@[simp] theorem State.updStr_log (s : State) (f : StrEng → StrEng) : (s.updStr f).log = s.log := rfl
@[simp] theorem State.updStr_hbm (s : State) (f : StrEng → StrEng) : (s.updStr f).hbm = s.hbm := rfl
@[simp] theorem State.updStr_fab (s : State) (f : StrEng → StrEng) : (s.updStr f).fab = s.fab := rfl
@[simp] theorem State.updStr_smp (s : State) (f : StrEng → StrEng) : (s.updStr f).smp = s.smp := rfl
@[simp] theorem State.updStr_pins (s : State) (f : StrEng → StrEng) : (s.updStr f).pins = s.pins := rfl
@[simp] theorem State.updStr_boot (s : State) (f : StrEng → StrEng) : (s.updStr f).boot = s.boot := rfl
@[simp] theorem State.updStr_sec (s : State) (f : StrEng → StrEng) : (s.updStr f).sec = s.sec := rfl
@[simp] theorem State.updStr_jtag (s : State) (f : StrEng → StrEng) : (s.updStr f).jtag = s.jtag := rfl
@[simp] theorem State.updStr_loop (s : State) (f : StrEng → StrEng) : (s.updStr f).loop = s.loop := rfl
@[simp] theorem State.updStr_tray (s : State) (f : StrEng → StrEng) : (s.updStr f).tray = s.tray := rfl
@[simp] theorem State.updStr_sw (s : State) (f : StrEng → StrEng) : (s.updStr f).sw = s.sw := rfl
@[simp] theorem State.updStr_mgmt (s : State) (f : StrEng → StrEng) : (s.updStr f).mgmt = s.mgmt := rfl
@[simp] theorem State.updFab_pending (s : State) (f : Fabric → Fabric) : (s.updFab f).pending = s.pending := rfl
@[simp] theorem State.updFab_freeCount (s : State) (f : Fabric → Fabric) : (s.updFab f).freeCount = s.freeCount := rfl
@[simp] theorem State.updFab_now (s : State) (f : Fabric → Fabric) : (s.updFab f).now = s.now := rfl
@[simp] theorem State.updFab_cm (s : State) (f : Fabric → Fabric) : (s.updFab f).cm = s.cm := rfl
@[simp] theorem State.updFab_tiles (s : State) (f : Fabric → Fabric) : (s.updFab f).tiles = s.tiles := rfl
@[simp] theorem State.updFab_mem (s : State) (f : Fabric → Fabric) : (s.updFab f).mem = s.mem := rfl
@[simp] theorem State.updFab_hst (s : State) (f : Fabric → Fabric) : (s.updFab f).hst = s.hst := rfl
@[simp] theorem State.updFab_phase (s : State) (f : Fabric → Fabric) : (s.updFab f).phase = s.phase := rfl
@[simp] theorem State.updFab_stopped (s : State) (f : Fabric → Fabric) : (s.updFab f).stopped = s.stopped := rfl
@[simp] theorem State.updFab_str (s : State) (f : Fabric → Fabric) : (s.updFab f).str = s.str := rfl
@[simp] theorem State.updFab_bus (s : State) (f : Fabric → Fabric) : (s.updFab f).bus = s.bus := rfl
@[simp] theorem State.updFab_arm (s : State) (f : Fabric → Fabric) : (s.updFab f).arm = s.arm := rfl
@[simp] theorem State.updFab_srt (s : State) (f : Fabric → Fabric) : (s.updFab f).srt = s.srt := rfl
@[simp] theorem State.updFab_pwr (s : State) (f : Fabric → Fabric) : (s.updFab f).pwr = s.pwr := rfl
@[simp] theorem State.updFab_log (s : State) (f : Fabric → Fabric) : (s.updFab f).log = s.log := rfl
@[simp] theorem State.updFab_hbm (s : State) (f : Fabric → Fabric) : (s.updFab f).hbm = s.hbm := rfl
@[simp] theorem State.updFab_fab (s : State) (f : Fabric → Fabric) : (s.updFab f).fab = f s.fab := rfl
@[simp] theorem State.updFab_smp (s : State) (f : Fabric → Fabric) : (s.updFab f).smp = s.smp := rfl
@[simp] theorem State.updFab_pins (s : State) (f : Fabric → Fabric) : (s.updFab f).pins = s.pins := rfl
@[simp] theorem State.updFab_boot (s : State) (f : Fabric → Fabric) : (s.updFab f).boot = s.boot := rfl
@[simp] theorem State.updFab_sec (s : State) (f : Fabric → Fabric) : (s.updFab f).sec = s.sec := rfl
@[simp] theorem State.updFab_jtag (s : State) (f : Fabric → Fabric) : (s.updFab f).jtag = s.jtag := rfl
@[simp] theorem State.updFab_loop (s : State) (f : Fabric → Fabric) : (s.updFab f).loop = s.loop := rfl
@[simp] theorem State.updFab_tray (s : State) (f : Fabric → Fabric) : (s.updFab f).tray = s.tray := rfl
@[simp] theorem State.updFab_sw (s : State) (f : Fabric → Fabric) : (s.updFab f).sw = s.sw := rfl
@[simp] theorem State.updFab_mgmt (s : State) (f : Fabric → Fabric) : (s.updFab f).mgmt = s.mgmt := rfl
@[simp] theorem State.updSmp_pending (s : State) (f : Smp → Smp) : (s.updSmp f).pending = s.pending := rfl
@[simp] theorem State.updSmp_freeCount (s : State) (f : Smp → Smp) : (s.updSmp f).freeCount = s.freeCount := rfl
@[simp] theorem State.updSmp_now (s : State) (f : Smp → Smp) : (s.updSmp f).now = s.now := rfl
@[simp] theorem State.updSmp_cm (s : State) (f : Smp → Smp) : (s.updSmp f).cm = s.cm := rfl
@[simp] theorem State.updSmp_tiles (s : State) (f : Smp → Smp) : (s.updSmp f).tiles = s.tiles := rfl
@[simp] theorem State.updSmp_mem (s : State) (f : Smp → Smp) : (s.updSmp f).mem = s.mem := rfl
@[simp] theorem State.updSmp_hst (s : State) (f : Smp → Smp) : (s.updSmp f).hst = s.hst := rfl
@[simp] theorem State.updSmp_phase (s : State) (f : Smp → Smp) : (s.updSmp f).phase = s.phase := rfl
@[simp] theorem State.updSmp_stopped (s : State) (f : Smp → Smp) : (s.updSmp f).stopped = s.stopped := rfl
@[simp] theorem State.updSmp_str (s : State) (f : Smp → Smp) : (s.updSmp f).str = s.str := rfl
@[simp] theorem State.updSmp_bus (s : State) (f : Smp → Smp) : (s.updSmp f).bus = s.bus := rfl
@[simp] theorem State.updSmp_arm (s : State) (f : Smp → Smp) : (s.updSmp f).arm = s.arm := rfl
@[simp] theorem State.updSmp_srt (s : State) (f : Smp → Smp) : (s.updSmp f).srt = s.srt := rfl
@[simp] theorem State.updSmp_pwr (s : State) (f : Smp → Smp) : (s.updSmp f).pwr = s.pwr := rfl
@[simp] theorem State.updSmp_log (s : State) (f : Smp → Smp) : (s.updSmp f).log = s.log := rfl
@[simp] theorem State.updSmp_hbm (s : State) (f : Smp → Smp) : (s.updSmp f).hbm = s.hbm := rfl
@[simp] theorem State.updSmp_fab (s : State) (f : Smp → Smp) : (s.updSmp f).fab = s.fab := rfl
@[simp] theorem State.updSmp_smp (s : State) (f : Smp → Smp) : (s.updSmp f).smp = f s.smp := rfl
@[simp] theorem State.updSmp_pins (s : State) (f : Smp → Smp) : (s.updSmp f).pins = s.pins := rfl
@[simp] theorem State.updSmp_boot (s : State) (f : Smp → Smp) : (s.updSmp f).boot = s.boot := rfl
@[simp] theorem State.updSmp_sec (s : State) (f : Smp → Smp) : (s.updSmp f).sec = s.sec := rfl
@[simp] theorem State.updSmp_jtag (s : State) (f : Smp → Smp) : (s.updSmp f).jtag = s.jtag := rfl
@[simp] theorem State.updSmp_loop (s : State) (f : Smp → Smp) : (s.updSmp f).loop = s.loop := rfl
@[simp] theorem State.updSmp_tray (s : State) (f : Smp → Smp) : (s.updSmp f).tray = s.tray := rfl
@[simp] theorem State.updSmp_sw (s : State) (f : Smp → Smp) : (s.updSmp f).sw = s.sw := rfl
@[simp] theorem State.updSmp_mgmt (s : State) (f : Smp → Smp) : (s.updSmp f).mgmt = s.mgmt := rfl
@[simp] theorem State.updSec_pending (s : State) (f : Sec → Sec) : (s.updSec f).pending = s.pending := rfl
@[simp] theorem State.updSec_freeCount (s : State) (f : Sec → Sec) : (s.updSec f).freeCount = s.freeCount := rfl
@[simp] theorem State.updSec_now (s : State) (f : Sec → Sec) : (s.updSec f).now = s.now := rfl
@[simp] theorem State.updSec_cm (s : State) (f : Sec → Sec) : (s.updSec f).cm = s.cm := rfl
@[simp] theorem State.updSec_tiles (s : State) (f : Sec → Sec) : (s.updSec f).tiles = s.tiles := rfl
@[simp] theorem State.updSec_mem (s : State) (f : Sec → Sec) : (s.updSec f).mem = s.mem := rfl
@[simp] theorem State.updSec_hst (s : State) (f : Sec → Sec) : (s.updSec f).hst = s.hst := rfl
@[simp] theorem State.updSec_phase (s : State) (f : Sec → Sec) : (s.updSec f).phase = s.phase := rfl
@[simp] theorem State.updSec_stopped (s : State) (f : Sec → Sec) : (s.updSec f).stopped = s.stopped := rfl
@[simp] theorem State.updSec_str (s : State) (f : Sec → Sec) : (s.updSec f).str = s.str := rfl
@[simp] theorem State.updSec_bus (s : State) (f : Sec → Sec) : (s.updSec f).bus = s.bus := rfl
@[simp] theorem State.updSec_arm (s : State) (f : Sec → Sec) : (s.updSec f).arm = s.arm := rfl
@[simp] theorem State.updSec_srt (s : State) (f : Sec → Sec) : (s.updSec f).srt = s.srt := rfl
@[simp] theorem State.updSec_pwr (s : State) (f : Sec → Sec) : (s.updSec f).pwr = s.pwr := rfl
@[simp] theorem State.updSec_log (s : State) (f : Sec → Sec) : (s.updSec f).log = s.log := rfl
@[simp] theorem State.updSec_hbm (s : State) (f : Sec → Sec) : (s.updSec f).hbm = s.hbm := rfl
@[simp] theorem State.updSec_fab (s : State) (f : Sec → Sec) : (s.updSec f).fab = s.fab := rfl
@[simp] theorem State.updSec_smp (s : State) (f : Sec → Sec) : (s.updSec f).smp = s.smp := rfl
@[simp] theorem State.updSec_pins (s : State) (f : Sec → Sec) : (s.updSec f).pins = s.pins := rfl
@[simp] theorem State.updSec_boot (s : State) (f : Sec → Sec) : (s.updSec f).boot = s.boot := rfl
@[simp] theorem State.updSec_sec (s : State) (f : Sec → Sec) : (s.updSec f).sec = f s.sec := rfl
@[simp] theorem State.updSec_jtag (s : State) (f : Sec → Sec) : (s.updSec f).jtag = s.jtag := rfl
@[simp] theorem State.updSec_loop (s : State) (f : Sec → Sec) : (s.updSec f).loop = s.loop := rfl
@[simp] theorem State.updSec_tray (s : State) (f : Sec → Sec) : (s.updSec f).tray = s.tray := rfl
@[simp] theorem State.updSec_sw (s : State) (f : Sec → Sec) : (s.updSec f).sw = s.sw := rfl
@[simp] theorem State.updSec_mgmt (s : State) (f : Sec → Sec) : (s.updSec f).mgmt = s.mgmt := rfl
@[simp] theorem State.updBoot_pending (s : State) (f : Boot → Boot) : (s.updBoot f).pending = s.pending := rfl
@[simp] theorem State.updBoot_freeCount (s : State) (f : Boot → Boot) : (s.updBoot f).freeCount = s.freeCount := rfl
@[simp] theorem State.updBoot_now (s : State) (f : Boot → Boot) : (s.updBoot f).now = s.now := rfl
@[simp] theorem State.updBoot_cm (s : State) (f : Boot → Boot) : (s.updBoot f).cm = s.cm := rfl
@[simp] theorem State.updBoot_tiles (s : State) (f : Boot → Boot) : (s.updBoot f).tiles = s.tiles := rfl
@[simp] theorem State.updBoot_mem (s : State) (f : Boot → Boot) : (s.updBoot f).mem = s.mem := rfl
@[simp] theorem State.updBoot_hst (s : State) (f : Boot → Boot) : (s.updBoot f).hst = s.hst := rfl
@[simp] theorem State.updBoot_phase (s : State) (f : Boot → Boot) : (s.updBoot f).phase = s.phase := rfl
@[simp] theorem State.updBoot_stopped (s : State) (f : Boot → Boot) : (s.updBoot f).stopped = s.stopped := rfl
@[simp] theorem State.updBoot_str (s : State) (f : Boot → Boot) : (s.updBoot f).str = s.str := rfl
@[simp] theorem State.updBoot_bus (s : State) (f : Boot → Boot) : (s.updBoot f).bus = s.bus := rfl
@[simp] theorem State.updBoot_arm (s : State) (f : Boot → Boot) : (s.updBoot f).arm = s.arm := rfl
@[simp] theorem State.updBoot_srt (s : State) (f : Boot → Boot) : (s.updBoot f).srt = s.srt := rfl
@[simp] theorem State.updBoot_pwr (s : State) (f : Boot → Boot) : (s.updBoot f).pwr = s.pwr := rfl
@[simp] theorem State.updBoot_log (s : State) (f : Boot → Boot) : (s.updBoot f).log = s.log := rfl
@[simp] theorem State.updBoot_hbm (s : State) (f : Boot → Boot) : (s.updBoot f).hbm = s.hbm := rfl
@[simp] theorem State.updBoot_fab (s : State) (f : Boot → Boot) : (s.updBoot f).fab = s.fab := rfl
@[simp] theorem State.updBoot_smp (s : State) (f : Boot → Boot) : (s.updBoot f).smp = s.smp := rfl
@[simp] theorem State.updBoot_pins (s : State) (f : Boot → Boot) : (s.updBoot f).pins = s.pins := rfl
@[simp] theorem State.updBoot_boot (s : State) (f : Boot → Boot) : (s.updBoot f).boot = f s.boot := rfl
@[simp] theorem State.updBoot_sec (s : State) (f : Boot → Boot) : (s.updBoot f).sec = s.sec := rfl
@[simp] theorem State.updBoot_jtag (s : State) (f : Boot → Boot) : (s.updBoot f).jtag = s.jtag := rfl
@[simp] theorem State.updBoot_loop (s : State) (f : Boot → Boot) : (s.updBoot f).loop = s.loop := rfl
@[simp] theorem State.updBoot_tray (s : State) (f : Boot → Boot) : (s.updBoot f).tray = s.tray := rfl
@[simp] theorem State.updBoot_sw (s : State) (f : Boot → Boot) : (s.updBoot f).sw = s.sw := rfl
@[simp] theorem State.updBoot_mgmt (s : State) (f : Boot → Boot) : (s.updBoot f).mgmt = s.mgmt := rfl
@[simp] theorem State.updLoop_pending (s : State) (f : LoopTest → LoopTest) : (s.updLoop f).pending = s.pending := rfl
@[simp] theorem State.updLoop_freeCount (s : State) (f : LoopTest → LoopTest) : (s.updLoop f).freeCount = s.freeCount := rfl
@[simp] theorem State.updLoop_now (s : State) (f : LoopTest → LoopTest) : (s.updLoop f).now = s.now := rfl
@[simp] theorem State.updLoop_cm (s : State) (f : LoopTest → LoopTest) : (s.updLoop f).cm = s.cm := rfl
@[simp] theorem State.updLoop_tiles (s : State) (f : LoopTest → LoopTest) : (s.updLoop f).tiles = s.tiles := rfl
@[simp] theorem State.updLoop_mem (s : State) (f : LoopTest → LoopTest) : (s.updLoop f).mem = s.mem := rfl
@[simp] theorem State.updLoop_hst (s : State) (f : LoopTest → LoopTest) : (s.updLoop f).hst = s.hst := rfl
@[simp] theorem State.updLoop_phase (s : State) (f : LoopTest → LoopTest) : (s.updLoop f).phase = s.phase := rfl
@[simp] theorem State.updLoop_stopped (s : State) (f : LoopTest → LoopTest) : (s.updLoop f).stopped = s.stopped := rfl
@[simp] theorem State.updLoop_str (s : State) (f : LoopTest → LoopTest) : (s.updLoop f).str = s.str := rfl
@[simp] theorem State.updLoop_bus (s : State) (f : LoopTest → LoopTest) : (s.updLoop f).bus = s.bus := rfl
@[simp] theorem State.updLoop_arm (s : State) (f : LoopTest → LoopTest) : (s.updLoop f).arm = s.arm := rfl
@[simp] theorem State.updLoop_srt (s : State) (f : LoopTest → LoopTest) : (s.updLoop f).srt = s.srt := rfl
@[simp] theorem State.updLoop_pwr (s : State) (f : LoopTest → LoopTest) : (s.updLoop f).pwr = s.pwr := rfl
@[simp] theorem State.updLoop_log (s : State) (f : LoopTest → LoopTest) : (s.updLoop f).log = s.log := rfl
@[simp] theorem State.updLoop_hbm (s : State) (f : LoopTest → LoopTest) : (s.updLoop f).hbm = s.hbm := rfl
@[simp] theorem State.updLoop_fab (s : State) (f : LoopTest → LoopTest) : (s.updLoop f).fab = s.fab := rfl
@[simp] theorem State.updLoop_smp (s : State) (f : LoopTest → LoopTest) : (s.updLoop f).smp = s.smp := rfl
@[simp] theorem State.updLoop_pins (s : State) (f : LoopTest → LoopTest) : (s.updLoop f).pins = s.pins := rfl
@[simp] theorem State.updLoop_boot (s : State) (f : LoopTest → LoopTest) : (s.updLoop f).boot = s.boot := rfl
@[simp] theorem State.updLoop_sec (s : State) (f : LoopTest → LoopTest) : (s.updLoop f).sec = s.sec := rfl
@[simp] theorem State.updLoop_jtag (s : State) (f : LoopTest → LoopTest) : (s.updLoop f).jtag = s.jtag := rfl
@[simp] theorem State.updLoop_loop (s : State) (f : LoopTest → LoopTest) : (s.updLoop f).loop = f s.loop := rfl
@[simp] theorem State.updLoop_tray (s : State) (f : LoopTest → LoopTest) : (s.updLoop f).tray = s.tray := rfl
@[simp] theorem State.updLoop_sw (s : State) (f : LoopTest → LoopTest) : (s.updLoop f).sw = s.sw := rfl
@[simp] theorem State.updLoop_mgmt (s : State) (f : LoopTest → LoopTest) : (s.updLoop f).mgmt = s.mgmt := rfl
@[simp] theorem State.updTile_pending (s : State) (t : Nat) (f : Tile → Tile) : (s.updTile t f).pending = s.pending := rfl
@[simp] theorem State.updTile_freeCount (s : State) (t : Nat) (f : Tile → Tile) : (s.updTile t f).freeCount = s.freeCount := rfl
@[simp] theorem State.updTile_now (s : State) (t : Nat) (f : Tile → Tile) : (s.updTile t f).now = s.now := rfl
@[simp] theorem State.updTile_cm (s : State) (t : Nat) (f : Tile → Tile) : (s.updTile t f).cm = s.cm := rfl
@[simp] theorem State.updTile_tiles (s : State) (t : Nat) (f : Tile → Tile) : (s.updTile t f).tiles = s.tiles.modify t f := rfl
@[simp] theorem State.updTile_mem (s : State) (t : Nat) (f : Tile → Tile) : (s.updTile t f).mem = s.mem := rfl
@[simp] theorem State.updTile_hst (s : State) (t : Nat) (f : Tile → Tile) : (s.updTile t f).hst = s.hst := rfl
@[simp] theorem State.updTile_phase (s : State) (t : Nat) (f : Tile → Tile) : (s.updTile t f).phase = s.phase := rfl
@[simp] theorem State.updTile_stopped (s : State) (t : Nat) (f : Tile → Tile) : (s.updTile t f).stopped = s.stopped := rfl
@[simp] theorem State.updTile_str (s : State) (t : Nat) (f : Tile → Tile) : (s.updTile t f).str = s.str := rfl
@[simp] theorem State.updTile_bus (s : State) (t : Nat) (f : Tile → Tile) : (s.updTile t f).bus = s.bus := rfl
@[simp] theorem State.updTile_arm (s : State) (t : Nat) (f : Tile → Tile) : (s.updTile t f).arm = s.arm := rfl
@[simp] theorem State.updTile_srt (s : State) (t : Nat) (f : Tile → Tile) : (s.updTile t f).srt = s.srt := rfl
@[simp] theorem State.updTile_pwr (s : State) (t : Nat) (f : Tile → Tile) : (s.updTile t f).pwr = s.pwr := rfl
@[simp] theorem State.updTile_log (s : State) (t : Nat) (f : Tile → Tile) : (s.updTile t f).log = s.log := rfl
@[simp] theorem State.updTile_hbm (s : State) (t : Nat) (f : Tile → Tile) : (s.updTile t f).hbm = s.hbm := rfl
@[simp] theorem State.updTile_fab (s : State) (t : Nat) (f : Tile → Tile) : (s.updTile t f).fab = s.fab := rfl
@[simp] theorem State.updTile_smp (s : State) (t : Nat) (f : Tile → Tile) : (s.updTile t f).smp = s.smp := rfl
@[simp] theorem State.updTile_pins (s : State) (t : Nat) (f : Tile → Tile) : (s.updTile t f).pins = s.pins := rfl
@[simp] theorem State.updTile_boot (s : State) (t : Nat) (f : Tile → Tile) : (s.updTile t f).boot = s.boot := rfl
@[simp] theorem State.updTile_sec (s : State) (t : Nat) (f : Tile → Tile) : (s.updTile t f).sec = s.sec := rfl
@[simp] theorem State.updTile_jtag (s : State) (t : Nat) (f : Tile → Tile) : (s.updTile t f).jtag = s.jtag := rfl
@[simp] theorem State.updTile_loop (s : State) (t : Nat) (f : Tile → Tile) : (s.updTile t f).loop = s.loop := rfl
@[simp] theorem State.updTile_tray (s : State) (t : Nat) (f : Tile → Tile) : (s.updTile t f).tray = s.tray := rfl
@[simp] theorem State.updTile_sw (s : State) (t : Nat) (f : Tile → Tile) : (s.updTile t f).sw = s.sw := rfl
@[simp] theorem State.updTile_mgmt (s : State) (t : Nat) (f : Tile → Tile) : (s.updTile t f).mgmt = s.mgmt := rfl
@[simp] theorem State.updTiles_pending (s : State) (f : Tile → Tile) : (s.updTiles f).pending = s.pending := rfl
@[simp] theorem State.updTiles_freeCount (s : State) (f : Tile → Tile) : (s.updTiles f).freeCount = s.freeCount := rfl
@[simp] theorem State.updTiles_now (s : State) (f : Tile → Tile) : (s.updTiles f).now = s.now := rfl
@[simp] theorem State.updTiles_cm (s : State) (f : Tile → Tile) : (s.updTiles f).cm = s.cm := rfl
@[simp] theorem State.updTiles_tiles (s : State) (f : Tile → Tile) : (s.updTiles f).tiles = s.tiles.map f := rfl
@[simp] theorem State.updTiles_mem (s : State) (f : Tile → Tile) : (s.updTiles f).mem = s.mem := rfl
@[simp] theorem State.updTiles_hst (s : State) (f : Tile → Tile) : (s.updTiles f).hst = s.hst := rfl
@[simp] theorem State.updTiles_phase (s : State) (f : Tile → Tile) : (s.updTiles f).phase = s.phase := rfl
@[simp] theorem State.updTiles_stopped (s : State) (f : Tile → Tile) : (s.updTiles f).stopped = s.stopped := rfl
@[simp] theorem State.updTiles_str (s : State) (f : Tile → Tile) : (s.updTiles f).str = s.str := rfl
@[simp] theorem State.updTiles_bus (s : State) (f : Tile → Tile) : (s.updTiles f).bus = s.bus := rfl
@[simp] theorem State.updTiles_arm (s : State) (f : Tile → Tile) : (s.updTiles f).arm = s.arm := rfl
@[simp] theorem State.updTiles_srt (s : State) (f : Tile → Tile) : (s.updTiles f).srt = s.srt := rfl
@[simp] theorem State.updTiles_pwr (s : State) (f : Tile → Tile) : (s.updTiles f).pwr = s.pwr := rfl
@[simp] theorem State.updTiles_log (s : State) (f : Tile → Tile) : (s.updTiles f).log = s.log := rfl
@[simp] theorem State.updTiles_hbm (s : State) (f : Tile → Tile) : (s.updTiles f).hbm = s.hbm := rfl
@[simp] theorem State.updTiles_fab (s : State) (f : Tile → Tile) : (s.updTiles f).fab = s.fab := rfl
@[simp] theorem State.updTiles_smp (s : State) (f : Tile → Tile) : (s.updTiles f).smp = s.smp := rfl
@[simp] theorem State.updTiles_pins (s : State) (f : Tile → Tile) : (s.updTiles f).pins = s.pins := rfl
@[simp] theorem State.updTiles_boot (s : State) (f : Tile → Tile) : (s.updTiles f).boot = s.boot := rfl
@[simp] theorem State.updTiles_sec (s : State) (f : Tile → Tile) : (s.updTiles f).sec = s.sec := rfl
@[simp] theorem State.updTiles_jtag (s : State) (f : Tile → Tile) : (s.updTiles f).jtag = s.jtag := rfl
@[simp] theorem State.updTiles_loop (s : State) (f : Tile → Tile) : (s.updTiles f).loop = s.loop := rfl
@[simp] theorem State.updTiles_tray (s : State) (f : Tile → Tile) : (s.updTiles f).tray = s.tray := rfl
@[simp] theorem State.updTiles_sw (s : State) (f : Tile → Tile) : (s.updTiles f).sw = s.sw := rfl
@[simp] theorem State.updTiles_mgmt (s : State) (f : Tile → Tile) : (s.updTiles f).mgmt = s.mgmt := rfl
@[simp] theorem State.at_pending (s : State) (t : Nat) : (s.at t).pending = s.pending := rfl
@[simp] theorem State.at_freeCount (s : State) (t : Nat) : (s.at t).freeCount = s.freeCount := rfl
@[simp] theorem State.at_now (s : State) (t : Nat) : (s.at t).now = max s.now t := rfl
@[simp] theorem State.at_cm (s : State) (t : Nat) : (s.at t).cm = s.cm := rfl
@[simp] theorem State.at_tiles (s : State) (t : Nat) : (s.at t).tiles = s.tiles := rfl
@[simp] theorem State.at_mem (s : State) (t : Nat) : (s.at t).mem = s.mem := rfl
@[simp] theorem State.at_hst (s : State) (t : Nat) : (s.at t).hst = s.hst := rfl
@[simp] theorem State.at_phase (s : State) (t : Nat) : (s.at t).phase = s.phase := rfl
@[simp] theorem State.at_stopped (s : State) (t : Nat) : (s.at t).stopped = s.stopped := rfl
@[simp] theorem State.at_str (s : State) (t : Nat) : (s.at t).str = s.str := rfl
@[simp] theorem State.at_bus (s : State) (t : Nat) : (s.at t).bus = s.bus := rfl
@[simp] theorem State.at_arm (s : State) (t : Nat) : (s.at t).arm = s.arm := rfl
@[simp] theorem State.at_srt (s : State) (t : Nat) : (s.at t).srt = s.srt := rfl
@[simp] theorem State.at_pwr (s : State) (t : Nat) : (s.at t).pwr = s.pwr := rfl
@[simp] theorem State.at_log (s : State) (t : Nat) : (s.at t).log = s.log := rfl
@[simp] theorem State.at_hbm (s : State) (t : Nat) : (s.at t).hbm = s.hbm := rfl
@[simp] theorem State.at_fab (s : State) (t : Nat) : (s.at t).fab = s.fab := rfl
@[simp] theorem State.at_smp (s : State) (t : Nat) : (s.at t).smp = s.smp := rfl
@[simp] theorem State.at_pins (s : State) (t : Nat) : (s.at t).pins = s.pins := rfl
@[simp] theorem State.at_boot (s : State) (t : Nat) : (s.at t).boot = s.boot := rfl
@[simp] theorem State.at_sec (s : State) (t : Nat) : (s.at t).sec = s.sec := rfl
@[simp] theorem State.at_jtag (s : State) (t : Nat) : (s.at t).jtag = s.jtag := rfl
@[simp] theorem State.at_loop (s : State) (t : Nat) : (s.at t).loop = s.loop := rfl
@[simp] theorem State.at_tray (s : State) (t : Nat) : (s.at t).tray = s.tray := rfl
@[simp] theorem State.at_sw (s : State) (t : Nat) : (s.at t).sw = s.sw := rfl
@[simp] theorem State.at_mgmt (s : State) (t : Nat) : (s.at t).mgmt = s.mgmt := rfl
@[simp] theorem State.draw_pending (s : State) : (s.draw).pending = s.pending := rfl
@[simp] theorem State.draw_freeCount (s : State) : (s.draw).freeCount = s.freeCount + 1 := rfl
@[simp] theorem State.draw_now (s : State) : (s.draw).now = s.now := rfl
@[simp] theorem State.draw_cm (s : State) : (s.draw).cm = s.cm := rfl
@[simp] theorem State.draw_tiles (s : State) : (s.draw).tiles = s.tiles := rfl
@[simp] theorem State.draw_mem (s : State) : (s.draw).mem = s.mem := rfl
@[simp] theorem State.draw_hst (s : State) : (s.draw).hst = s.hst := rfl
@[simp] theorem State.draw_phase (s : State) : (s.draw).phase = s.phase := rfl
@[simp] theorem State.draw_stopped (s : State) : (s.draw).stopped = s.stopped := rfl
@[simp] theorem State.draw_str (s : State) : (s.draw).str = s.str := rfl
@[simp] theorem State.draw_bus (s : State) : (s.draw).bus = s.bus := rfl
@[simp] theorem State.draw_arm (s : State) : (s.draw).arm = s.arm := rfl
@[simp] theorem State.draw_srt (s : State) : (s.draw).srt = s.srt := rfl
@[simp] theorem State.draw_pwr (s : State) : (s.draw).pwr = s.pwr := rfl
@[simp] theorem State.draw_log (s : State) : (s.draw).log = s.log := rfl
@[simp] theorem State.draw_hbm (s : State) : (s.draw).hbm = s.hbm := rfl
@[simp] theorem State.draw_fab (s : State) : (s.draw).fab = s.fab := rfl
@[simp] theorem State.draw_smp (s : State) : (s.draw).smp = s.smp := rfl
@[simp] theorem State.draw_pins (s : State) : (s.draw).pins = s.pins := rfl
@[simp] theorem State.draw_boot (s : State) : (s.draw).boot = s.boot := rfl
@[simp] theorem State.draw_sec (s : State) : (s.draw).sec = s.sec := rfl
@[simp] theorem State.draw_jtag (s : State) : (s.draw).jtag = s.jtag := rfl
@[simp] theorem State.draw_loop (s : State) : (s.draw).loop = s.loop := rfl
@[simp] theorem State.draw_tray (s : State) : (s.draw).tray = s.tray := rfl
@[simp] theorem State.draw_sw (s : State) : (s.draw).sw = s.sw := rfl
@[simp] theorem State.draw_mgmt (s : State) : (s.draw).mgmt = s.mgmt := rfl

/-! ## Updates built on the base ones -/

@[simp] theorem State.updCtx_frame (s : State) (c : Nat) (f : Ctx → Ctx) :
    (s.updCtx c f).pending = s.pending ∧ (s.updCtx c f).freeCount = s.freeCount ∧ (s.updCtx c f).now = s.now ∧
    (s.updCtx c f).tiles = s.tiles ∧ (s.updCtx c f).mem = s.mem ∧ (s.updCtx c f).hst = s.hst ∧ (s.updCtx c f).phase = s.phase ∧
    (s.updCtx c f).stopped = s.stopped ∧ (s.updCtx c f).str = s.str ∧ (s.updCtx c f).bus = s.bus ∧ (s.updCtx c f).arm = s.arm ∧
    (s.updCtx c f).srt = s.srt ∧ (s.updCtx c f).pwr = s.pwr ∧ (s.updCtx c f).log = s.log ∧ (s.updCtx c f).hbm = s.hbm ∧
    (s.updCtx c f).fab = s.fab ∧ (s.updCtx c f).smp = s.smp ∧ (s.updCtx c f).pins = s.pins ∧ (s.updCtx c f).boot = s.boot ∧
    (s.updCtx c f).sec = s.sec ∧ (s.updCtx c f).jtag = s.jtag ∧ (s.updCtx c f).loop = s.loop ∧ (s.updCtx c f).tray = s.tray ∧
    (s.updCtx c f).sw = s.sw ∧ (s.updCtx c f).mgmt = s.mgmt :=
    ⟨rfl, rfl, rfl, rfl, rfl, rfl, rfl, rfl, rfl, rfl, rfl, rfl, rfl, rfl, rfl, rfl, rfl, rfl, rfl, rfl, rfl, rfl, rfl, rfl, rfl⟩
@[simp] theorem State.updPart_frame (s : State) (p : Nat) (f : Part → Part) :
    (s.updPart p f).pending = s.pending ∧ (s.updPart p f).freeCount = s.freeCount ∧ (s.updPart p f).now = s.now ∧
    (s.updPart p f).tiles = s.tiles ∧ (s.updPart p f).mem = s.mem ∧ (s.updPart p f).hst = s.hst ∧ (s.updPart p f).phase = s.phase ∧
    (s.updPart p f).stopped = s.stopped ∧ (s.updPart p f).str = s.str ∧ (s.updPart p f).bus = s.bus ∧ (s.updPart p f).arm = s.arm ∧
    (s.updPart p f).srt = s.srt ∧ (s.updPart p f).pwr = s.pwr ∧ (s.updPart p f).log = s.log ∧ (s.updPart p f).hbm = s.hbm ∧
    (s.updPart p f).fab = s.fab ∧ (s.updPart p f).smp = s.smp ∧ (s.updPart p f).pins = s.pins ∧ (s.updPart p f).boot = s.boot ∧
    (s.updPart p f).sec = s.sec ∧ (s.updPart p f).jtag = s.jtag ∧ (s.updPart p f).loop = s.loop ∧ (s.updPart p f).tray = s.tray ∧
    (s.updPart p f).sw = s.sw ∧ (s.updPart p f).mgmt = s.mgmt :=
    ⟨rfl, rfl, rfl, rfl, rfl, rfl, rfl, rfl, rfl, rfl, rfl, rfl, rfl, rfl, rfl, rfl, rfl, rfl, rfl, rfl, rfl, rfl, rfl, rfl, rfl⟩
@[simp] theorem State.updQueue_frame (s : State) (q : Nat) (f : HostQ → HostQ) :
    (s.updQueue q f).pending = s.pending ∧ (s.updQueue q f).freeCount = s.freeCount ∧ (s.updQueue q f).now = s.now ∧
    (s.updQueue q f).tiles = s.tiles ∧ (s.updQueue q f).mem = s.mem ∧ (s.updQueue q f).hst = s.hst ∧ (s.updQueue q f).phase = s.phase ∧
    (s.updQueue q f).stopped = s.stopped ∧ (s.updQueue q f).str = s.str ∧ (s.updQueue q f).bus = s.bus ∧ (s.updQueue q f).arm = s.arm ∧
    (s.updQueue q f).srt = s.srt ∧ (s.updQueue q f).pwr = s.pwr ∧ (s.updQueue q f).log = s.log ∧ (s.updQueue q f).hbm = s.hbm ∧
    (s.updQueue q f).fab = s.fab ∧ (s.updQueue q f).smp = s.smp ∧ (s.updQueue q f).pins = s.pins ∧ (s.updQueue q f).boot = s.boot ∧
    (s.updQueue q f).sec = s.sec ∧ (s.updQueue q f).jtag = s.jtag ∧ (s.updQueue q f).loop = s.loop ∧ (s.updQueue q f).tray = s.tray ∧
    (s.updQueue q f).sw = s.sw ∧ (s.updQueue q f).mgmt = s.mgmt :=
    ⟨rfl, rfl, rfl, rfl, rfl, rfl, rfl, rfl, rfl, rfl, rfl, rfl, rfl, rfl, rfl, rfl, rfl, rfl, rfl, rfl, rfl, rfl, rfl, rfl, rfl⟩
@[simp] theorem State.updPwrTile_frame (s : State) (t : Nat) (f : PwrTile → PwrTile) :
    (s.updPwrTile t f).pending = s.pending ∧ (s.updPwrTile t f).freeCount = s.freeCount ∧ (s.updPwrTile t f).now = s.now ∧
    (s.updPwrTile t f).cm = s.cm ∧ (s.updPwrTile t f).tiles = s.tiles ∧ (s.updPwrTile t f).mem = s.mem ∧ (s.updPwrTile t f).hst = s.hst ∧
    (s.updPwrTile t f).phase = s.phase ∧ (s.updPwrTile t f).stopped = s.stopped ∧ (s.updPwrTile t f).str = s.str ∧
    (s.updPwrTile t f).bus = s.bus ∧ (s.updPwrTile t f).arm = s.arm ∧ (s.updPwrTile t f).srt = s.srt ∧ (s.updPwrTile t f).log = s.log ∧
    (s.updPwrTile t f).hbm = s.hbm ∧ (s.updPwrTile t f).fab = s.fab ∧ (s.updPwrTile t f).smp = s.smp ∧ (s.updPwrTile t f).pins = s.pins ∧
    (s.updPwrTile t f).boot = s.boot ∧ (s.updPwrTile t f).sec = s.sec ∧ (s.updPwrTile t f).jtag = s.jtag ∧
    (s.updPwrTile t f).loop = s.loop ∧ (s.updPwrTile t f).tray = s.tray ∧ (s.updPwrTile t f).sw = s.sw ∧ (s.updPwrTile t f).mgmt = s.mgmt :=
    ⟨rfl, rfl, rfl, rfl, rfl, rfl, rfl, rfl, rfl, rfl, rfl, rfl, rfl, rfl, rfl, rfl, rfl, rfl, rfl, rfl, rfl, rfl, rfl, rfl, rfl⟩
@[simp] theorem State.updPwrPart_frame (s : State) (p : Nat) (f : PwrPart → PwrPart) :
    (s.updPwrPart p f).pending = s.pending ∧ (s.updPwrPart p f).freeCount = s.freeCount ∧ (s.updPwrPart p f).now = s.now ∧
    (s.updPwrPart p f).cm = s.cm ∧ (s.updPwrPart p f).tiles = s.tiles ∧ (s.updPwrPart p f).mem = s.mem ∧ (s.updPwrPart p f).hst = s.hst ∧
    (s.updPwrPart p f).phase = s.phase ∧ (s.updPwrPart p f).stopped = s.stopped ∧ (s.updPwrPart p f).str = s.str ∧
    (s.updPwrPart p f).bus = s.bus ∧ (s.updPwrPart p f).arm = s.arm ∧ (s.updPwrPart p f).srt = s.srt ∧ (s.updPwrPart p f).log = s.log ∧
    (s.updPwrPart p f).hbm = s.hbm ∧ (s.updPwrPart p f).fab = s.fab ∧ (s.updPwrPart p f).smp = s.smp ∧ (s.updPwrPart p f).pins = s.pins ∧
    (s.updPwrPart p f).boot = s.boot ∧ (s.updPwrPart p f).sec = s.sec ∧ (s.updPwrPart p f).jtag = s.jtag ∧
    (s.updPwrPart p f).loop = s.loop ∧ (s.updPwrPart p f).tray = s.tray ∧ (s.updPwrPart p f).sw = s.sw ∧ (s.updPwrPart p f).mgmt = s.mgmt :=
    ⟨rfl, rfl, rfl, rfl, rfl, rfl, rfl, rfl, rfl, rfl, rfl, rfl, rfl, rfl, rfl, rfl, rfl, rfl, rfl, rfl, rfl, rfl, rfl, rfl, rfl⟩
@[simp] theorem State.updCommits_frame (s : State) (f : Commits → Commits) :
    (s.updCommits f).pending = s.pending ∧ (s.updCommits f).freeCount = s.freeCount ∧ (s.updCommits f).now = s.now ∧
    (s.updCommits f).cm = s.cm ∧ (s.updCommits f).tiles = s.tiles ∧ (s.updCommits f).mem = s.mem ∧ (s.updCommits f).hst = s.hst ∧
    (s.updCommits f).phase = s.phase ∧ (s.updCommits f).stopped = s.stopped ∧ (s.updCommits f).str = s.str ∧ (s.updCommits f).bus = s.bus ∧
    (s.updCommits f).arm = s.arm ∧ (s.updCommits f).srt = s.srt ∧ (s.updCommits f).pwr = s.pwr ∧ (s.updCommits f).log = s.log ∧
    (s.updCommits f).hbm = s.hbm ∧ (s.updCommits f).fab = s.fab ∧ (s.updCommits f).pins = s.pins ∧ (s.updCommits f).boot = s.boot ∧
    (s.updCommits f).sec = s.sec ∧ (s.updCommits f).jtag = s.jtag ∧ (s.updCommits f).loop = s.loop ∧ (s.updCommits f).tray = s.tray ∧
    (s.updCommits f).sw = s.sw ∧ (s.updCommits f).mgmt = s.mgmt :=
    ⟨rfl, rfl, rfl, rfl, rfl, rfl, rfl, rfl, rfl, rfl, rfl, rfl, rfl, rfl, rfl, rfl, rfl, rfl, rfl, rfl, rfl, rfl, rfl, rfl, rfl⟩
@[simp] theorem State.updPort_frame (s : State) (p : Nat) (f : Port → Port) :
    (s.updPort p f).pending = s.pending ∧ (s.updPort p f).freeCount = s.freeCount ∧ (s.updPort p f).now = s.now ∧
    (s.updPort p f).cm = s.cm ∧ (s.updPort p f).tiles = s.tiles ∧ (s.updPort p f).mem = s.mem ∧ (s.updPort p f).hst = s.hst ∧
    (s.updPort p f).phase = s.phase ∧ (s.updPort p f).stopped = s.stopped ∧ (s.updPort p f).str = s.str ∧ (s.updPort p f).bus = s.bus ∧
    (s.updPort p f).arm = s.arm ∧ (s.updPort p f).srt = s.srt ∧ (s.updPort p f).pwr = s.pwr ∧ (s.updPort p f).log = s.log ∧
    (s.updPort p f).hbm = s.hbm ∧ (s.updPort p f).smp = s.smp ∧ (s.updPort p f).pins = s.pins ∧ (s.updPort p f).boot = s.boot ∧
    (s.updPort p f).sec = s.sec ∧ (s.updPort p f).jtag = s.jtag ∧ (s.updPort p f).loop = s.loop ∧ (s.updPort p f).tray = s.tray ∧
    (s.updPort p f).sw = s.sw ∧ (s.updPort p f).mgmt = s.mgmt :=
    ⟨rfl, rfl, rfl, rfl, rfl, rfl, rfl, rfl, rfl, rfl, rfl, rfl, rfl, rfl, rfl, rfl, rfl, rfl, rfl, rfl, rfl, rfl, rfl, rfl, rfl⟩
@[simp] theorem State.updUnit_frame (s : State) (u : Nat) (f : Sorter → Sorter) :
    (s.updUnit u f).pending = s.pending ∧ (s.updUnit u f).freeCount = s.freeCount ∧ (s.updUnit u f).now = s.now ∧
    (s.updUnit u f).cm = s.cm ∧ (s.updUnit u f).tiles = s.tiles ∧ (s.updUnit u f).mem = s.mem ∧ (s.updUnit u f).hst = s.hst ∧
    (s.updUnit u f).phase = s.phase ∧ (s.updUnit u f).stopped = s.stopped ∧ (s.updUnit u f).str = s.str ∧ (s.updUnit u f).bus = s.bus ∧
    (s.updUnit u f).arm = s.arm ∧ (s.updUnit u f).pwr = s.pwr ∧ (s.updUnit u f).log = s.log ∧ (s.updUnit u f).hbm = s.hbm ∧
    (s.updUnit u f).fab = s.fab ∧ (s.updUnit u f).smp = s.smp ∧ (s.updUnit u f).pins = s.pins ∧ (s.updUnit u f).boot = s.boot ∧
    (s.updUnit u f).sec = s.sec ∧ (s.updUnit u f).jtag = s.jtag ∧ (s.updUnit u f).loop = s.loop ∧ (s.updUnit u f).tray = s.tray ∧
    (s.updUnit u f).sw = s.sw ∧ (s.updUnit u f).mgmt = s.mgmt :=
    ⟨rfl, rfl, rfl, rfl, rfl, rfl, rfl, rfl, rfl, rfl, rfl, rfl, rfl, rfl, rfl, rfl, rfl, rfl, rfl, rfl, rfl, rfl, rfl, rfl, rfl⟩
@[simp] theorem State.updSrtPart_frame (s : State) (p : Nat) (f : SrtPart → SrtPart) :
    (s.updSrtPart p f).pending = s.pending ∧ (s.updSrtPart p f).freeCount = s.freeCount ∧ (s.updSrtPart p f).now = s.now ∧
    (s.updSrtPart p f).cm = s.cm ∧ (s.updSrtPart p f).tiles = s.tiles ∧ (s.updSrtPart p f).mem = s.mem ∧ (s.updSrtPart p f).hst = s.hst ∧
    (s.updSrtPart p f).phase = s.phase ∧ (s.updSrtPart p f).stopped = s.stopped ∧ (s.updSrtPart p f).str = s.str ∧
    (s.updSrtPart p f).bus = s.bus ∧ (s.updSrtPart p f).arm = s.arm ∧ (s.updSrtPart p f).pwr = s.pwr ∧ (s.updSrtPart p f).log = s.log ∧
    (s.updSrtPart p f).hbm = s.hbm ∧ (s.updSrtPart p f).fab = s.fab ∧ (s.updSrtPart p f).smp = s.smp ∧ (s.updSrtPart p f).pins = s.pins ∧
    (s.updSrtPart p f).boot = s.boot ∧ (s.updSrtPart p f).sec = s.sec ∧ (s.updSrtPart p f).jtag = s.jtag ∧
    (s.updSrtPart p f).loop = s.loop ∧ (s.updSrtPart p f).tray = s.tray ∧ (s.updSrtPart p f).sw = s.sw ∧ (s.updSrtPart p f).mgmt = s.mgmt :=
    ⟨rfl, rfl, rfl, rfl, rfl, rfl, rfl, rfl, rfl, rfl, rfl, rfl, rfl, rfl, rfl, rfl, rfl, rfl, rfl, rfl, rfl, rfl, rfl, rfl, rfl⟩
@[simp] theorem State.updArm_frame (s : State) (n : Nat) (f : Arm → Arm) :
    (s.updArm n f).pending = s.pending ∧ (s.updArm n f).freeCount = s.freeCount ∧ (s.updArm n f).now = s.now ∧ (s.updArm n f).cm = s.cm ∧
    (s.updArm n f).tiles = s.tiles ∧ (s.updArm n f).mem = s.mem ∧ (s.updArm n f).hst = s.hst ∧ (s.updArm n f).phase = s.phase ∧
    (s.updArm n f).stopped = s.stopped ∧ (s.updArm n f).str = s.str ∧ (s.updArm n f).bus = s.bus ∧ (s.updArm n f).srt = s.srt ∧
    (s.updArm n f).pwr = s.pwr ∧ (s.updArm n f).log = s.log ∧ (s.updArm n f).hbm = s.hbm ∧ (s.updArm n f).fab = s.fab ∧
    (s.updArm n f).smp = s.smp ∧ (s.updArm n f).pins = s.pins ∧ (s.updArm n f).boot = s.boot ∧ (s.updArm n f).sec = s.sec ∧
    (s.updArm n f).jtag = s.jtag ∧ (s.updArm n f).loop = s.loop ∧ (s.updArm n f).tray = s.tray ∧ (s.updArm n f).sw = s.sw ∧
    (s.updArm n f).mgmt = s.mgmt :=
    ⟨rfl, rfl, rfl, rfl, rfl, rfl, rfl, rfl, rfl, rfl, rfl, rfl, rfl, rfl, rfl, rfl, rfl, rfl, rfl, rfl, rfl, rfl, rfl, rfl, rfl⟩
@[simp] theorem State.updStack_frame (s : State) (n : Nat) (f : HbmStack → HbmStack) :
    (s.updStack n f).pending = s.pending ∧ (s.updStack n f).freeCount = s.freeCount ∧ (s.updStack n f).now = s.now ∧
    (s.updStack n f).cm = s.cm ∧ (s.updStack n f).tiles = s.tiles ∧ (s.updStack n f).mem = s.mem ∧ (s.updStack n f).hst = s.hst ∧
    (s.updStack n f).phase = s.phase ∧ (s.updStack n f).stopped = s.stopped ∧ (s.updStack n f).str = s.str ∧ (s.updStack n f).bus = s.bus ∧
    (s.updStack n f).arm = s.arm ∧ (s.updStack n f).srt = s.srt ∧ (s.updStack n f).pwr = s.pwr ∧ (s.updStack n f).log = s.log ∧
    (s.updStack n f).fab = s.fab ∧ (s.updStack n f).smp = s.smp ∧ (s.updStack n f).pins = s.pins ∧ (s.updStack n f).boot = s.boot ∧
    (s.updStack n f).sec = s.sec ∧ (s.updStack n f).jtag = s.jtag ∧ (s.updStack n f).loop = s.loop ∧ (s.updStack n f).tray = s.tray ∧
    (s.updStack n f).sw = s.sw ∧ (s.updStack n f).mgmt = s.mgmt :=
    ⟨rfl, rfl, rfl, rfl, rfl, rfl, rfl, rfl, rfl, rfl, rfl, rfl, rfl, rfl, rfl, rfl, rfl, rfl, rfl, rfl, rfl, rfl, rfl, rfl, rfl⟩
@[simp] theorem State.updGroup_frame (s : State) (t slot : Nat) (f : Group → Group) :
    (s.updGroup t slot f).pending = s.pending ∧ (s.updGroup t slot f).freeCount = s.freeCount ∧ (s.updGroup t slot f).now = s.now ∧
    (s.updGroup t slot f).cm = s.cm ∧ (s.updGroup t slot f).mem = s.mem ∧ (s.updGroup t slot f).hst = s.hst ∧
    (s.updGroup t slot f).phase = s.phase ∧ (s.updGroup t slot f).stopped = s.stopped ∧ (s.updGroup t slot f).str = s.str ∧
    (s.updGroup t slot f).bus = s.bus ∧ (s.updGroup t slot f).arm = s.arm ∧ (s.updGroup t slot f).srt = s.srt ∧
    (s.updGroup t slot f).pwr = s.pwr ∧ (s.updGroup t slot f).log = s.log ∧ (s.updGroup t slot f).hbm = s.hbm ∧
    (s.updGroup t slot f).fab = s.fab ∧ (s.updGroup t slot f).smp = s.smp ∧ (s.updGroup t slot f).pins = s.pins ∧
    (s.updGroup t slot f).boot = s.boot ∧ (s.updGroup t slot f).sec = s.sec ∧ (s.updGroup t slot f).jtag = s.jtag ∧
    (s.updGroup t slot f).loop = s.loop ∧ (s.updGroup t slot f).tray = s.tray ∧ (s.updGroup t slot f).sw = s.sw ∧
    (s.updGroup t slot f).mgmt = s.mgmt :=
    ⟨rfl, rfl, rfl, rfl, rfl, rfl, rfl, rfl, rfl, rfl, rfl, rfl, rfl, rfl, rfl, rfl, rfl, rfl, rfl, rfl, rfl, rfl, rfl, rfl, rfl⟩
@[simp] theorem State.updBlock_frame (s : State) (t b : Nat) (f : Block → Block) :
    (s.updBlock t b f).pending = s.pending ∧ (s.updBlock t b f).freeCount = s.freeCount ∧ (s.updBlock t b f).now = s.now ∧
    (s.updBlock t b f).cm = s.cm ∧ (s.updBlock t b f).mem = s.mem ∧ (s.updBlock t b f).hst = s.hst ∧ (s.updBlock t b f).phase = s.phase ∧
    (s.updBlock t b f).stopped = s.stopped ∧ (s.updBlock t b f).str = s.str ∧ (s.updBlock t b f).bus = s.bus ∧
    (s.updBlock t b f).arm = s.arm ∧ (s.updBlock t b f).srt = s.srt ∧ (s.updBlock t b f).pwr = s.pwr ∧ (s.updBlock t b f).log = s.log ∧
    (s.updBlock t b f).hbm = s.hbm ∧ (s.updBlock t b f).fab = s.fab ∧ (s.updBlock t b f).smp = s.smp ∧ (s.updBlock t b f).pins = s.pins ∧
    (s.updBlock t b f).boot = s.boot ∧ (s.updBlock t b f).sec = s.sec ∧ (s.updBlock t b f).jtag = s.jtag ∧
    (s.updBlock t b f).loop = s.loop ∧ (s.updBlock t b f).tray = s.tray ∧ (s.updBlock t b f).sw = s.sw ∧ (s.updBlock t b f).mgmt = s.mgmt :=
    ⟨rfl, rfl, rfl, rfl, rfl, rfl, rfl, rfl, rfl, rfl, rfl, rfl, rfl, rfl, rfl, rfl, rfl, rfl, rfl, rfl, rfl, rfl, rfl, rfl, rfl⟩
@[simp] theorem State.updTcu_frame (s : State) (t slot : Nat) (f : Tcu → Tcu) :
    (s.updTcu t slot f).pending = s.pending ∧ (s.updTcu t slot f).freeCount = s.freeCount ∧ (s.updTcu t slot f).now = s.now ∧
    (s.updTcu t slot f).cm = s.cm ∧ (s.updTcu t slot f).mem = s.mem ∧ (s.updTcu t slot f).hst = s.hst ∧
    (s.updTcu t slot f).phase = s.phase ∧ (s.updTcu t slot f).stopped = s.stopped ∧ (s.updTcu t slot f).str = s.str ∧
    (s.updTcu t slot f).bus = s.bus ∧ (s.updTcu t slot f).arm = s.arm ∧ (s.updTcu t slot f).srt = s.srt ∧ (s.updTcu t slot f).pwr = s.pwr ∧
    (s.updTcu t slot f).log = s.log ∧ (s.updTcu t slot f).hbm = s.hbm ∧ (s.updTcu t slot f).fab = s.fab ∧ (s.updTcu t slot f).smp = s.smp ∧
    (s.updTcu t slot f).pins = s.pins ∧ (s.updTcu t slot f).boot = s.boot ∧ (s.updTcu t slot f).sec = s.sec ∧
    (s.updTcu t slot f).jtag = s.jtag ∧ (s.updTcu t slot f).loop = s.loop ∧ (s.updTcu t slot f).tray = s.tray ∧
    (s.updTcu t slot f).sw = s.sw ∧ (s.updTcu t slot f).mgmt = s.mgmt :=
    ⟨rfl, rfl, rfl, rfl, rfl, rfl, rfl, rfl, rfl, rfl, rfl, rfl, rfl, rfl, rfl, rfl, rfl, rfl, rfl, rfl, rfl, rfl, rfl, rfl, rfl⟩
@[simp] theorem State.updChs_frame (s : State) (t : Nat) (f : Chisel → Chisel) :
    (s.updChs t f).pending = s.pending ∧ (s.updChs t f).freeCount = s.freeCount ∧ (s.updChs t f).now = s.now ∧ (s.updChs t f).cm = s.cm ∧
    (s.updChs t f).mem = s.mem ∧ (s.updChs t f).hst = s.hst ∧ (s.updChs t f).phase = s.phase ∧ (s.updChs t f).stopped = s.stopped ∧
    (s.updChs t f).str = s.str ∧ (s.updChs t f).bus = s.bus ∧ (s.updChs t f).arm = s.arm ∧ (s.updChs t f).srt = s.srt ∧
    (s.updChs t f).pwr = s.pwr ∧ (s.updChs t f).log = s.log ∧ (s.updChs t f).hbm = s.hbm ∧ (s.updChs t f).fab = s.fab ∧
    (s.updChs t f).smp = s.smp ∧ (s.updChs t f).pins = s.pins ∧ (s.updChs t f).boot = s.boot ∧ (s.updChs t f).sec = s.sec ∧
    (s.updChs t f).jtag = s.jtag ∧ (s.updChs t f).loop = s.loop ∧ (s.updChs t f).tray = s.tray ∧ (s.updChs t f).sw = s.sw ∧
    (s.updChs t f).mgmt = s.mgmt :=
    ⟨rfl, rfl, rfl, rfl, rfl, rfl, rfl, rfl, rfl, rfl, rfl, rfl, rfl, rfl, rfl, rfl, rfl, rfl, rfl, rfl, rfl, rfl, rfl, rfl, rfl⟩
@[simp] theorem State.raise_frame (s : State) (f : FaultInfo) :
    (s.raise f).pending = s.pending ∧ (s.raise f).freeCount = s.freeCount ∧ (s.raise f).now = s.now ∧ (s.raise f).tiles = s.tiles ∧
    (s.raise f).mem = s.mem ∧ (s.raise f).hst = s.hst ∧ (s.raise f).phase = s.phase ∧ (s.raise f).stopped = s.stopped ∧
    (s.raise f).str = s.str ∧ (s.raise f).bus = s.bus ∧ (s.raise f).arm = s.arm ∧ (s.raise f).srt = s.srt ∧ (s.raise f).pwr = s.pwr ∧
    (s.raise f).log = s.log ∧ (s.raise f).hbm = s.hbm ∧ (s.raise f).fab = s.fab ∧ (s.raise f).smp = s.smp ∧ (s.raise f).pins = s.pins ∧
    (s.raise f).boot = s.boot ∧ (s.raise f).sec = s.sec ∧ (s.raise f).jtag = s.jtag ∧ (s.raise f).loop = s.loop ∧
    (s.raise f).tray = s.tray ∧ (s.raise f).sw = s.sw ∧ (s.raise f).mgmt = s.mgmt :=
    ⟨rfl, rfl, rfl, rfl, rfl, rfl, rfl, rfl, rfl, rfl, rfl, rfl, rfl, rfl, rfl, rfl, rfl, rfl, rfl, rfl, rfl, rfl, rfl, rfl, rfl⟩
@[simp] theorem State.logEvent_frame (s : State) (code source severity : Nat) (detail : List Byte) :
    (s.logEvent code source severity detail).pending = s.pending ∧ (s.logEvent code source severity detail).freeCount = s.freeCount ∧
    (s.logEvent code source severity detail).now = s.now ∧ (s.logEvent code source severity detail).cm = s.cm ∧
    (s.logEvent code source severity detail).tiles = s.tiles ∧ (s.logEvent code source severity detail).mem = s.mem ∧
    (s.logEvent code source severity detail).hst = s.hst ∧ (s.logEvent code source severity detail).phase = s.phase ∧
    (s.logEvent code source severity detail).stopped = s.stopped ∧ (s.logEvent code source severity detail).str = s.str ∧
    (s.logEvent code source severity detail).bus = s.bus ∧ (s.logEvent code source severity detail).arm = s.arm ∧
    (s.logEvent code source severity detail).srt = s.srt ∧ (s.logEvent code source severity detail).pwr = s.pwr ∧
    (s.logEvent code source severity detail).hbm = s.hbm ∧ (s.logEvent code source severity detail).fab = s.fab ∧
    (s.logEvent code source severity detail).smp = s.smp ∧ (s.logEvent code source severity detail).pins = s.pins ∧
    (s.logEvent code source severity detail).boot = s.boot ∧ (s.logEvent code source severity detail).sec = s.sec ∧
    (s.logEvent code source severity detail).jtag = s.jtag ∧ (s.logEvent code source severity detail).loop = s.loop ∧
    (s.logEvent code source severity detail).tray = s.tray ∧ (s.logEvent code source severity detail).sw = s.sw ∧
    (s.logEvent code source severity detail).mgmt = s.mgmt :=
    ⟨rfl, rfl, rfl, rfl, rfl, rfl, rfl, rfl, rfl, rfl, rfl, rfl, rfl, rfl, rfl, rfl, rfl, rfl, rfl, rfl, rfl, rfl, rfl, rfl, rfl⟩
@[simp] theorem State.reply_frame (s : State) (a : ReadAnswer) :
    (s.reply a).pending = s.pending ∧ (s.reply a).freeCount = s.freeCount ∧ (s.reply a).now = s.now ∧ (s.reply a).cm = s.cm ∧
    (s.reply a).tiles = s.tiles ∧ (s.reply a).mem = s.mem ∧ (s.reply a).phase = s.phase ∧ (s.reply a).stopped = s.stopped ∧
    (s.reply a).str = s.str ∧ (s.reply a).bus = s.bus ∧ (s.reply a).arm = s.arm ∧ (s.reply a).srt = s.srt ∧ (s.reply a).pwr = s.pwr ∧
    (s.reply a).log = s.log ∧ (s.reply a).hbm = s.hbm ∧ (s.reply a).fab = s.fab ∧ (s.reply a).smp = s.smp ∧ (s.reply a).pins = s.pins ∧
    (s.reply a).boot = s.boot ∧ (s.reply a).sec = s.sec ∧ (s.reply a).jtag = s.jtag ∧ (s.reply a).loop = s.loop ∧
    (s.reply a).tray = s.tray ∧ (s.reply a).sw = s.sw ∧ (s.reply a).mgmt = s.mgmt :=
    ⟨rfl, rfl, rfl, rfl, rfl, rfl, rfl, rfl, rfl, rfl, rfl, rfl, rfl, rfl, rfl, rfl, rfl, rfl, rfl, rfl, rfl, rfl, rfl, rfl, rfl⟩
@[simp] theorem State.abort_frame (s : State) (code : Nat) :
    (s.abort code).pending = s.pending ∧ (s.abort code).freeCount = s.freeCount ∧ (s.abort code).now = s.now ∧
    (s.abort code).tiles = s.tiles ∧ (s.abort code).mem = s.mem ∧ (s.abort code).hst = s.hst ∧ (s.abort code).phase = s.phase ∧
    (s.abort code).stopped = s.stopped ∧ (s.abort code).str = s.str ∧ (s.abort code).bus = s.bus ∧ (s.abort code).arm = s.arm ∧
    (s.abort code).srt = s.srt ∧ (s.abort code).pwr = s.pwr ∧ (s.abort code).log = s.log ∧ (s.abort code).hbm = s.hbm ∧
    (s.abort code).fab = s.fab ∧ (s.abort code).smp = s.smp ∧ (s.abort code).pins = s.pins ∧ (s.abort code).boot = s.boot ∧
    (s.abort code).sec = s.sec ∧ (s.abort code).jtag = s.jtag ∧ (s.abort code).loop = s.loop ∧ (s.abort code).tray = s.tray ∧
    (s.abort code).sw = s.sw ∧ (s.abort code).mgmt = s.mgmt :=
    ⟨rfl, rfl, rfl, rfl, rfl, rfl, rfl, rfl, rfl, rfl, rfl, rfl, rfl, rfl, rfl, rfl, rfl, rfl, rfl, rfl, rfl, rfl, rfl, rfl, rfl⟩
@[simp] theorem State.applied_frame (s : State)  :
    (s.applied).pending = s.pending ∧ (s.applied).freeCount = s.freeCount ∧ (s.applied).now = s.now ∧ (s.applied).tiles = s.tiles ∧
    (s.applied).mem = s.mem ∧ (s.applied).hst = s.hst ∧ (s.applied).phase = s.phase ∧ (s.applied).stopped = s.stopped ∧
    (s.applied).str = s.str ∧ (s.applied).bus = s.bus ∧ (s.applied).arm = s.arm ∧ (s.applied).srt = s.srt ∧ (s.applied).pwr = s.pwr ∧
    (s.applied).log = s.log ∧ (s.applied).hbm = s.hbm ∧ (s.applied).fab = s.fab ∧ (s.applied).smp = s.smp ∧ (s.applied).pins = s.pins ∧
    (s.applied).boot = s.boot ∧ (s.applied).sec = s.sec ∧ (s.applied).jtag = s.jtag ∧ (s.applied).loop = s.loop ∧
    (s.applied).tray = s.tray ∧ (s.applied).sw = s.sw ∧ (s.applied).mgmt = s.mgmt :=
    ⟨rfl, rfl, rfl, rfl, rfl, rfl, rfl, rfl, rfl, rfl, rfl, rfl, rfl, rfl, rfl, rfl, rfl, rfl, rfl, rfl, rfl, rfl, rfl, rfl, rfl⟩
@[simp] theorem State.fullWrite_frame (s : State) (fn : Nat) :
    (s.fullWrite fn).pending = s.pending ∧ (s.fullWrite fn).freeCount = s.freeCount ∧ (s.fullWrite fn).now = s.now ∧
    (s.fullWrite fn).cm = s.cm ∧ (s.fullWrite fn).tiles = s.tiles ∧ (s.fullWrite fn).mem = s.mem ∧ (s.fullWrite fn).phase = s.phase ∧
    (s.fullWrite fn).stopped = s.stopped ∧ (s.fullWrite fn).str = s.str ∧ (s.fullWrite fn).bus = s.bus ∧ (s.fullWrite fn).arm = s.arm ∧
    (s.fullWrite fn).srt = s.srt ∧ (s.fullWrite fn).pwr = s.pwr ∧ (s.fullWrite fn).log = s.log ∧ (s.fullWrite fn).hbm = s.hbm ∧
    (s.fullWrite fn).fab = s.fab ∧ (s.fullWrite fn).smp = s.smp ∧ (s.fullWrite fn).pins = s.pins ∧ (s.fullWrite fn).boot = s.boot ∧
    (s.fullWrite fn).sec = s.sec ∧ (s.fullWrite fn).jtag = s.jtag ∧ (s.fullWrite fn).loop = s.loop ∧ (s.fullWrite fn).tray = s.tray ∧
    (s.fullWrite fn).sw = s.sw ∧ (s.fullWrite fn).mgmt = s.mgmt :=
    ⟨rfl, rfl, rfl, rfl, rfl, rfl, rfl, rfl, rfl, rfl, rfl, rfl, rfl, rfl, rfl, rfl, rfl, rfl, rfl, rfl, rfl, rfl, rfl, rfl, rfl⟩

/-! ## Families behind an index -/

theorem getD_modify_same {α : Type} (l : List α) (i : Nat) (f : α → α) (d : α) (h : i < l.length) :
    (l.modify i f).getD i d = f (l.getD i d) := by
  simp [List.getD_eq_getElem?_getD, List.getElem?_modify, List.getElem?_eq_getElem h]

theorem getD_modify_other {α : Type} (l : List α) (i j : Nat) (f : α → α) (d : α) (h : i ≠ j) :
    (l.modify i f).getD j d = l.getD j d := by
  simp [List.getD_eq_getElem?_getD, List.getElem?_modify, h]

theorem State.tile_updTile_same (s : State) (t : Nat) (f : Tile → Tile) (h : t < s.tiles.length) :
    (s.updTile t f).tile t = f (s.tile t) := getD_modify_same _ _ _ _ h

@[simp] theorem State.tile_updTile_other (s : State) (t u : Nat) (f : Tile → Tile) (h : t ≠ u) :
    (s.updTile t f).tile u = s.tile u := getD_modify_other _ _ _ _ _ h

theorem State.ctx_updCtx_same (s : State) (c : Nat) (f : Ctx → Ctx) (h : c < s.cm.ctxs.length) :
    (s.updCtx c f).ctx c = f (s.ctx c) := getD_modify_same _ _ _ _ h

@[simp] theorem State.ctx_updCtx_other (s : State) (c d : Nat) (f : Ctx → Ctx) (h : c ≠ d) :
    (s.updCtx c f).ctx d = s.ctx d := getD_modify_other _ _ _ _ _ h

theorem State.part_updPart_same (s : State) (p : Nat) (f : Part → Part) (h : p < s.cm.parts.length) :
    (s.updPart p f).part p = f (s.part p) := getD_modify_same _ _ _ _ h

theorem State.queue_updQueue_same (s : State) (q : Nat) (f : HostQ → HostQ) (h : q < s.cm.queues.length) :
    (s.updQueue q f).queue q = f (s.queue q) := getD_modify_same _ _ _ _ h

@[simp] theorem State.tile_at (s : State) (n t : Nat) : (s.at n).tile t = s.tile t := rfl
@[simp] theorem State.ctx_at (s : State) (n c : Nat) : (s.at n).ctx c = s.ctx c := rfl
@[simp] theorem State.part_at (s : State) (n p : Nat) : (s.at n).part p = s.part p := rfl
@[simp] theorem State.queue_at (s : State) (n q : Nat) : (s.at n).queue q = s.queue q := rfl
@[simp] theorem State.ctx_updTile (s : State) (t c : Nat) (f : Tile → Tile) : (s.updTile t f).ctx c = s.ctx c := rfl
@[simp] theorem State.live_updTile (s : State) (t c : Nat) (f : Tile → Tile) : (s.updTile t f).live c = s.live c := rfl

/-! ## Activity counters, the quiet window and the queues of the pseudo-channels -/

/-- Counting an activity changes the counts of its tile alone. -/
theorem State.act_frame (s : State) (tile c j n : Nat) :
    s.act tile c j n = { s with tiles := (s.act tile c j n).tiles } ∧ (∀ u, u ≠ tile → (s.act tile c j n).tile u = s.tile u)
    ∧ (tile < s.tiles.length → (s.act tile c j n).tile tile = { s.tile tile with acts := addAct (s.tile tile).acts (c, j) n }) :=
  ⟨rfl, fun _ h => State.tile_updTile_other _ _ _ _ (Ne.symm h), fun h => State.tile_updTile_same _ _ _ h⟩

@[simp] theorem State.act_cm (s : State) (tile c j n : Nat) : (s.act tile c j n).cm = s.cm := rfl
@[simp] theorem State.act_mem (s : State) (tile c j n : Nat) : (s.act tile c j n).mem = s.mem := rfl
@[simp] theorem State.act_hst (s : State) (tile c j n : Nat) : (s.act tile c j n).hst = s.hst := rfl
@[simp] theorem State.act_ctx (s : State) (tile c j n d : Nat) : (s.act tile c j n).ctx d = s.ctx d := rfl

/-- What breaks a condition of R79 restarts the quiet window of its context and changes nothing else. -/
theorem State.stir_frame (s : State) (c : Nat) :
    s.stir c = { s with cm := (s.stir c).cm } ∧ (∀ d, d ≠ c → (s.stir c).ctx d = s.ctx d)
    ∧ (c < s.cm.ctxs.length → (s.stir c).ctx c = { s.ctx c with quietSince := none }) :=
  ⟨rfl, fun _ h => State.ctx_updCtx_other _ _ _ _ (Ne.symm h), fun h => State.ctx_updCtx_same _ _ _ h⟩

@[simp] theorem State.stir_tiles (s : State) (c : Nat) : (s.stir c).tiles = s.tiles := rfl
@[simp] theorem State.stir_mem (s : State) (c : Nat) : (s.stir c).mem = s.mem := rfl
@[simp] theorem State.stir_hst (s : State) (c : Nat) : (s.stir c).hst = s.hst := rfl

/-- Reads that queue, and what the pseudo-channels serve, change their queues alone. -/
theorem State.pcPut_frame (s : State) (id eff : Option Nat) (c : Nat) (lines : List Nat) :
    s.pcPut id eff c lines = { s with mem := { s.mem with pcs := (s.pcPut id eff c lines).mem.pcs } } := rfl

theorem State.pcTake_frame (s : State) (id : Option Nat) :
    s.pcTake id = { s with mem := { s.mem with pcs := (s.pcTake id).mem.pcs } } := rfl

theorem State.pcNow_frame (s : State) (typ key line : Nat) (eff : Option Nat) (c : Nat) :
    s.pcNow typ key line eff c = { s with mem := { s.mem with pcs := (s.pcNow typ key line eff c).mem.pcs } } := by
  unfold State.pcNow
  split <;> rfl

@[simp] theorem State.pcTake_tiles (s : State) (id : Option Nat) : (s.pcTake id).tiles = s.tiles := rfl
@[simp] theorem State.pcTake_cm (s : State) (id : Option Nat) : (s.pcTake id).cm = s.cm := rfl
@[simp] theorem State.pcTake_hst (s : State) (id : Option Nat) : (s.pcTake id).hst = s.hst := rfl
@[simp] theorem State.pcTake_hbm (s : State) (id : Option Nat) : (s.pcTake id).mem.hbm = s.mem.hbm := rfl
@[simp] theorem State.pcTake_dc (s : State) (id : Option Nat) : (s.pcTake id).mem.dc = s.mem.dc := rfl

/-- A read within a step that does not go to HBM queues nothing. -/
theorem State.pcNow_hit (s : State) (typ key line : Nat) (eff : Option Nat) (c : Nat) (h : s.hbmMiss typ key line = false) :
    s.pcNow typ key line eff c = s := by
  simp [State.pcNow, h]

/-- A controller after a command of one controller. -/
@[simp] theorem State.trayAt_setTray (s : State) (who : Nat) (t : Tray) : (s.setTray who t).trayAt who = t := by
  by_cases h0 : who = 0
  · subst h0; rfl
  · by_cases h1 : who = 1
    · subst h1; rfl
    · simp [State.setTray, State.trayAt, h0, h1]

/-! ## The queue -/

/-- A step takes the front command, with the rest of the queue. -/
theorem step_cons (s : State) (c : Instr) (rest : List Instr) (h : s.pending = c :: rest) :
    step s = exec c { s with pending := rest } := by
  simp [step, h]

/-- On an empty queue the block idles. -/
theorem step_nil (s : State) (h : s.pending = []) : step s = .next s := by
  simp [step, h]

end Sys2Proof.Machine
end

