-- ==== Sys2Proof/Laws/Thread.lean ====
section
/-! SUPPORT. What an issued thread instruction does, said once: the effect runs on the issue, and a lane-wise effect is LaneByLane. -/
namespace Sys2Proof.Machine

theorem Tile.group?_slot {t : Tile} {slot : Nat} {g : Group} (h : t.group? slot = some g) : g.slot = slot := by
  have := List.find?_some h
  simpa using this

/-- An update of one group that keeps slots is seen in that group alone. -/
theorem Tile.group?_updGroup (t : Tile) (slot x : Nat) (f : Group → Group) (hf : ∀ g, (f g).slot = g.slot) :
    (t.updGroup slot f).group? x = if x = slot then (t.group? x).map f else t.group? x := by
  simp only [Tile.group?, Tile.updGroup]
  induction t.groups with
  | nil => simp
  | cons g r ih =>
    simp only [List.map_cons, List.find?_cons]
    by_cases hg : g.slot = slot <;> by_cases hx : x = slot <;> simp_all
    all_goals (try (split <;> simp_all))
    all_goals (first | omega | (split <;> simp_all))

@[simp] theorem Group.updLanes_slot (g : Group) (ls : List Nat) (f : Nat → Lane → Lane) : (g.updLanes ls f).slot = g.slot := rfl
@[simp] theorem Group.updLanes_width (g : Group) (ls : List Nat) (f : Nat → Lane → Lane) : (g.updLanes ls f).width = g.width := rfl

theorem Group.lane?_updLanes (g : Group) (ls : List Nat) (f : Nat → Lane → Lane) (k : Nat) :
    (g.updLanes ls f).lane? k = if k ∈ ls then (g.lane? k).map (f k) else g.lane? k := by
  simp only [Group.lane?, Group.updLanes, List.getD_eq_getElem?_getD, List.getElem?_mapIdx]
  cases h : g.lanes[k]? <;> simp

/-- An instruction of a live context takes effect. -/
theorem TC.runs_of_live {tc : TC} {s : State} (h : s.live tc.b.ctx = true) : tc.runs s = true := by
  simp only [State.live] at h
  unfold TC.runs
  split <;> simp_all [CtxState.live]

/-- Where the word issues, its effect runs, with the tile's issued instruction taken. -/
theorem runThread_of_issues {s : State} {tile w : Nat} {tc : TC} (h : Issues s tile w tc) (eff : TC → State → State) :
    runThread tile w eff s = eff tc (s.updTile tile fun t => { t with issued := none }) := by
  obtain ⟨h1, h2, h3, h4, h5, h6, h7, h8, h9⟩ := h
  have hlt : tile < s.tiles.length := by
    rcases Nat.lt_or_ge tile s.tiles.length with hn | hn
    · exact hn
    · simp [State.tile, List.getD_eq_getElem?_getD, List.getElem?_eq_none hn] at h3
  obtain ⟨t0, i, g, b, act⟩ := tc
  subst h1
  simp only at *
  have htile : (s.updTile t0 fun t => { t with issued := none }).tile t0 = { s.tile t0 with issued := none } := by
    simp [State.tile, State.updTile, List.getD_eq_getElem?_getD, hlt]
  unfold runThread
  simp only [h2, h3, h4, Bool.not_true, Bool.false_eq_true, if_false, bne_self_eq_false, htile]
  have h5' : Tile.group? { s.tile t0 with issued := none } i.slot = some g := h5
  have h6' : Tile.block? { s.tile t0 with issued := none } g.bslot = some b := h6
  have h8' : (s.updTile t0 fun t => { t with issued := none }).live b.ctx = true := h8
  subst h7
  have hr : TC.runs ⟨t0, i, g, b, guardedLanes g i.mask w⟩ (s.updTile t0 fun t => { t with issued := none }) = true := TC.runs_of_live h8'
  simp only [h5', h6', h9, Bool.false_eq_true, if_false]
  exact if_neg (show ¬((!TC.runs ⟨t0, i, g, b, guardedLanes g i.mask w⟩ (s.updTile t0 fun t => { t with issued := none })) = true) by
    rw [hr]; decide)

/-- A lane-wise effect after the issue is taken. -/
theorem laneByLane_step {s : State} {tile w : Nat} {tc : TC} (h : Issues s tile w tc) (f : Nat → Lane → Lane) :
    LaneByLane s (tc.step f (s.updTile tile fun t => { t with issued := none })) tc f := by
  obtain ⟨h1, -, h3, -, h5, -, h7, -, -⟩ := h
  have hlt : tile < s.tiles.length := by
    rcases Nat.lt_or_ge tile s.tiles.length with hn | hn
    · exact hn
    · simp [State.tile, List.getD_eq_getElem?_getD, List.getElem?_eq_none hn] at h3
  subst h1
  obtain ⟨up, hup⟩ : ∃ up : Group → Group, up = fun g =>
    (g.updLanes tc.act f).updLanes tc.i.mask fun _ l => { l with pc := l.pc + 8 } := ⟨_, rfl⟩
  have htile : (tc.step f (s.updTile tc.tile fun t => { t with issued := none })).tile tc.tile
      = ({ s.tile tc.tile with issued := none } : Tile).updGroup tc.i.slot up := by
    simp [TC.step, State.updGroup, State.tile, State.updTile, List.getD_eq_getElem?_getD, hlt, hup]
  have hslot : ∀ g, (up g).slot = g.slot := by subst hup; intro; rfl
  refine ⟨⟨rfl, ?_⟩, ?_, ?_, up tc.g, ?_, by subst hup; rfl, ?_⟩
  · intro u hu
    have hu' : tc.tile ≠ u := fun h => hu h.symm
    simp [TC.step, State.updGroup, State.tile, State.updTile, List.getD_eq_getElem?_getD, List.getElem?_modify, hu']
  · rw [htile]; rfl
  · intro slot hs
    rw [htile, Tile.group?_updGroup _ _ _ _ hslot, if_neg hs]; rfl
  · rw [htile, Tile.group?_updGroup _ _ _ _ hslot, if_pos rfl]
    have h5' : Tile.group? { s.tile tc.tile with issued := none } tc.i.slot = some tc.g := h5
    rw [h5']; rfl
  · intro k
    have hsub : k ∈ tc.act → k ∈ tc.i.mask := by
      rw [h7]; intro hk; exact (List.mem_filter.mp hk).1
    subst hup
    clear htile
    simp only [Group.lane?_updLanes]
    cases tc.g.lane? k <;> by_cases ha : k ∈ tc.act <;> by_cases hm : k ∈ tc.i.mask <;> simp [laneAfter, ha, hm]
    exact absurd (hsub ha) hm

/-- A command that runs a lane-wise effect does what RunsLanes says. -/
theorem runsLanes_of_exec {c : Instr} {s : State} {tile w : Nat} {tc : TC} {f : Nat → Lane → Lane}
    {f' : TC → Nat → Lane → Lane} (h : exec c s = .next (runThread tile w (fun tc s => tc.step (f' tc) s) s)) (hf : f' tc = f) : RunsLanes c s tile w tc f := by
  intro hi
  refine ⟨_, h, ?_⟩
  rw [runThread_of_issues hi]
  simpa [hf] using laneByLane_step hi f

/-- The tile of an issue exists. -/
theorem tile_lt_of_issues {s : State} {tile w tc} (h : Issues s tile w tc) : tile < s.tiles.length := by
  obtain ⟨h1, h2, h3, -⟩ := h
  rcases Nat.lt_or_ge tile s.tiles.length with hn | hn
  · exact hn
  · simp [State.tile, List.getD_eq_getElem?_getD, List.getElem?_eq_none hn] at h3

/-- An update of the issued group's lanes after the issue is taken. -/
theorem lanesBecome_upd {s : State} {tile w : Nat} {tc : TC} (h : Issues s tile w tc) (up : Group → Group) (after : Nat → Lane → Lane)
    (hs : ∀ g, up g = { g with lanes := (up g).lanes }) (ha : ∀ k, (up tc.g).lane? k = (tc.g.lane? k).map (after k)) :
    LanesBecome s ((s.updTile tile fun t => { t with issued := none }).updGroup tc.tile tc.i.slot up) tc after := by
  have hlt := tile_lt_of_issues h
  obtain ⟨h1, -, h3, -, h5, -, h7, -, -⟩ := h
  subst h1
  have hslot : ∀ g, (up g).slot = g.slot := fun g => by rw [hs]
  have htile : ((s.updTile tc.tile fun t => { t with issued := none }).updGroup tc.tile tc.i.slot up).tile tc.tile
      = ({ s.tile tc.tile with issued := none } : Tile).updGroup tc.i.slot up := by
    simp [State.updGroup, State.tile, State.updTile, List.getD_eq_getElem?_getD, hlt]
  refine ⟨⟨rfl, ?_⟩, ?_, ?_, up tc.g, ?_, hs _, ha⟩
  · intro u hu
    have hu' : tc.tile ≠ u := fun h => hu h.symm
    simp [State.updGroup, State.tile, State.updTile, List.getD_eq_getElem?_getD, hu']
  · rw [htile]; rfl
  · intro slot hs'
    rw [htile, Tile.group?_updGroup _ _ _ _ hslot, if_neg hs']; rfl
  · rw [htile, Tile.group?_updGroup _ _ _ _ hslot, if_pos rfl]
    have h5' : Tile.group? { s.tile tc.tile with issued := none } tc.i.slot = some tc.g := h5
    rw [h5']; rfl

/-- A branch after the issue is taken. -/
theorem lanesBecome_branch {s : State} {tile w : Nat} {tc : TC} (h : Issues s tile w tc) (target e) :
    LanesBecome s (tc.branch target e (s.updTile tile fun t => { t with issued := none })) tc (laneBranched tc target e) := by
  refine lanesBecome_upd h (up := fun g => (g.updLanes (tc.i.mask.filter fun k => !tc.act.contains k) fun _ l => { l with pc := l.pc + 8 }).updLanes tc.act
      fun k l => { e l with pc := target k }) _ ?_ ?_
  · intro g; rfl
  · intro k
    simp only [Group.lane?_updLanes]
    cases tc.g.lane? k <;> by_cases ha : k ∈ tc.act <;> by_cases hm : k ∈ tc.i.mask <;> simp [laneBranched, ha, hm]

end Sys2Proof.Machine
end

