-- ==== Sys2Proof/Laws/Words.lean ====
section
/-! SUPPORT. The fields of a word read back as they were put in, format by format; the opcode and the width with them. -/
namespace Sys2Proof
open Machine

/-- A word made of a field and what lies below it: the field reads back. -/
theorem bits_top {v lo n r : Nat} (hv : v < 2 ^ n) (hr : r < 2 ^ lo) : bits (place v lo n + r) lo n = v := by
  simp only [bits, place, Nat.mod_eq_of_lt hv]
  rw [Nat.add_comm, Nat.add_mul_div_right _ _ (Nat.two_pow_pos lo), Nat.div_eq_of_lt hr, Nat.zero_add, Nat.mod_eq_of_lt hv]

/-- A field below another reads as if that were not there. -/
theorem bits_low {v lo n r a m : Nat} (h : a + m ≤ lo) : bits (place v lo n + r) a m = bits r a m := by
  simp only [bits, place]
  obtain ⟨k, rfl⟩ : ∃ k, lo = a + m + k := ⟨lo - (a + m), by omega⟩
  have : v % 2 ^ n * 2 ^ (a + m + k) + r = r + 2 ^ a * (2 ^ m * (2 ^ k * (v % 2 ^ n))) := by
    rw [Nat.pow_add, Nat.pow_add]; ac_rfl
  rw [this, Nat.add_mul_div_left _ _ (Nat.two_pow_pos a), Nat.add_mul_mod_self_left]

/-- A field over what lies below it fits where it ends. -/
theorem place_lt {v lo n r k : Nat} (hr : r < 2 ^ lo) (h : lo + n = k) : place v lo n + r < 2 ^ k := by
  subst h
  have h1 : v % 2 ^ n + 1 ≤ 2 ^ n := Nat.mod_lt _ (Nat.two_pow_pos n)
  have h2 : (v % 2 ^ n + 1) * 2 ^ lo ≤ 2 ^ n * 2 ^ lo := Nat.mul_le_mul_right _ h1
  simp only [place]
  rw [Nat.add_mul, Nat.one_mul] at h2
  rw [Nat.pow_add, Nat.mul_comm (2 ^ lo)]
  omega

theorem ofNat_bits (w : Nat) : BitVec.ofNat 32 w = BitVec.ofNat 32 (bits w 0 32) := by
  apply BitVec.eq_of_toNat_eq
  simp [bits]

theorem encReg_wordReg {op : Nat} {f : RegF} (h : f.wf = true) (ho : op < 256) :
    bits (encReg op f) 56 8 = op ∧ encReg op f < 2 ^ 64 ∧ wordReg (encReg op f) = f := by
  obtain ⟨x0, x1, x2, x3, x4, x5, x6⟩ := f
  simp [RegF.wf] at h
  obtain ⟨⟨⟨⟨⟨h1, h2⟩, h3⟩, h4⟩, h5⟩, h6⟩ := h
  have e0 : encReg op ⟨x0, x1, x2, x3, x4, x5, x6⟩ =
      place op 56 8 + (place (b2n x0) 55 1 + (place x1 52 3 + (place x2 44 8 + (place x3 36 8 + (place x4 28 8 + (place x5 20 8 + (place x6 0 20 + 0))))))) := by
    simp only [encReg, encHead]; omega
  have r0 : 0 < 2 ^ 0 := by decide
  have r1 := place_lt (v := x6) r0 (show 0 + 20 = 20 by rfl)
  have r2 := place_lt (v := x5) r1 (show 20 + 8 = 28 by rfl)
  have r3 := place_lt (v := x4) r2 (show 28 + 8 = 36 by rfl)
  have r4 := place_lt (v := x3) r3 (show 36 + 8 = 44 by rfl)
  have r5 := place_lt (v := x2) r4 (show 44 + 8 = 52 by rfl)
  have r6 := place_lt (v := x1) r5 (show 52 + 3 = 55 by rfl)
  have r7 := place_lt (v := b2n x0) r6 (show 55 + 1 = 56 by rfl)
  have r8 := place_lt (v := op) r7 (show 56 + 8 = 64 by rfl)
  have b0 : b2n x0 < 2 ^ 1 := by cases x0 <;> decide
  have f0 : bits (place op 56 8 + (place (b2n x0) 55 1 + (place x1 52 3 + (place x2 44 8 + (place x3 36 8 + (place x4 28 8 + (place x5 20 8 + (place x6 0 20 + 0)))))))) 55 1 = b2n x0 :=
    (bits_low (by decide)).trans (bits_top (by omega) r6)
  have f1 : bits (place op 56 8 + (place (b2n x0) 55 1 + (place x1 52 3 + (place x2 44 8 + (place x3 36 8 + (place x4 28 8 + (place x5 20 8 + (place x6 0 20 + 0)))))))) 52 3 = x1 :=
    (bits_low (by decide)).trans ((bits_low (by decide)).trans (bits_top (by omega) r5))
  have f2 : bits (place op 56 8 + (place (b2n x0) 55 1 + (place x1 52 3 + (place x2 44 8 + (place x3 36 8 + (place x4 28 8 + (place x5 20 8 + (place x6 0 20 + 0)))))))) 44 8 = x2 :=
    (bits_low (by decide)).trans ((bits_low (by decide)).trans ((bits_low (by decide)).trans (bits_top (by omega) r4)))
  have f3 : bits (place op 56 8 + (place (b2n x0) 55 1 + (place x1 52 3 + (place x2 44 8 + (place x3 36 8 + (place x4 28 8 + (place x5 20 8 + (place x6 0 20 + 0)))))))) 36 8 = x3 :=
    (bits_low (by decide)).trans ((bits_low (by decide)).trans ((bits_low (by decide)).trans ((bits_low (by decide)).trans (bits_top (by omega) r3))))
  have f4 : bits (place op 56 8 + (place (b2n x0) 55 1 + (place x1 52 3 + (place x2 44 8 + (place x3 36 8 + (place x4 28 8 + (place x5 20 8 + (place x6 0 20 + 0)))))))) 28 8 = x4 :=
    (bits_low (by decide)).trans ((bits_low (by decide)).trans ((bits_low (by decide)).trans ((bits_low (by decide)).trans ((bits_low (by decide)).trans (bits_top (by omega) r2)))))
  have f5 : bits (place op 56 8 + (place (b2n x0) 55 1 + (place x1 52 3 + (place x2 44 8 + (place x3 36 8 + (place x4 28 8 + (place x5 20 8 + (place x6 0 20 + 0)))))))) 20 8 = x5 :=
    (bits_low (by decide)).trans ((bits_low (by decide)).trans ((bits_low (by decide)).trans ((bits_low (by decide)).trans ((bits_low (by decide)).trans ((bits_low (by decide)).trans (bits_top (by omega) r1))))))
  have f6 : bits (place op 56 8 + (place (b2n x0) 55 1 + (place x1 52 3 + (place x2 44 8 + (place x3 36 8 + (place x4 28 8 + (place x5 20 8 + (place x6 0 20 + 0)))))))) 0 20 = x6 :=
    (bits_low (by decide)).trans ((bits_low (by decide)).trans ((bits_low (by decide)).trans ((bits_low (by decide)).trans ((bits_low (by decide)).trans ((bits_low (by decide)).trans ((bits_low (by decide)).trans (bits_top (by omega) r0)))))))
  rw [e0]
  refine ⟨bits_top (by omega) r7, r8, ?_⟩
  simp only [wordReg, bitAt, f0, f1, f2, f3, f4, f5, f6]
  cases x0 <;> rfl

theorem encImm_wordImm {op : Nat} {f : ImmF} (h : f.wf = true) (ho : op < 256) :
    bits (encImm op f) 56 8 = op ∧ encImm op f < 2 ^ 64 ∧ wordImm (encImm op f) = f := by
  obtain ⟨x0, x1, x2, x3, x4, x5⟩ := f
  simp [ImmF.wf] at h
  obtain ⟨⟨⟨h1, h2⟩, h3⟩, h4⟩ := h
  have e0 : encImm op ⟨x0, x1, x2, x3, x4, x5⟩ =
      place op 56 8 + (place (b2n x0) 55 1 + (place x1 52 3 + (place x2 44 8 + (place x3 36 8 + (place x4 32 4 + (place x5.toNat 0 32 + 0)))))) := by
    have := x5.isLt
    simp only [encImm, encHead]
    have : place x5.toNat 0 32 = x5.toNat := by simpa [place] using this
    omega
  have r0 : 0 < 2 ^ 0 := by decide
  have r1 := place_lt (v := x5.toNat) r0 (show 0 + 32 = 32 by rfl)
  have r2 := place_lt (v := x4) r1 (show 32 + 4 = 36 by rfl)
  have r3 := place_lt (v := x3) r2 (show 36 + 8 = 44 by rfl)
  have r4 := place_lt (v := x2) r3 (show 44 + 8 = 52 by rfl)
  have r5 := place_lt (v := x1) r4 (show 52 + 3 = 55 by rfl)
  have r6 := place_lt (v := b2n x0) r5 (show 55 + 1 = 56 by rfl)
  have r7 := place_lt (v := op) r6 (show 56 + 8 = 64 by rfl)
  have b0 : b2n x0 < 2 ^ 1 := by cases x0 <;> decide
  have hb : x5.toNat < 2 ^ 32 := x5.isLt
  have f0 : bits (place op 56 8 + (place (b2n x0) 55 1 + (place x1 52 3 + (place x2 44 8 + (place x3 36 8 + (place x4 32 4 + (place x5.toNat 0 32 + 0))))))) 55 1 = b2n x0 :=
    (bits_low (by decide)).trans (bits_top (by omega) r5)
  have f1 : bits (place op 56 8 + (place (b2n x0) 55 1 + (place x1 52 3 + (place x2 44 8 + (place x3 36 8 + (place x4 32 4 + (place x5.toNat 0 32 + 0))))))) 52 3 = x1 :=
    (bits_low (by decide)).trans ((bits_low (by decide)).trans (bits_top (by omega) r4))
  have f2 : bits (place op 56 8 + (place (b2n x0) 55 1 + (place x1 52 3 + (place x2 44 8 + (place x3 36 8 + (place x4 32 4 + (place x5.toNat 0 32 + 0))))))) 44 8 = x2 :=
    (bits_low (by decide)).trans ((bits_low (by decide)).trans ((bits_low (by decide)).trans (bits_top (by omega) r3)))
  have f3 : bits (place op 56 8 + (place (b2n x0) 55 1 + (place x1 52 3 + (place x2 44 8 + (place x3 36 8 + (place x4 32 4 + (place x5.toNat 0 32 + 0))))))) 36 8 = x3 :=
    (bits_low (by decide)).trans ((bits_low (by decide)).trans ((bits_low (by decide)).trans ((bits_low (by decide)).trans (bits_top (by omega) r2))))
  have f4 : bits (place op 56 8 + (place (b2n x0) 55 1 + (place x1 52 3 + (place x2 44 8 + (place x3 36 8 + (place x4 32 4 + (place x5.toNat 0 32 + 0))))))) 32 4 = x4 :=
    (bits_low (by decide)).trans ((bits_low (by decide)).trans ((bits_low (by decide)).trans ((bits_low (by decide)).trans ((bits_low (by decide)).trans (bits_top (by omega) r1)))))
  have f5 : bits (place op 56 8 + (place (b2n x0) 55 1 + (place x1 52 3 + (place x2 44 8 + (place x3 36 8 + (place x4 32 4 + (place x5.toNat 0 32 + 0))))))) 0 32 = x5.toNat :=
    (bits_low (by decide)).trans ((bits_low (by decide)).trans ((bits_low (by decide)).trans ((bits_low (by decide)).trans ((bits_low (by decide)).trans ((bits_low (by decide)).trans (bits_top (by omega) r0))))))
  have fv : BitVec.ofNat 32 (place op 56 8 + (place (b2n x0) 55 1 + (place x1 52 3 + (place x2 44 8 + (place x3 36 8 + (place x4 32 4 + (place x5.toNat 0 32 + 0))))))) = x5 := by
    rw [ofNat_bits, f5]; simp
  rw [e0]
  refine ⟨bits_top (by omega) r6, r7, ?_⟩
  simp only [wordImm, bitAt, f0, f1, f2, f3, f4, fv]
  cases x0 <;> rfl

theorem encMem_wordMem {op : Nat} {f : MemF} (h : f.wf = true) (ho : op < 256) :
    bits (encMem op f) 56 8 = op ∧ encMem op f < 2 ^ 64 ∧ wordMem (encMem op f) = f := by
  obtain ⟨x0, x1, x2, x3, x4, x5, x6, x7, x8⟩ := f
  simp [MemF.wf] at h
  obtain ⟨⟨⟨⟨⟨⟨h1, h2⟩, h3⟩, h4⟩, h5⟩, h6⟩, h7⟩ := h
  have e0 : encMem op ⟨x0, x1, x2, x3, x4, x5, x6, x7, x8⟩ =
      place op 56 8 + (place (b2n x0) 55 1 + (place x1 52 3 + (place x2 44 8 + (place x3 36 8 + (place x4 28 8 + (place x5 25 3 + (place x6 21 4 + (place (b2n x7) 20 1 + (place x8 0 20 + 0))))))))) := by
    simp only [encMem, encHead]; omega
  have r0 : 0 < 2 ^ 0 := by decide
  have r1 := place_lt (v := x8) r0 (show 0 + 20 = 20 by rfl)
  have r2 := place_lt (v := b2n x7) r1 (show 20 + 1 = 21 by rfl)
  have r3 := place_lt (v := x6) r2 (show 21 + 4 = 25 by rfl)
  have r4 := place_lt (v := x5) r3 (show 25 + 3 = 28 by rfl)
  have r5 := place_lt (v := x4) r4 (show 28 + 8 = 36 by rfl)
  have r6 := place_lt (v := x3) r5 (show 36 + 8 = 44 by rfl)
  have r7 := place_lt (v := x2) r6 (show 44 + 8 = 52 by rfl)
  have r8 := place_lt (v := x1) r7 (show 52 + 3 = 55 by rfl)
  have r9 := place_lt (v := b2n x0) r8 (show 55 + 1 = 56 by rfl)
  have r10 := place_lt (v := op) r9 (show 56 + 8 = 64 by rfl)
  have b0 : b2n x0 < 2 ^ 1 := by cases x0 <;> decide
  have b7 : b2n x7 < 2 ^ 1 := by cases x7 <;> decide
  have f0 : bits (place op 56 8 + (place (b2n x0) 55 1 + (place x1 52 3 + (place x2 44 8 + (place x3 36 8 + (place x4 28 8 + (place x5 25 3 + (place x6 21 4 + (place (b2n x7) 20 1 + (place x8 0 20 + 0)))))))))) 55 1 = b2n x0 :=
    (bits_low (by decide)).trans (bits_top (by omega) r8)
  have f1 : bits (place op 56 8 + (place (b2n x0) 55 1 + (place x1 52 3 + (place x2 44 8 + (place x3 36 8 + (place x4 28 8 + (place x5 25 3 + (place x6 21 4 + (place (b2n x7) 20 1 + (place x8 0 20 + 0)))))))))) 52 3 = x1 :=
    (bits_low (by decide)).trans ((bits_low (by decide)).trans (bits_top (by omega) r7))
  have f2 : bits (place op 56 8 + (place (b2n x0) 55 1 + (place x1 52 3 + (place x2 44 8 + (place x3 36 8 + (place x4 28 8 + (place x5 25 3 + (place x6 21 4 + (place (b2n x7) 20 1 + (place x8 0 20 + 0)))))))))) 44 8 = x2 :=
    (bits_low (by decide)).trans ((bits_low (by decide)).trans ((bits_low (by decide)).trans (bits_top (by omega) r6)))
  have f3 : bits (place op 56 8 + (place (b2n x0) 55 1 + (place x1 52 3 + (place x2 44 8 + (place x3 36 8 + (place x4 28 8 + (place x5 25 3 + (place x6 21 4 + (place (b2n x7) 20 1 + (place x8 0 20 + 0)))))))))) 36 8 = x3 :=
    (bits_low (by decide)).trans ((bits_low (by decide)).trans ((bits_low (by decide)).trans ((bits_low (by decide)).trans (bits_top (by omega) r5))))
  have f4 : bits (place op 56 8 + (place (b2n x0) 55 1 + (place x1 52 3 + (place x2 44 8 + (place x3 36 8 + (place x4 28 8 + (place x5 25 3 + (place x6 21 4 + (place (b2n x7) 20 1 + (place x8 0 20 + 0)))))))))) 28 8 = x4 :=
    (bits_low (by decide)).trans ((bits_low (by decide)).trans ((bits_low (by decide)).trans ((bits_low (by decide)).trans ((bits_low (by decide)).trans (bits_top (by omega) r4)))))
  have f5 : bits (place op 56 8 + (place (b2n x0) 55 1 + (place x1 52 3 + (place x2 44 8 + (place x3 36 8 + (place x4 28 8 + (place x5 25 3 + (place x6 21 4 + (place (b2n x7) 20 1 + (place x8 0 20 + 0)))))))))) 25 3 = x5 :=
    (bits_low (by decide)).trans ((bits_low (by decide)).trans ((bits_low (by decide)).trans ((bits_low (by decide)).trans ((bits_low (by decide)).trans ((bits_low (by decide)).trans (bits_top (by omega) r3))))))
  have f6 : bits (place op 56 8 + (place (b2n x0) 55 1 + (place x1 52 3 + (place x2 44 8 + (place x3 36 8 + (place x4 28 8 + (place x5 25 3 + (place x6 21 4 + (place (b2n x7) 20 1 + (place x8 0 20 + 0)))))))))) 21 4 = x6 :=
    (bits_low (by decide)).trans ((bits_low (by decide)).trans ((bits_low (by decide)).trans ((bits_low (by decide)).trans ((bits_low (by decide)).trans ((bits_low (by decide)).trans ((bits_low (by decide)).trans (bits_top (by omega) r2)))))))
  have f7 : bits (place op 56 8 + (place (b2n x0) 55 1 + (place x1 52 3 + (place x2 44 8 + (place x3 36 8 + (place x4 28 8 + (place x5 25 3 + (place x6 21 4 + (place (b2n x7) 20 1 + (place x8 0 20 + 0)))))))))) 20 1 = b2n x7 :=
    (bits_low (by decide)).trans ((bits_low (by decide)).trans ((bits_low (by decide)).trans ((bits_low (by decide)).trans ((bits_low (by decide)).trans ((bits_low (by decide)).trans ((bits_low (by decide)).trans ((bits_low (by decide)).trans (bits_top (by omega) r1))))))))
  have f8 : bits (place op 56 8 + (place (b2n x0) 55 1 + (place x1 52 3 + (place x2 44 8 + (place x3 36 8 + (place x4 28 8 + (place x5 25 3 + (place x6 21 4 + (place (b2n x7) 20 1 + (place x8 0 20 + 0)))))))))) 0 20 = x8 :=
    (bits_low (by decide)).trans ((bits_low (by decide)).trans ((bits_low (by decide)).trans ((bits_low (by decide)).trans ((bits_low (by decide)).trans ((bits_low (by decide)).trans ((bits_low (by decide)).trans ((bits_low (by decide)).trans ((bits_low (by decide)).trans (bits_top (by omega) r0)))))))))
  rw [e0]
  refine ⟨bits_top (by omega) r9, r10, ?_⟩
  simp only [wordMem, bitAt, f0, f1, f2, f3, f4, f5, f6, f7, f8]
  cases x0 <;> cases x7 <;> rfl

theorem encBrn_wordBrn {op : Nat} {f : BrnF} (h : f.wf = true) (ho : op < 256) :
    bits (encBrn op f) 56 8 = op ∧ encBrn op f < 2 ^ 64 ∧ wordBrn (encBrn op f) = f := by
  obtain ⟨x0, x1, x2, x3, x4, x5⟩ := f
  simp [BrnF.wf] at h
  obtain ⟨⟨⟨h1, h2⟩, h3⟩, h4⟩ := h
  have e0 : encBrn op ⟨x0, x1, x2, x3, x4, x5⟩ =
      place op 56 8 + (place (b2n x0) 55 1 + (place x1 52 3 + (place x2 44 8 + (place x3 36 8 + (place x4 32 4 + (place x5.toNat 0 32 + 0)))))) := by
    have := x5.isLt
    simp only [encBrn, encHead]
    have : place x5.toNat 0 32 = x5.toNat := by simpa [place] using this
    omega
  have r0 : 0 < 2 ^ 0 := by decide
  have r1 := place_lt (v := x5.toNat) r0 (show 0 + 32 = 32 by rfl)
  have r2 := place_lt (v := x4) r1 (show 32 + 4 = 36 by rfl)
  have r3 := place_lt (v := x3) r2 (show 36 + 8 = 44 by rfl)
  have r4 := place_lt (v := x2) r3 (show 44 + 8 = 52 by rfl)
  have r5 := place_lt (v := x1) r4 (show 52 + 3 = 55 by rfl)
  have r6 := place_lt (v := b2n x0) r5 (show 55 + 1 = 56 by rfl)
  have r7 := place_lt (v := op) r6 (show 56 + 8 = 64 by rfl)
  have b0 : b2n x0 < 2 ^ 1 := by cases x0 <;> decide
  have hb : x5.toNat < 2 ^ 32 := x5.isLt
  have f0 : bits (place op 56 8 + (place (b2n x0) 55 1 + (place x1 52 3 + (place x2 44 8 + (place x3 36 8 + (place x4 32 4 + (place x5.toNat 0 32 + 0))))))) 55 1 = b2n x0 :=
    (bits_low (by decide)).trans (bits_top (by omega) r5)
  have f1 : bits (place op 56 8 + (place (b2n x0) 55 1 + (place x1 52 3 + (place x2 44 8 + (place x3 36 8 + (place x4 32 4 + (place x5.toNat 0 32 + 0))))))) 52 3 = x1 :=
    (bits_low (by decide)).trans ((bits_low (by decide)).trans (bits_top (by omega) r4))
  have f2 : bits (place op 56 8 + (place (b2n x0) 55 1 + (place x1 52 3 + (place x2 44 8 + (place x3 36 8 + (place x4 32 4 + (place x5.toNat 0 32 + 0))))))) 44 8 = x2 :=
    (bits_low (by decide)).trans ((bits_low (by decide)).trans ((bits_low (by decide)).trans (bits_top (by omega) r3)))
  have f3 : bits (place op 56 8 + (place (b2n x0) 55 1 + (place x1 52 3 + (place x2 44 8 + (place x3 36 8 + (place x4 32 4 + (place x5.toNat 0 32 + 0))))))) 36 8 = x3 :=
    (bits_low (by decide)).trans ((bits_low (by decide)).trans ((bits_low (by decide)).trans ((bits_low (by decide)).trans (bits_top (by omega) r2))))
  have f4 : bits (place op 56 8 + (place (b2n x0) 55 1 + (place x1 52 3 + (place x2 44 8 + (place x3 36 8 + (place x4 32 4 + (place x5.toNat 0 32 + 0))))))) 32 4 = x4 :=
    (bits_low (by decide)).trans ((bits_low (by decide)).trans ((bits_low (by decide)).trans ((bits_low (by decide)).trans ((bits_low (by decide)).trans (bits_top (by omega) r1)))))
  have f5 : bits (place op 56 8 + (place (b2n x0) 55 1 + (place x1 52 3 + (place x2 44 8 + (place x3 36 8 + (place x4 32 4 + (place x5.toNat 0 32 + 0))))))) 0 32 = x5.toNat :=
    (bits_low (by decide)).trans ((bits_low (by decide)).trans ((bits_low (by decide)).trans ((bits_low (by decide)).trans ((bits_low (by decide)).trans ((bits_low (by decide)).trans (bits_top (by omega) r0))))))
  have fv : BitVec.ofNat 32 (place op 56 8 + (place (b2n x0) 55 1 + (place x1 52 3 + (place x2 44 8 + (place x3 36 8 + (place x4 32 4 + (place x5.toNat 0 32 + 0))))))) = x5 := by
    rw [ofNat_bits, f5]; simp
  rw [e0]
  refine ⟨bits_top (by omega) r6, r7, ?_⟩
  simp only [wordBrn, bitAt, f0, f1, f2, f3, f4, fv]
  cases x0 <;> rfl

theorem encSpc_wordSpc {op : Nat} {f : SpcF} (h : f.wf = true) (ho : op < 256) :
    bits (encSpc op f) 56 8 = op ∧ encSpc op f < 2 ^ 64 ∧ wordSpc (encSpc op f) = f := by
  obtain ⟨x0, x1, x2, x3, x4, x5⟩ := f
  simp [SpcF.wf] at h
  obtain ⟨⟨⟨⟨h1, h2⟩, h3⟩, h4⟩, h5⟩ := h
  have e0 : encSpc op ⟨x0, x1, x2, x3, x4, x5⟩ =
      place op 56 8 + (place (b2n x0) 55 1 + (place x1 52 3 + (place x2 44 8 + (place x3 36 8 + (place x4 28 8 + (place x5 0 28 + 0)))))) := by
    simp only [encSpc, encHead]; omega
  have r0 : 0 < 2 ^ 0 := by decide
  have r1 := place_lt (v := x5) r0 (show 0 + 28 = 28 by rfl)
  have r2 := place_lt (v := x4) r1 (show 28 + 8 = 36 by rfl)
  have r3 := place_lt (v := x3) r2 (show 36 + 8 = 44 by rfl)
  have r4 := place_lt (v := x2) r3 (show 44 + 8 = 52 by rfl)
  have r5 := place_lt (v := x1) r4 (show 52 + 3 = 55 by rfl)
  have r6 := place_lt (v := b2n x0) r5 (show 55 + 1 = 56 by rfl)
  have r7 := place_lt (v := op) r6 (show 56 + 8 = 64 by rfl)
  have b0 : b2n x0 < 2 ^ 1 := by cases x0 <;> decide
  have f0 : bits (place op 56 8 + (place (b2n x0) 55 1 + (place x1 52 3 + (place x2 44 8 + (place x3 36 8 + (place x4 28 8 + (place x5 0 28 + 0))))))) 55 1 = b2n x0 :=
    (bits_low (by decide)).trans (bits_top (by omega) r5)
  have f1 : bits (place op 56 8 + (place (b2n x0) 55 1 + (place x1 52 3 + (place x2 44 8 + (place x3 36 8 + (place x4 28 8 + (place x5 0 28 + 0))))))) 52 3 = x1 :=
    (bits_low (by decide)).trans ((bits_low (by decide)).trans (bits_top (by omega) r4))
  have f2 : bits (place op 56 8 + (place (b2n x0) 55 1 + (place x1 52 3 + (place x2 44 8 + (place x3 36 8 + (place x4 28 8 + (place x5 0 28 + 0))))))) 44 8 = x2 :=
    (bits_low (by decide)).trans ((bits_low (by decide)).trans ((bits_low (by decide)).trans (bits_top (by omega) r3)))
  have f3 : bits (place op 56 8 + (place (b2n x0) 55 1 + (place x1 52 3 + (place x2 44 8 + (place x3 36 8 + (place x4 28 8 + (place x5 0 28 + 0))))))) 36 8 = x3 :=
    (bits_low (by decide)).trans ((bits_low (by decide)).trans ((bits_low (by decide)).trans ((bits_low (by decide)).trans (bits_top (by omega) r2))))
  have f4 : bits (place op 56 8 + (place (b2n x0) 55 1 + (place x1 52 3 + (place x2 44 8 + (place x3 36 8 + (place x4 28 8 + (place x5 0 28 + 0))))))) 28 8 = x4 :=
    (bits_low (by decide)).trans ((bits_low (by decide)).trans ((bits_low (by decide)).trans ((bits_low (by decide)).trans ((bits_low (by decide)).trans (bits_top (by omega) r1)))))
  have f5 : bits (place op 56 8 + (place (b2n x0) 55 1 + (place x1 52 3 + (place x2 44 8 + (place x3 36 8 + (place x4 28 8 + (place x5 0 28 + 0))))))) 0 28 = x5 :=
    (bits_low (by decide)).trans ((bits_low (by decide)).trans ((bits_low (by decide)).trans ((bits_low (by decide)).trans ((bits_low (by decide)).trans ((bits_low (by decide)).trans (bits_top (by omega) r0))))))
  rw [e0]
  refine ⟨bits_top (by omega) r6, r7, ?_⟩
  simp only [wordSpc, bitAt, f0, f1, f2, f3, f4, f5]
  cases x0 <;> rfl

theorem encTa_wordTa {op : Nat} {f : TaF} (h : f.wf = true) (ho : op < 64) :
    bits (encTa op f) 26 6 = op ∧ encTa op f < 2 ^ 32 ∧ wordTa (encTa op f) = f := by
  obtain ⟨x0, x1, x2, x3⟩ := f
  simp [TaF.wf] at h
  obtain ⟨⟨⟨h1, h2⟩, h3⟩, h4⟩ := h
  have e0 : encTa op ⟨x0, x1, x2, x3⟩ =
      place op 26 6 + (place x0 21 5 + (place x1 16 5 + (place x2 11 5 + (place x3 0 11 + 0)))) := by
    simp only [encTa]; omega
  have r0 : 0 < 2 ^ 0 := by decide
  have r1 := place_lt (v := x3) r0 (show 0 + 11 = 11 by rfl)
  have r2 := place_lt (v := x2) r1 (show 11 + 5 = 16 by rfl)
  have r3 := place_lt (v := x1) r2 (show 16 + 5 = 21 by rfl)
  have r4 := place_lt (v := x0) r3 (show 21 + 5 = 26 by rfl)
  have r5 := place_lt (v := op) r4 (show 26 + 6 = 32 by rfl)
  have f0 : bits (place op 26 6 + (place x0 21 5 + (place x1 16 5 + (place x2 11 5 + (place x3 0 11 + 0))))) 21 5 = x0 :=
    (bits_low (by decide)).trans (bits_top (by omega) r3)
  have f1 : bits (place op 26 6 + (place x0 21 5 + (place x1 16 5 + (place x2 11 5 + (place x3 0 11 + 0))))) 16 5 = x1 :=
    (bits_low (by decide)).trans ((bits_low (by decide)).trans (bits_top (by omega) r2))
  have f2 : bits (place op 26 6 + (place x0 21 5 + (place x1 16 5 + (place x2 11 5 + (place x3 0 11 + 0))))) 11 5 = x2 :=
    (bits_low (by decide)).trans ((bits_low (by decide)).trans ((bits_low (by decide)).trans (bits_top (by omega) r1)))
  have f3 : bits (place op 26 6 + (place x0 21 5 + (place x1 16 5 + (place x2 11 5 + (place x3 0 11 + 0))))) 0 11 = x3 :=
    (bits_low (by decide)).trans ((bits_low (by decide)).trans ((bits_low (by decide)).trans ((bits_low (by decide)).trans (bits_top (by omega) r0))))
  rw [e0]
  refine ⟨bits_top (by omega) r4, r5, ?_⟩
  simp only [wordTa, f0, f1, f2, f3]

theorem encTi_wordTi {op : Nat} {f : TiF} (h : f.wf = true) (ho : op < 64) :
    bits (encTi op f) 26 6 = op ∧ encTi op f < 2 ^ 32 ∧ wordTi (encTi op f) = f := by
  obtain ⟨x0, x1, x2⟩ := f
  simp [TiF.wf] at h
  obtain ⟨⟨h1, h2⟩, h3⟩ := h
  have e0 : encTi op ⟨x0, x1, x2⟩ =
      place op 26 6 + (place x0 21 5 + (place x1 16 5 + (place x2 0 16 + 0))) := by
    simp only [encTi]; omega
  have r0 : 0 < 2 ^ 0 := by decide
  have r1 := place_lt (v := x2) r0 (show 0 + 16 = 16 by rfl)
  have r2 := place_lt (v := x1) r1 (show 16 + 5 = 21 by rfl)
  have r3 := place_lt (v := x0) r2 (show 21 + 5 = 26 by rfl)
  have r4 := place_lt (v := op) r3 (show 26 + 6 = 32 by rfl)
  have f0 : bits (place op 26 6 + (place x0 21 5 + (place x1 16 5 + (place x2 0 16 + 0)))) 21 5 = x0 :=
    (bits_low (by decide)).trans (bits_top (by omega) r2)
  have f1 : bits (place op 26 6 + (place x0 21 5 + (place x1 16 5 + (place x2 0 16 + 0)))) 16 5 = x1 :=
    (bits_low (by decide)).trans ((bits_low (by decide)).trans (bits_top (by omega) r1))
  have f2 : bits (place op 26 6 + (place x0 21 5 + (place x1 16 5 + (place x2 0 16 + 0)))) 0 16 = x2 :=
    (bits_low (by decide)).trans ((bits_low (by decide)).trans ((bits_low (by decide)).trans (bits_top (by omega) r0)))
  rw [e0]
  refine ⟨bits_top (by omega) r3, r4, ?_⟩
  simp only [wordTi, f0, f1, f2]

theorem encTb_wordTb {op : Nat} {f : TbF} (h : f.wf = true) (ho : op < 64) :
    bits (encTb op f) 26 6 = op ∧ encTb op f < 2 ^ 32 ∧ wordTb (encTb op f) = f := by
  obtain ⟨x0, x1, x2⟩ := f
  simp [TbF.wf] at h
  obtain ⟨⟨h1, h2⟩, h3⟩ := h
  have e0 : encTb op ⟨x0, x1, x2⟩ =
      place op 26 6 + (place x0 21 5 + (place x1 16 5 + (place x2 0 16 + 0))) := by
    simp only [encTb]; omega
  have r0 : 0 < 2 ^ 0 := by decide
  have r1 := place_lt (v := x2) r0 (show 0 + 16 = 16 by rfl)
  have r2 := place_lt (v := x1) r1 (show 16 + 5 = 21 by rfl)
  have r3 := place_lt (v := x0) r2 (show 21 + 5 = 26 by rfl)
  have r4 := place_lt (v := op) r3 (show 26 + 6 = 32 by rfl)
  have f0 : bits (place op 26 6 + (place x0 21 5 + (place x1 16 5 + (place x2 0 16 + 0)))) 21 5 = x0 :=
    (bits_low (by decide)).trans (bits_top (by omega) r2)
  have f1 : bits (place op 26 6 + (place x0 21 5 + (place x1 16 5 + (place x2 0 16 + 0)))) 16 5 = x1 :=
    (bits_low (by decide)).trans ((bits_low (by decide)).trans (bits_top (by omega) r1))
  have f2 : bits (place op 26 6 + (place x0 21 5 + (place x1 16 5 + (place x2 0 16 + 0)))) 0 16 = x2 :=
    (bits_low (by decide)).trans ((bits_low (by decide)).trans ((bits_low (by decide)).trans (bits_top (by omega) r0)))
  rw [e0]
  refine ⟨bits_top (by omega) r3, r4, ?_⟩
  simp only [wordTb, f0, f1, f2]

theorem encTj_wordTj {op : Nat} {f : TjF} (h : f.wf = true) (ho : op < 64) :
    bits (encTj op f) 26 6 = op ∧ encTj op f < 2 ^ 32 ∧ wordTj (encTj op f) = f := by
  obtain ⟨x0⟩ := f
  simp [TjF.wf] at h
  have e0 : encTj op ⟨x0⟩ =
      place op 26 6 + (place x0 0 26 + 0) := by
    simp only [encTj]; omega
  have r0 : 0 < 2 ^ 0 := by decide
  have r1 := place_lt (v := x0) r0 (show 0 + 26 = 26 by rfl)
  have r2 := place_lt (v := op) r1 (show 26 + 6 = 32 by rfl)
  have f0 : bits (place op 26 6 + (place x0 0 26 + 0)) 0 26 = x0 :=
    (bits_low (by decide)).trans (bits_top (by omega) r0)
  rw [e0]
  refine ⟨bits_top (by omega) r1, r2, ?_⟩
  simp only [wordTj, f0]

theorem encTs_wordTs {op : Nat} {f : TsF} (h : f.wf = true) (ho : op < 64) :
    bits (encTs op f) 26 6 = op ∧ encTs op f < 2 ^ 32 ∧ wordTs (encTs op f) = f := by
  obtain ⟨x0, x1, x2⟩ := f
  simp [TsF.wf] at h
  obtain ⟨⟨h1, h2⟩, h3⟩ := h
  have e0 : encTs op ⟨x0, x1, x2⟩ =
      place op 26 6 + (place x0 21 5 + (place x1 16 5 + (place x2 0 16 + 0))) := by
    simp only [encTs]; omega
  have r0 : 0 < 2 ^ 0 := by decide
  have r1 := place_lt (v := x2) r0 (show 0 + 16 = 16 by rfl)
  have r2 := place_lt (v := x1) r1 (show 16 + 5 = 21 by rfl)
  have r3 := place_lt (v := x0) r2 (show 21 + 5 = 26 by rfl)
  have r4 := place_lt (v := op) r3 (show 26 + 6 = 32 by rfl)
  have f0 : bits (place op 26 6 + (place x0 21 5 + (place x1 16 5 + (place x2 0 16 + 0)))) 21 5 = x0 :=
    (bits_low (by decide)).trans (bits_top (by omega) r2)
  have f1 : bits (place op 26 6 + (place x0 21 5 + (place x1 16 5 + (place x2 0 16 + 0)))) 16 5 = x1 :=
    (bits_low (by decide)).trans ((bits_low (by decide)).trans (bits_top (by omega) r1))
  have f2 : bits (place op 26 6 + (place x0 21 5 + (place x1 16 5 + (place x2 0 16 + 0)))) 0 16 = x2 :=
    (bits_low (by decide)).trans ((bits_low (by decide)).trans ((bits_low (by decide)).trans (bits_top (by omega) r0)))
  rw [e0]
  refine ⟨bits_top (by omega) r3, r4, ?_⟩
  simp only [wordTs, f0, f1, f2]

end Sys2Proof
end

