-- ==== Sys2Proof/Tests/Slice0.lean ====
section
/-! SUPPORT. Tests of the model: for each statement states and operands that meet its hypotheses, small steps with results computed by
hand from the manual, words written out from the encoding tables, and ill-formed commands that the check refuses. -/
namespace Sys2Proof.Tests
open Sys2Proof Sys2Proof.Machine
set_option maxRecDepth 10000
set_option Elab.async false

/-! ## States for the tests -/

/-- In service, context 0 RUNNING, context 1 READY, both of the enabled partition 0, and context 2 DEAD. -/
def up : State :=
  { State.reset with
    phase := .ready
    cm := { State.reset.cm with
      ctxs := ({ state := .running } : Ctx) :: ({ state := .ready } : Ctx) :: ({ state := .dead } : Ctx) :: List.replicate 61 {}
      parts := ({ enabled := true } : Part) :: List.replicate 31 {} } }

/-- A lane in which register n holds n + 2, and every predicate is set. -/
def lane (pc : Nat) : Lane := { pc := pc, regs := (List.range 32).map fun n => BitVec.ofNat 32 (n + 2), preds := List.replicate 7 true }

def hdr : KHdr := { entry := 64, threads := 2, regs := 32, cluster := 0, loc := 1 }

def block : Block :=
  { bslot := 3, ctx := 0, launch := 7, tcu := some 1, hdr := hdr, base := 0x8000, size := 1024, regUnits := 1, blockId := 5, cluster := none
    rank := 0, started := true }

/-- A group of two threads. -/
def group : Group := { slot := 0, slot2 := none, bslot := 3, idx := 0, width := 32, lanes := [some (lane 128), some (lane 128)], since := 0 }

/-- Tile 0 with the block and a group, and an instruction of both lanes that has issued. -/
def tileOf (g : Group) (w : Nat) : Tile :=
  { blocks := [block], groups := [g], issued := some { slot := 0, pc := 128, mask := [0, 1], word := w } }

/-- The state in which the word w has issued on tile 0. -/
def thr (g : Group) (w : Nat) : State := { up with tiles := tileOf g w :: List.replicate 143 {} }

/-- What the issue is for. -/
def tcOf (g : Group) (w : Nat) : TC :=
  { tile := 0, i := { slot := 0, pc := 128, mask := [0, 1], word := w }, g := g, b := block, act := guardedLanes g [0, 1] w }

/-- The word issues. -/
def issues (g : Group) (w : Nat) : Prop := Issues (thr g w) 0 w (tcOf g w)

/-- A group whose lanes wait for something. -/
def waiting (w : LaneWait) : Group := { group with lanes := [some { lane 128 with wait := w }, some { lane 128 with wait := w }] }

/-! ## Fields of REG, IMM, MEM, BRN, SPC with no guard -/

def fr (a b c mod : Nat) : RegF := { pneg := false, psel := 7, dst := 4, srca := a, srcb := b, srcc := c, mod := mod }
def fi (a : Nat) (imm : Word) : ImmF := { pneg := false, psel := 7, dst := 4, srca := a, mod4 := 0, imm := imm }
def fm (b size subop : Nat) : MemF := { pneg := false, psel := 7, dst := 4, srca := 8, srcb := b, size := size, subop := subop, signed := false, off := 0 }
def fb (a : Nat) (disp : Word) : BrnF := { pneg := false, psel := 7, dst := 0, srca := a, rsv := 0, disp := disp }
def fs (a sp : Nat) : SpcF := { pneg := false, psel := 7, dst := 0, srca := a, srcb := 0, spec := sp }

/-! ## The hypotheses of the statements about threads can be met -/

theorem witness_IntegerResults :
    (∀ w ∈ [encReg 0x03 (fr 1 0 0 0), encReg 0x04 (fr 1 2 0 7), encReg 0x10 (fr 1 2 0 0), encReg 0x11 (fr 1 2 0 0), encReg 0x12 (fr 1 2 0 0),
      encReg 0x13 (fr 1 2 0 1), encReg 0x15 (fr 1 2 0 1), encReg 0x16 (fr 1 2 0 0), encReg 0x17 (fr 1 2 0 0), encReg 0x18 (fr 1 2 0 0),
      encReg 0x19 (fr 1 2 0 0), encReg 0x1A (fr 1 2 0 0), encReg 0x1B (fr 1 2 0 0), encReg 0x1C (fr 1 2 0 0), encReg 0x14 (fr 1 2 3 0),
      encReg 0x1D (fr 1 0 0 0), encReg 0x1E (fr 1 0 0 0), encReg 0x1F (fr 1 0 0 0)], issues group w)
    ∧ (∀ op ∈ [0x20, 0x21, 0x22, 0x23, 0x25, 0x26, 0x27, 0x28, 0x29, 0x2A, 0x2B, 0x2C], issues group (encImm op (fi 1 0xFFFFFFFF)))
    ∧ issues group (encImm 0x02 (fi 0 0xFFFFFFFF)) ∧ (clz 1).toNat = 31 ∧ (clz 0x80000000).toNat = 0 ∧ (1 : Word) ≠ 0 := by
  simp only [issues, Issues]
  decide

theorem witness_CompareAndPredicateResults :
    issues group (encReg 0x30 (fr 1 2 0 9)) ∧ issues group (encImm 0x31 (fi 1 5)) ∧ issues group (encReg 0x32 (fr 1 2 0 7))
    ∧ issues group (encReg 0x33 (fr 7 0 0 3)) ∧ (fp32.unpack 0x7FC00001).isNan = true := by
  simp only [issues, Issues]
  decide

theorem witness_LaneRegistersAndPredicates :
    31 < (lane 0).regs.length ∧ (6 : Nat) < 7 ∧ 6 < (lane 0).preds.length ∧ ((lane 0).setGr 31 9).gr 31 = 9
    ∧ ((lane 0).setPr 6 false).pr 6 = false := by decide

theorem witness_FloatingPointResults :
    (∀ w ∈ [encReg 0x40 (fr 1 2 0 7), encReg 0x41 (fr 1 2 0 4), encReg 0x42 (fr 1 2 3 1), encReg 0x43 (fr 1 2 0 4), encReg 0x44 (fr 1 2 0 0),
      encReg 0x4C (fr 1 2 0 0), encReg 0x4D (fr 1 2 0 0), encReg 0x4E (fr 1 2 0 0), encReg 0x4F (fr 1 0 0 0x77)], issues group w) := by
  simp only [issues, Issues]
  decide

theorem witness_UnaryAndCanonicalResults :
    (∀ op ∈ [0x45, 0x46, 0x47, 0x48, 0x49, 0x4A, 0x4B], issues group (encReg op (fr 1 0 0 4)))
    ∧ (fp32.unpack (fp32.round (.code 0) true false .nan)).isNan = true ∧ (fp16.unpack (fp16.round (.code 1) false false .nan)).isNan = true := by
  simp only [issues, Issues]
  decide

theorem witness_MinimumAndMaximumOfSpecialValues :
    (fp32.unpack 0x00000001).isNan = false ∧ (fp32.unpack 0xFFFFFFFF).isNan = true ∧ (0xFFFFFFFF : Nat) < 2 ^ 32
    ∧ fMinMax false 4 0x80000001 0x7FC00000 = 0x80000000 ∧ fMinMax true 0 0xFFFFFFFF 0x00000001 = 1 := by decide

theorem witness_CrossLaneResults :
    (∀ w ∈ [encReg 0x60 (fr 1 2 0 0), encReg 0x61 (fr 1 0 0 5), encReg 0x62 (fr 1 0 0 0), encReg 0x34 (fr 7 0 0 0), encReg 0x34 (fr 7 0 0 1),
      encReg 0x34 (fr 7 0 0 2), encSpc 0x05 { fs 0 0x0E with dst := 4 }, encSpc 0x05 { fs 0 0x10 with dst := 4 }, encSpc 0x01 (fs 0 0)],
      issues group w) := by
  simp only [issues, Issues]
  decide

/-- Both lanes at address 10 and 14 of the own block's local memory (register 8 holds 10 in one lane and 14 in the other). -/
def localGroup : Group := { group with lanes := [some ((lane 128).setGr 8 16), some ((lane 128).setGr 8 20)] }

theorem wf_thr (g : Group) (w : Nat) : ∀ u, Mem.wf (some 0) ((thr g w).tile u).localMem := by
  intro u
  have h : ((thr g w).tile u).localMem = [] := by
    rcases u with _ | u
    · rfl
    · have : (thr g w).tile (u + 1) = (List.replicate 143 ({} : Tile)).getD u {} := rfl
      rw [this, List.getD_eq_getElem?_getD, List.getElem?_replicate]
      split <;> rfl
  rw [h]
  exact ⟨List.Pairwise.nil, by simp⟩

theorem witness_LocalLoadsAndStoresComplete :
    (∀ w ∈ [encMem 0x70 (fm 0 2 0), encMem 0x71 (fm 0 2 0)],
      issues localGroup w ∧ (tcOf localGroup w).act = [0, 1] ∧ (tcOf localGroup w).i.mask.Pairwise (· < ·)
      ∧ LocalOk (thr localGroup w) (tcOf localGroup w) (fm 0 2 0) (fun k => (0, 0x8010 + 4 * k)))
    ∧ (∀ a, inTarget (0, 0x8010) 4 0 a → ¬inTarget (0, 0x8014) 4 0 a) ∧ ∀ w u, Mem.wf (some 0) ((thr localGroup w).tile u).localMem := by
  refine ⟨?_, ?_, fun w => wf_thr _ w⟩
  · simp only [issues, Issues, LocalOk]
    decide
  · simp only [inTarget]
    omega

theorem witness_LocalAtomicsAndTheirOperations :
    issues localGroup (encMem 0x72 (fm 2 2 9)) ∧ (tcOf localGroup (encMem 0x72 (fm 2 2 9))).i.mask.Pairwise (· < ·)
    ∧ LocalOk (thr localGroup (encMem 0x72 (fm 2 2 9))) (tcOf localGroup (encMem 0x72 (fm 2 2 9))) (fm 2 2 9) (fun k => (0, 0x8010 + 4 * k))
    ∧ ∀ u, Mem.wf (some 0) ((thr localGroup (encMem 0x72 (fm 2 2 9))).tile u).localMem := by
  refine ⟨?_, ?_, ?_, wf_thr _ _⟩ <;> (try simp only [issues, Issues, LocalOk]) <;> decide

theorem witness_BranchesAndCallsComplete :
    (∀ w ∈ [encBrn 0x80 (fb 0 0xFFFFFFFF), encBrn 0x82 (fb 0 2), encBrn 0x81 (fb 6 0), encBrn 0x83 (fb 6 0)], issues group w)
    ∧ (∀ k ∈ (tcOf group (encBrn 0x81 (fb 6 0))).act, ((tcOf group (encBrn 0x81 (fb 6 0))).lane k).getN 6 2 % 8 = 0) := by
  simp only [issues, Issues]
  decide

theorem witness_MisalignedBranchTargetFaults :
    (∀ op ∈ [0x81, 0x83], issues group (encBrn op (fb 4 0)) ∧ (tcOf group (encBrn op (fb 4 0))).act = [] ++ 0 :: [1]
      ∧ ((tcOf group (encBrn op (fb 4 0))).lane 0).getN 4 2 % 8 ≠ 0)
    ∧ ∀ op ∈ [0x81, 0x83], issues group (encBrn op (fb 6 0)) ∧ ∀ k ∈ [0, 1], ((tcOf group (encBrn op (fb 6 0))).lane k).getN 6 2 % 8 = 0 := by
  simp only [issues, Issues]
  decide

theorem witness_ReservedFieldsFaultWhateverTheGuard :
    (let w := encReg 0x10 (fr 1 2 1 0)
     let tc := tcOf group w
     tc.tile = 0 ∧ (thr group w).clocked = true ∧ ((thr group w).tile 0).issued = some tc.i ∧ tc.i.word = w
       ∧ ((thr group w).tile 0).group? 0 = some group ∧ ((thr group w).tile 0).block? 3 = some block
       ∧ tc.act = guardedLanes group tc.i.mask w ∧ (thr group w).live 0 = true ∧ reservedBad w 32 32 = true
       ∧ (Instr.iadd 0 (fr 1 2 1 0)).threadWord? = some (0, w))
    ∧ opDefined (bits (0xFE * 2 ^ 56) 56 8) = false := by decide

/-! ## Page tables for the tests -/

/-- A context whose page table is one table that leads to itself at entry 0, so that VAs of entries 1 … 4 are pages: entry 1 DEVICE,
2 UNCACHED, 3 DEVICE without write, each readable; the page of entry 1 may be executed. -/
def paged : State :=
  { up with
    cm := { up.cm with ctxs := up.cm.ctxs.modify 0 fun c => { c with root := 0x1000 } }
    mem := up.mem.writeHbm 32 32 (cellsAt 0x1000 (toLe 8 0x1001 ++ toLe 8 (0x4000 + 0x1F) ++ toLe 8 (0x5000 + 0x4F) ++ toLe 8 (0x6000 + 0x07))) }

/-- The two lanes at given VAs (register pair 8). -/
def vaGroupAt (a b : Word) : Group :=
  { group with lanes := [some (((lane 128).setGr 8 a).setGr 9 0), some (((lane 128).setGr 8 b).setGr 9 0)] }

/-- Both lanes at VAs of the page of entry 1. -/
def vaGroup : Group := vaGroupAt 0x1010 0x1014

/-- The word w has issued for a group on paged state. -/
def vaThr (g : Group) (w : Nat) : State := { paged with tiles := tileOf g w :: List.replicate 143 {} }

/-- The checks of the accesses at VAs. -/
def vaChecks (s : State) (tc : TC) (f : MemF) (acc : Access) : State × Option (Checked (Nat × Leaf × Nat)) :=
  vaLanes acc f tc (s.updTile tc.tile fun t => { t with issued := none })

theorem vaChecks_of (s : State) (tc : TC) (f : MemF) (acc : Access) :
    VaChecks s tc f acc (vaChecks s tc f acc).1 (vaChecks s tc f acc).2 := rfl

/-- The word issues on paged state, and its lanes pass the checks as given: those that pass and the code of the fault, or none where R238 bars
them. -/
def vaIssues (g : Group) (f : MemF) (op : Nat) (acc : Access) (c : Option (List Nat × Option Nat)) : Prop :=
  let w := encMem op f
  Issues (vaThr g w) 0 w (tcOf g w)
    ∧ (vaChecks (vaThr g w) (tcOf g w) f acc).2.map (fun c => (c.good.map (·.1), c.bad.map (·.code))) = c

/-- An indexed access: register 31 holds 33, times 4. -/
def fx : MemF := { fm 31 2 0 with off := 2 * 2 ^ 17 }

/-- A buffered line of a type. -/
def sbLine (typ line : Nat) : SbLine :=
  { typ := typ, key := 0, ctxs := [0], launches := [7], line := line, cells := [(line * 128 + 4, 1), (line * 128 + 5, 2)], owners := [⟨0, 0, 0⟩] }

/-- The lines of a store buffer with no room. -/
def fullSb : List SbLine := (List.range 64).map fun i => sbLine 0 (1000 + i)

theorem witness_StoresEnterTheBufferAndDrain :
    (vaIssues vaGroup (fm 0 2 0) 0x74 .store (some ([0, 1], none)) ∧ vaIssues vaGroup fx 0x77 .scatter (some ([0, 1], none))
      ∧ vaIssues (vaGroupAt 0x1010 0x3000) (fm 0 2 0) 0x74 .store (some ([0], some 0x05))
      ∧ vaIssues (vaGroupAt 0x1010 0x2000) fx 0x77 .scatter none)
    ∧ (let n (sb : List SbLine) : Nat := sb.length + linesNeeded sb 0 [(0, 0x4010 / 128), (0, 0x4014 / 128)]
       n [] ≤ sbLines ∧ sbLines < n fullSb ∧ ∀ b ∈ fullSb, Mem.wf none b.cells)
    ∧ (let s := { paged with tiles := { sb := [sbLine 0 8, sbLine 1 9, sbLine 2 10, sbLine 3 11, sbLine 4 12, sbLine 2 13] } :: List.replicate 143 {} }
       s.clocked = true ∧ (∀ i < 5, ∃ b, (s.tile 0).sb[i]? = some b ∧ b.typ = i)
         ∧ ((s.tile 0).sb.take 5).any (fun x => x.typ == 2) = true ∧ ((s.tile 0).sb.take 2).any (fun x => x.typ == 2) = false)
    ∧ (let s := { paged with mem := { paged.mem with hwb := [sbLine 1 9] } }
       s.clocked = true ∧ s.mem.hwb[0]? = some (sbLine 1 9) ∧ s.mem.hwb.length < 256) := by
  refine ⟨⟨?_, ?_, ?_, ?_⟩, ⟨?_, ?_, fun b hb => ?_⟩, ⟨rfl, fun i h => ?_, by decide, by decide⟩, by decide⟩
  · simp only [vaIssues, Issues]
    decide +kernel
  · simp only [vaIssues, Issues]
    decide +kernel
  · simp only [vaIssues, Issues]
    decide +kernel
  · simp only [vaIssues, Issues]
    decide +kernel
  · decide
  · decide +kernel
  · obtain ⟨i, -, rfl⟩ := List.mem_map.mp hb
    refine ⟨by simp [sbLine], by simp [sbLine]⟩
  · have : i = 0 ∨ i = 1 ∨ i = 2 ∨ i = 3 ∨ i = 4 := by omega
    rcases this with rfl | rfl | rfl | rfl | rfl <;> exact ⟨_, rfl, rfl⟩

/-- An outstanding load of both lanes of vaGroup at pages of entry 1. -/
def loadRec : LoadRec :=
  { id := 5, owner := ⟨0, 0, 0⟩, ctx := 0, key := 0, bytes := 4, signed := false, dst := 4, alloc := true
    lanes := [{ lane := 0, va := 0x1010, typ := 0, pa := 0x4010 }, { lane := 1, va := 0x1014, typ := 0, pa := 0x4014 }], fault := none, insn := 0, pc := 128 }

/-- The same as an ATOM ADD of 2, and with a lane of a poisoned line. -/
def atomRec : LoadRec := { loadRec with lanes := loadRec.lanes.map fun x => { x with atom := some ⟨0, 2, 0⟩ } }

/-- Tile 0 with an outstanding load, the link up, and line 0x4000 poisoned where `bad`. -/
def loadState (r : LoadRec) (bad : Bool) : State :=
  { paged with
    tiles := { blocks := [block], groups := [vaGroup], loads := [r] } :: List.replicate 143 {}, hst := { paged.hst with up := true }
    mem := if bad then paged.mem.poisonLine (0x4000 / 128) else paged.mem }

theorem witness_LoadsGoOutAndReturn :
    (vaIssues vaGroup (fm 0 2 0) 0x73 .load (some ([0, 1], none)) ∧ vaIssues vaGroup fx 0x76 .gather (some ([0, 1], none))
      ∧ vaIssues (vaGroupAt 0x1010 0x2000) fx 0x76 .gather none ∧ vaIssues vaGroup (fm 2 2 9) 0x75 (.atomic 9) (some ([0, 1], none)))
    ∧ (∀ bad : Bool, let s := loadState loadRec bad
       let r := (s.pcTake (some 5)).lanesReturn loadRec [] [] loadRec.lanes
       s.clocked = true ∧ s.load? 5 = some loadRec ∧ loadRec.owner.slot < 64
         ∧ (((s.tile 0).loads.takeWhile (·.id != 5)).any (·.meets loadRec)) = false ∧ s.pcHeld (some 5) = false
         ∧ s.hst.up = true ∧ loadRec.fault = none ∧ loadRec.isAtomic = false ∧ s.hostWants loadRec = [] ∧ s.hostMissing loadRec [] = false
         ∧ (r.2.2.isNone = !bad) ∧ 0 < r.1.tiles.length ∧ (r.1.tile 0).group? 0 = some vaGroup)
    ∧ (let s := loadState atomRec false
       let a := (s.pcTake (some 5)).atomRun atomRec [] false [] atomRec.lanes
       s.load? 5 = some atomRec ∧ atomRec.isAtomic = true ∧ a.rest = [] ∧ a.bad = none ∧ a.vals.map (·.1) = [0, 1]
         ∧ (a.s.tile 0).group? 0 = some vaGroup)
    ∧ (let key := 0
       let good : List (Nat × Nat × Nat × Nat) := [(0, 0x1010, 1, 0x4010)]
       ((good.filter fun x => x.2.2.1 == 1 && !((vaThr vaGroup 0).tile 0).nc.any (·.holds true key (x.2.2.2 / 128))).map (·.2.2.2 / 128)).eraseDups.length
         ≤ (vaThr vaGroup 0).tagsFree) := by
  refine ⟨⟨?_, ?_, ?_, ?_⟩, by decide +kernel, by decide +kernel, by decide +kernel⟩ <;> (simp only [vaIssues, Issues]; decide +kernel)

/-- Tile 0 with the block and one group, nothing issued. -/
def still (g : Group) : State := { up with tiles := { blocks := [block], groups := [g] } :: List.replicate 143 {} }

/-- A fence of both lanes that has, or has not, asked its one PCIe destination. -/
def fencing (sc : Nat) (dests : List Nat) (asked : Option Nat) : Group :=
  { group with lanes := [some { lane 128 with wait := .fence sc false 0 asked, pcieDests := dests }, some { lane 128 with wait := .fence sc false 0 asked }] }

theorem witness_FencesAndBarriers :
    issues group (encSpc 0x78 (fs 0 2)) ∧ issues group (encSpc 0x85 (fs 0 1))
    ∧ (∀ sc < 4, ∀ x ∈ [([], none, false), ([0x80], none, true), ([0x80], some 9, true), ([0x80], none, false)],
       let s := { still (fencing sc x.1 x.2.1) with hst := { up.hst with up := x.2.2 } }
       s.clocked = true ∧ ((s.fence? 0 false 0).map fun w => (w.scope, w.dests, w.asked)) = some (sc, x.1, x.2.1) ∧ s.live 0 = true
         ∧ ((s.fence? 0 false 0).map s.fenceReady) = some true ∧ x.1.length ≤ s.tagsFree)
    ∧ (let c : Tcu := { state := .waitFence 3 0 none, launch := 7 }
       let s := { up with tiles := { tcus := c :: List.replicate 3 {}, pcieDests := [(0, 0x80)] } :: List.replicate 143 {} }
       ((s.fence? 0 true 0).map fun w => (w.scope, w.dests, w.asked)) = some (3, [0x80], none) ∧ ((s.fence? 0 true 0).map s.fenceReady) = some true)
    ∧ (let s := still (waiting (.barrier 1 7))
       s.clocked = true ∧ s.barrierScope 0 3 1 = [(0, waiting (.barrier 1 7))]
         ∧ (∀ u, ((s.tile u).groups.map (·.slot)).Nodup)
         ∧ ∀ x ∈ s.barrierScope 0 3 1, ∀ l, some l ∈ x.2.lanes → l.wait = .barrier 1 7 ∨ l.wait = .exited) := by
  simp only [issues, Issues]
  refine ⟨by decide, by decide, by decide +kernel, by decide +kernel, rfl, rfl, fun u => ?_, ?_⟩
  · rcases u with _ | u
    · decide
    · have : (still (waiting (.barrier 1 7))).tile (u + 1) = (List.replicate 143 ({} : Tile)).getD u {} := rfl
      rw [this, List.getD_eq_getElem?_getD, List.getElem?_replicate]
      split <;> exact List.nodup_nil
  · intro x hx l hl
    have hx : x ∈ [((0 : Nat), waiting (.barrier 1 7))] := hx
    simp only [List.mem_singleton] at hx
    subst hx
    have hl : some l ∈ [some { lane 128 with wait := .barrier 1 7 }, some { lane 128 with wait := LaneWait.barrier 1 7 }] := hl
    simp only [List.mem_cons, Option.some.injEq, List.not_mem_nil, or_false, or_self] at hl
    exact .inl (by rw [hl])

/-- The same block's second group, whose thread waits for its hits. -/
def other : Group := { group with slot := 1, idx := 1, lanes := [some { lane 128 with wait := .hits }] }

theorem witness_ThreadsExit :
    (let w := encBrn 0x84 (fb 0 0)
     let s := { up with tiles := { tileOf group w with groups := [group, other] } :: List.replicate 143 {} }
     Issues s 0 w (tcOf group w) ∧ (∃ g ∈ (s.tile 0).groups, g.slot ≠ 0 ∧ g.bslot = 3 ∧ g.done = false) ∧ block.exited = false)
    ∧ (let w := encBrn 0x84 (fb 0 0)
       issues group w ∧ group.ringRays = 0 ∧ block.tcu ≠ none ∧ (((thr group w).tile 0).groups.map (·.slot)).Nodup
         ∧ (∀ g ∈ ((thr group w).tile 0).groups, g.bslot = 3 → g = group) ∧ (tcOf group w).act = [0, 1] ∧ group.lanes.length = 2)
    ∧ (let s := { up with tiles := { blocks := [block], groups := [group, other] } :: List.replicate 143 {} }
       s.clocked = true ∧ (s.tile 0).group? 1 = some other ∧ other.ringRays = 0 ∧ other.lane? 0 = some { lane 128 with wait := .hits }
         ∧ ∃ g ∈ (s.tile 0).groups, g.slot ≠ 1 ∧ g.bslot = 3 ∧ g.done = false) := by
  simp only [issues, Issues]
  decide

theorem witness_EventsAndPhaseMarks :
    (∀ w ∈ [encSpc 0x90 (fs 0 31), encSpc 0x92 (fs 0 (47 * 2 ^ 16)), encSpc 0x91 (fs 1 (31 * 2 ^ 16 + 5)), encSpc 0xA2 (fs 0 0x17)],
      issues group w) ∧ bitAt 31 8 = false
    ∧ (let s := still (waiting (.evwait 3 1 (some 500) 6))
       s.clocked = true ∧ (s.tile 0).group? 0 = some (waiting (.evwait 3 1 (some 500) 6)) ∧ (s.tile 0).block? 3 = some block
         ∧ s.live 0 = true ∧ ¬(0 ≤ (s.eventCounter block 3 - 1).toInt) ∧ 0 ≤ (s.eventCounter block 3 - 0).toInt) := by
  simp only [issues, Issues]
  refine ⟨by decide, rfl, rfl, rfl, rfl, rfl, by decide, by decide⟩

/-! ## Rays -/

/-- A descriptor that meets every rule: TREE at 0x1000, hit-ring return to the ring at OFFSET 128, EVENT 31. -/
def traceDesc : List Byte := toLe 8 0x1000 ++ toLe 3 5 ++ toLe 1 7 ++ toLe 1 7 ++ toLe 1 0 ++ toLe 2 0 ++ toLe 4 128 ++ toLe 1 31 ++ toLe 43 0

/-- The block's local memory with the descriptor at OFFSET 64 and a ring of 4 places at OFFSET 128. -/
def ringMem : Mem := Mem.putAll (some 0) (Mem.putAll (some 0) [] 0x8040 traceDesc) 0x8080 (toLe 8 0 ++ toLe 1 2)

/-- The word has issued on a tile with that local memory. -/
def rayThr (w : Nat) : State := { up with tiles := { tileOf group w with localMem := ringMem } :: List.replicate 143 {} }

theorem witness_TraceRaysReachTheSorter :
    (let w := encSpc 0xA0 (fs 16 (1 * 2 ^ 15))
     let s := rayThr w
     Issues s 0 w (tcOf group w) ∧ (tcOf group w).act = [0, 1] ∧ traceBad (s.localRead 0 0x8040 64) false = false
       ∧ (parseTrace (s.localRead 0 0x8040 64)).ret = 0 ∧ s.ringSize 0 block 128 = some 2 ∧ quadrant 143 < s.srt.units.length)
    ∧ issues group (encSpc 0xA1 (fs 0 0)) := by
  simp only [issues, Issues]
  decide +kernel

def ray (d : TraceDesc) : Ray :=
  { id := 0, ctx := 0, tile := 0, launch := 7, bslot := 3, gslot := 0, gid := 0, cookie := 9, org := [0, 0, 0], tmin := 0
    dir := [0x3F800000, 0, 0], tmax := 0x3F800000, d := d, deadline := none, unit := 0 }

def ringDesc : TraceDesc := parseTrace traceDesc
def dispDesc : TraceDesc := { ringDesc with ret := 1, ring := 0, event := 0, dispatch := 0x1040 }

/-- The sorter of quadrant 0 as given, time 500. -/
def sorted (x : Sorter) : State := { rayThr 0 with now := 500, srt := { up.srt with units := x :: List.replicate 3 {} } }

def held : Held := ⟨[ray ringDesc], [0], false, 0⟩
/-- A ready image of the ray's tree with homes 3 and 9. -/
def sortImage : Image_ := { id := 5, part := 0, slot := 0, ctx := 0, root := 0x1000, homes := [9, 3], budget := 1, entries := [] }
def imageBid : BinId := { up.binId (ray ringDesc) with home := none }
def rayBin : RayBin := { num := 1023, bid := up.binId (ray ringDesc), rays := [ray ringDesc], since := 0 }

theorem witness_SortersAdmitBinAndSendRays :
    (let s := sorted { held := [held] }
     s.clocked = true ∧ 3 < s.srt.units.length ∧ (s.unit 0).held = [held] ∧ (∀ x ∈ held.rays, s.live x.ctx = true)
       ∧ (s.at 0).admitFrom 0 held false = some false)
    ∧ (let s := sorted { bins := [rayBin] }
       (s.unit 0).bins.find? (·.num == 1023) = some rayBin ∧ (s.binTo 0 0).t ≤ (s.at 500).now - rayBin.since)
    ∧ (let s := { sorted { flush := [⟨imageBid, rayBin.rays, false⟩] } with arm := { up.arm with images := [sortImage] } }
       (s.unit 0).flush = [⟨imageBid, rayBin.rays, false⟩] ∧ imageBid.home = none ∧ s.live imageBid.ctx = true
         ∧ s.imageFor imageBid.ctx imageBid.tree = some sortImage ∧ 3 ∈ sortImage.homes ∧ s.homeUsed 3 + rayBin.rays.length ≤ 1024
         ∧ ∀ x ∈ sortImage.homes, s.homeUsed 3 < s.homeUsed x ∨ (s.homeUsed 3 = s.homeUsed x ∧ 3 ≤ x))
    ∧ (let s := sorted { flush := [⟨rayBin.bid, rayBin.rays, false⟩] }
       (s.unit 0).flush = [⟨rayBin.bid, rayBin.rays, false⟩] ∧ rayBin.bid.home = some 0 ∧ s.live rayBin.bid.ctx = true ∧ rayBin.rays ≠ []
         ∧ s.homeUsed 0 + rayBin.rays.length ≤ 1024 ∧ ∀ r ∈ rayBin.rays, s.rayExpired r = false)
    ∧ 31 < (up.unit 0).tos.length ∧ max 200 ((up.srtPart 31).minTo * 10) ≤ min 2000 ((up.srtPart 31).maxTo * 10) := by
  decide

def hit (d : TraceDesc) : Hit := (ray d).missRec 2
def hitBin (n : Nat) : HitBin :=
  { num := 5, ctx := 0, material := 0xFFFF, dest := (ray ringDesc).dest, hits := List.replicate n (hit ringDesc), since := 0 }
def ringPacket (tried : Bool) : HitPacket := { ctx := 0, dest := .ring 0 3 7 128, hits := [hit ringDesc], tried := tried }

theorem witness_HitsAreBinnedAndDelivered :
    (∀ n ∈ [30, 31], let s := { sorted { hitBins := [hitBin n] } with arm := { up.arm with hits := [hit ringDesc] } }
      s.clocked = true ∧ s.arm.hits[0]? = some (hit ringDesc) ∧ s.live 0 = true ∧ (hit ringDesc).ray.unit = 0
        ∧ ((s.unit 0).hitBins.find? fun b => b.ctx == 0 && b.material == 0xFFFF && b.dest == (ray ringDesc).dest) = some (hitBin n)
        ∧ (n + 1 < s.hitFull (hitBin n).dest ↔ n = 30) ∧ (s.binTo 0 0).t ≤ max s.now 500 - (hitBin n).since)
    ∧ (∀ tried : Bool, let s := sorted { hitq := [ringPacket tried] }
        (tried = false → s.nextHit 0 = some (ringPacket tried) ∧ (ringPacket tried).isRing = true) ∧ (tried = true → s.fullRings 0 = [ringPacket tried])
          ∧ ((s.ringWrite 0 (ringPacket tried)).unit 0).hitq.contains (ringPacket tried) = false
          ∧ ((s.tile 0).blocks.find? fun b => b.bslot == 3 && b.launch == 7 && b.ctx == 0) = some block ∧ Mem.wf (some 0) (s.tile 0).localMem
          ∧ (ringPacket tried).hits.length ≤ 2 ^ leNat (s.localRead 0 (0x8080 + 8) 1) ∧ (ringPacket tried).hits ≠ []) := by
  decide +kernel

def dispPacket : HitPacket := { ctx := 0, dest := .dispatch 7 0x1040, hits := [hit dispDesc] }

/-- A kernel header at VA 0x1040: ENTRY 64, 8 threads, 32 registers. -/
def dispState : State :=
  { paged with
    cm := { paged.cm with ctxs := paged.cm.ctxs.modify 0 fun c => { c with tiles := 2 } }
    mem := paged.mem.writeHbm 0 (0x4040 / 128) (cellsAt 0x4040 (toLe 8 64 ++ toLe 2 8 ++ toLe 1 4 ++ toLe 1 0 ++ toLe 4 0 ++ toLe 16 0))
    srt := { up.srt with
      units := { hitq := [dispPacket] } :: { held := [held] } :: List.replicate 2 {}
      parts := { since := some 0 } :: List.replicate 31 {} } }

/-- The header of dispState, with a byte of its reserved fields set where `bad`. -/
def dispHeader (bad : Bool) : List Byte := toLe 8 64 ++ toLe 2 8 ++ toLe 1 4 ++ toLe 1 0 ++ toLe 4 0 ++ toLe 16 (b2n bad)

theorem witness_DispatchAndOverloadOfRays :
    (∀ x ∈ [(false, true), (false, false), (true, true)],
       let s0 := { dispState with mem := dispState.mem.writeHbm 0 (0x4040 / 128) (cellsAt 0x4040 (dispHeader x.1)) }
       let s := if x.2 then s0 else s0.updTile 1 fun t => { t with blocks := [{ block with size := 327680, regUnits := 256 }] }
       let y := s.readVa (.armature 48) 0 [] .load dispPacket.deadline 2 0x1040 32
       s.clocked = true ∧ s.nextHit 0 = some dispPacket ∧ dispPacket.dest = .dispatch 7 0x1040 ∧ y.2.toOption = some (dispHeader x.1)
         ∧ dispatchBad (dispHeader x.1) (s.launchWidth 7) = x.1
         ∧ (let w : WaitBlock :=
              { launch := 7, ctx := 0, tcu := none, hdr := parseKHdr (dispHeader x.1), start := true, since := y.1.now, arrival := y.1.cm.nextId
                blockId := 0xFFFFFFFF
                disp := some { unit := 0, deadline := dispPacket.deadline, hits := (hitsByAdmission dispPacket.hits).map fun h => (h.ray.id, h.bytes) } }
            let s2 := y.1.fresh.2
            let tiles := s2.dispatchTiles 0 0 (((s2.unit 0).last.find? (·.1 == 7)).map (·.2))
            tiles = [1] ∧ (x.1 = true ∨ (s2.placeable 1 w).isSome = x.2)))
    ∧ (let isOver (s : State) (p : Nat) : Bool := s.srt.units.any fun u => u.held.any fun h => h.rays.any fun r => (s.ctx r.ctx).part == p
       31 < dispState.srt.parts.length ∧ isOver dispState 31 = false ∧ isOver dispState 0 = true ∧ (dispState.srtPart 0).since = some 0
         ∧ 10000000 ≤ max dispState.now 10000000 - 0 ∧ (dispState.srtPart 0).raised = false) := by
  decide +kernel

/-! ## Streams and the Chisel -/

/-- Stream 7 of the block: LOAD, 2 slots of 128 bytes, one slot produced. -/
def stream : Stream :=
  { num := 7, id := 9, ctx := 0, tile := 0, tcu := 0, bslot := 3, kind := 0, mode := 0, slots := 2, ahead := 0, ring := 0x8100, slotBytes := 128
    base := 0, rowBytes := 128, rowPitch := 128, stride := 128, count := 4, tag := 0, maxLines := 1, rateNs := 0, partner := 0, produced := 1 }

/-- The word has issued with these streams open. -/
def strThr (g : Group) (w : Nat) (l : List Stream) : State := { thr g w with str := { up.str with streams := l } }

def spent : Stream := { stream with acquired := 1 }
def isOver : Stream := { stream with acquired := 1, ended := true }
def acqGroup : Group := { group with acquired := [(9, 0)] }
def sacqGroup : Group := waiting (.sacq 7 4)
def waited : Stream := { stream with waiters := [(0, [0, 1])] }

theorem witness_SlotsAreAcquiredAndReleased :
    (∀ x ∈ [stream, spent, isOver], let w := encSpc 0xB0 (fs 0 7)
      let s := strThr group w [x]
      Issues s 0 w (tcOf group w) ∧ (tcOf group w).act ≠ [] ∧ s.boundStream 0 block 7 = some x)
    ∧ (stream.canAcquire = true ∧ stream.waiters = []) ∧ spent.canAcquire = false ∧ isOver.acquired = isOver.produced
    ∧ (let w := encSpc 0xB1 (fs 0 7)
       let s := strThr acqGroup w [spent]
       Issues s 0 w (tcOf acqGroup w) ∧ (tcOf acqGroup w).act ≠ [] ∧ s.boundStream 0 block 7 = some spent
         ∧ acqGroup.acquired.find? (·.1 == spent.id) = some (9, 0) ∧ spent.inbound = true ∧ 0 = spent.consumed)
    ∧ (let s := { still sacqGroup with str := { up.str with streams := [waited] } }
       s.clocked = true ∧ (s.tile 0).group? 0 = some sacqGroup ∧ (s.tile 0).block? 3 = some block ∧ s.live 0 = true ∧ sacqGroup.sacqNums = [7]
         ∧ s.boundStream 0 block 7 = some waited ∧ waited.waiters = [(0, [0, 1])] ∧ waited.ended = false ∧ waited.canAcquire = true) := by
  simp only [Issues]
  decide +kernel

/-- A cycle of two streams, the first with a token of its own where `token`. -/
def cycleOf (token : Bool) : List Stream := [{ stream with token := token }, { stream with num := 8, id := 12, token := token }]

theorem witness_WaitCyclesAndStreamRanges :
    up.clocked = true ∧ ((up.at 5).str.streams = [] ∧ ∀ n, (up.at 5).stuck n = false)
    ∧ (∀ token : Bool, let e : Stream := { stream with token := token }
        let y : Stream := { stream with num := 8, id := 12, token := token }
        cycleOf token = [e, y] ∧ e.id < y.id ∧ up.freeTokens e.tile ≠ 0)
    ∧ (let clash (c base count : Nat) : Bool := (List.range 64).any fun o =>
         let r := up.str.ranges.getD o (0, 0)
         o != c && count != 0 && r.2 != 0 && base < r.1 + r.2 && r.1 < base + count
       up.str.ranges.length = 64 ∧ (up.ctx 63).state = .free ∧ 4095 + 1 ≤ 4096 ∧ clash 63 4095 1 = false ∧ (up.ctx 0).state ≠ .free) := by
  refine ⟨rfl, ⟨rfl, fun _ => rfl⟩, by decide +kernel, by decide +kernel⟩

/-- A descriptor of INT8 operands: M 1, N 1, K 64, B local at OFFSET 1024, D at OFFSET 8192, INT32 output. -/
def chopDesc (bsrc bOff : Nat) (stream : Nat) : List Byte :=
  [5, 5, 0, 0] ++ toLe 2 1 ++ toLe 2 1 ++ toLe 4 64 ++ toLe 1 bsrc ++ toLe 1 0 ++ toLe 2 0 ++ toLe 4 512 ++ toLe 4 bOff ++ toLe 4 0
    ++ toLe 4 8192 ++ toLe 4 64 ++ toLe 4 0 ++ toLe 4 16 ++ toLe 3 0 ++ toLe 1 0 ++ toLe 4 0x3F800000 ++ toLe 2 stream ++ toLe 10 0

def bigBlock : Block := { block with size := 65536 }
def chopTc (w : Nat) : TC := { tcOf group w with b := bigBlock }
def chopThr (d : List Byte) (w : Nat) : State :=
  { up with
    tiles := { tileOf group w with blocks := [bigBlock], localMem := Mem.putAll (some 0) [] 0x8040 d } :: List.replicate 143 {}
    str := { up.str with streams := [{ stream with slotBytes := 2048 }] } }

/-- An operation of the group. -/
def chopOp (d : List Byte) (stage : OpStage) : ChiselOp :=
  { id := 4, ctx := 0, launch := 7, bslot := 3, base := 0x8000, group := 0, gid := 0, desc := 0x8040, d := parseChop d, deadline := none, stage := stage }

def opState (o : ChiselOp) : State :=
  { up with tiles := { blocks := [bigBlock], groups := [group], chs := { ops := [o] } } :: List.replicate 143 {} }

theorem witness_ChiselOperationsQueueAndEnd :
    (∀ x ∈ [(0, 1024, 0), (1, 0, 7)], let w := encSpc 0xB8 (fs 0 (1 * 2 ^ 15))
      let s := chopThr (chopDesc x.1 x.2.1 x.2.2) w
      let raw := s.localRead 0 0x8040 64
      Issues s 0 w (chopTc w) ∧ (chopTc w).act ≠ [] ∧ 64 + 64 ≤ bigBlock.size ∧ chopBad raw (0 % 12) = false
        ∧ (parseChop raw).outside bigBlock.size = none ∧ (parseChop raw).bsrc = x.1
        ∧ (s.boundStream 0 bigBlock 7).map (·.slotBytes % 2048) = some 0 ∧ Mem.wf (some 0) (s.tile 0).localMem)
    ∧ issues group (encSpc 0xB9 (fs 0 0))
    ∧ ((still group).clocked = true ∧ 143 < (still group).tiles.length ∧ ((still group).tile 0).groupOps group = [])
    ∧ (let o := chopOp (chopDesc 0 1024 0) .queued
       let s := opState o
       let c := (s.tile 0).chs
       c.run = none ∧ (∀ x ∈ c.ops, x.running = false) ∧ (s.nextBatch 0).any (s.batchReady 0) = false ∧ c.ops = [o] ∧ o.stage = .queued
         ∧ s.live o.ctx = true ∧ o.d.bsrc = 0)
    ∧ (let o := chopOp (chopDesc 0 1024 0) .drained
       let s := opState o
       (s.tile 0).chs.ops.find? (·.id == o.id) = some o ∧ s.live o.ctx = true ∧ Mem.wf (some 0) (s.tile 0).localMem ∧ o.stage = .drained
         ∧ o.d.fwd = 0)
    ∧ (let o := chopOp (chopDesc 2 0 0) .compute
       (opState o).live o.ctx = true ∧ o.d.bsrc ≥ 2 ∧ o.received < o.d.slices ∧ o.progress + 100000 ≤ max (opState o).now 100000
         ∧ o.ringSlot = none) := by
  simp only [issues, Issues]
  refine ⟨by decide +kernel, by decide +kernel, by decide +kernel, by decide +kernel, by decide +kernel, by decide +kernel⟩

/-- Tiles 0 and 1: an operation that forwards towards +x, with a slice to go, and one that takes B from −x. -/
def relayState : State :=
  let send : ChiselOp := { chopOp (chopDesc 0 1024 0) .drained with d := { parseChop (chopDesc 0 1024 0) with fwd := 1 } }
  { up with
    tiles := { chs := { ops := [send], outBuf := [⟨4, true, [1]⟩] } } :: { chs := { ops := [{ chopOp (chopDesc 2 0 0) .queued with id := 6 }] } }
      :: List.replicate 142 {} }

/-- A network block at VA 0x1000: one layer of 3 inputs and 1 output in BF16. -/
def netBlock : List Byte := [1, 0, 3, 0, 1, 0, 0, 0, 0, 0, 0, 0] ++ toLe 4 128 ++ toLe 112 0
def batch : Batch := { armature := 0, req := 2, ctx := 0, deadline := none, va := 0x1000, points := [[0, 0, 0]] }
def netState (c : Chisel) : State :=
  { paged with
    mem := paged.mem.writeHbm 0 (0x4000 / 128) (cellsAt 0x4000 netBlock), tiles := { chs := c } :: List.replicate 143 {}
    bus := { up.bus with flight := [⟨0, batch⟩] } }

theorem witness_RelaySlicesAndNeuralBatches :
    (let s := relayState
     let up' := (s.tile 0).chs.ops.headD default
     s.clocked = true ∧ 1 < s.tiles.length ∧ upstream 1 true = some 0 ∧ (s.tile 0).chs.outBuf.find? (·.plus == true) = some ⟨4, true, [1]⟩
       ∧ (s.tile 0).chs.ops.find? (·.id == 4) = some up' ∧ (((s.tile 1).relayMatch up' true).map (·.id)) = some 6 ∧ s.live 0 = true
       ∧ ((s.tile 1).chs.inBuf.filter (·.plus == true)).length < 4)
    ∧ (∀ n ∈ [15, 16], let s := netState { batches := List.replicate n batch }
        s.bus.flight[0]? = some ⟨0, batch⟩ ∧ s.live batch.ctx = true ∧ ((s.tile 0).chs.batches.length < 16 ↔ n = 15))
    ∧ (let s := netState { batches := [batch] }
       let x := (s.chsCount 0 9).readDevice (.tile 0) 0 0x1000 64 batch.deadline
       let y := x.1.readDevice (.tile 0) 0 0x1000 128 batch.deadline
       (s.tile 0).chs.batches.find? (fun b => s.live b.ctx && !s.batchReady 0 b) = some batch
         ∧ x.2.toOption = some (netBlock.take 64) ∧ netCheck (netBlock.take 64) = none ∧ y.2.toOption = some netBlock)
    ∧ (let w : NwcBlock := ⟨0, 0x1000, netBlock⟩
       let s := netState { batches := [batch], nwc := [w] }
       let c := (s.tile 0).chs
       c.run = none ∧ s.nextBatch 0 = some batch ∧ s.live 0 = true ∧ c.ops.find? ChiselOp.running = none
         ∧ (c.nwc.find? fun w => w.part == (s.ctx 0).part && w.va == 0x1000) = some w)
    ∧ (let r : RunBatch := { batch := batch, block := netBlock, phases := [] }
       ((netState { run := some r }).tile 0).chs.run = some r ∧ r.phases = [] ∧ (netState { run := some r }).live 0 = true) := by
  decide +kernel

/-! ## The TCU -/

def image : Image :=
  { base := 0x1000, khdrs := [some hdr, none, none, none], trapEntry := 256, handlerBase := 0, handlers := [], codeBytes := 1024 }

/-- A slot at offset 64 of a program at VA 0x1000; register n < 16 holds 8 n, register 16 + n 130 + 8 n, register 23 holds 0x1000. -/
def tcu0 : Tcu :=
  { state := .run, launch := 7, entry := some { tile := 0, count := 2, image := image, firstBlock := 5 }, pc := 64
    gl := (List.range 7).map (fun n => BitVec.ofNat 32 (130 + 8 * n)) ++ [0x1000]
    wins := List.replicate 8 ((List.range 16).map fun n => BitVec.ofNat 32 (8 * n)), tr := (List.range 16).map fun n => BitVec.ofNat 32 (8 * n)
    wocc := 2 }

/-- Tile 0 with the slot's word in its instruction near cache and the block. -/
def tcuState (c : Tcu) (w : Nat) : State :=
  { paged with
    tiles := { tcus := c :: List.replicate 3 {}, blocks := [block]
               ic := [{ line := 0x4040 / 128, part := 0, way := 0, data := List.replicate 64 0 ++ toLe 4 w ++ List.replicate 60 0 }] }
      :: List.replicate 143 {} }

def tcuIssues (c : Tcu) (w : Nat) : Prop := TcuIssues (tcuState c w) 0 0 w

def ta : TaF := { dst := 23, sa := 1, sb := 2, rsv := 0 }
def ti (sa imm : Nat) : TiF := { dst := 15, sa := sa, imm := imm }
def ts (dst sa sub : Nat) : TsF := { dst := dst, sa := sa, sub := sub }
def tb (disp : Nat) : TbF := { sa := 1, sb := 2, disp := disp }

theorem witness_TcuArithmeticBranchesAndJumps :
    (∀ op ∈ [0x01, 0x02, 0x03, 0x04, 0x05, 0x06, 0x07, 0x08, 0x09, 0x0A, 0x0B], tcuIssues tcu0 (encTa op ta))
    ∧ (∀ op ∈ [0x10, 0x11, 0x12, 0x13, 0x15, 0x16, 0x17], tcuIssues tcu0 (encTi op (ti 1 31))) ∧ tcuIssues tcu0 (encTi 0x14 (ti 0 0xFFFF))
    ∧ (∀ op ∈ [0x20, 0x21, 0x22, 0x23, 0x24, 0x25], tcuIssues tcu0 (encTb op (tb 0)) ∧ tcuIssues tcu0 (encTb op (tb 0xFFFF)))
    ∧ tcuIssues tcu0 (encTj 0x26 ⟨0x3FFFFFF⟩) ∧ (∀ r ∈ [7, 8, 9, 16], tcuIssues tcu0 (encTa 0x27 { dst := 0, sa := r, sb := 0, rsv := 0 }))
    ∧ (tcu0.reg 7).toNat = 56 ∧ (tcu0.reg 8).toNat = 64 ∧ (tcu0.reg 16).toNat % 4 ≠ 0 ∧ image.codeBytes = 1024 ∧ (0x3FFFFFF : Nat) < 2 ^ 26 := by
  simp only [tcuIssues, TcuIssues]
  decide +kernel

/-- Register pair 0, 1 holds VA 0x1010. -/
def tcuV : Tcu := { tcu0 with wins := tcu0.wins.modify 0 fun w => (w.set 0 0x1010).set 1 0 }

theorem witness_TcuMemoryAccesses :
    (∀ op ∈ [0x18, 0x19], tcuIssues tcu0 (encTi op (ti 0 0)) ∧ tcuIssues tcuV (encTi (op + 2) (ti 0 0xFFF0)))
    ∧ tcuLocal { tcu0 with wins := tcu0.wins.modify 0 (·.set 0 0x8000) } (ti 0 0x3FC) = 0x83FC
    ∧ (let c := { tcu0 with wins := tcu0.wins.modify 0 (·.set 0 0x5F000) }
       let s := tcuState c (encTi 0x18 (ti 0 0x3FC))
       TcuIssues s 0 0 (encTi 0x18 (ti 0 0x3FC)) ∧ tcuLocal c (ti 0 0x3FC) % 4 = 0 ∧ s.tcuReach 0 0 (tcuLocal c (ti 0 0x3FC)) = true
         ∧ Mem.wf (some 0) (s.tile 0).localMem)
    ∧ (∀ x ∈ [(0x1A, Access.load), (0x1B, Access.store)], let w := encTi x.1 (ti 0 0xFFF0)
       let s := tcuState tcuV w
       TcuIssues s 0 0 w ∧ tcuVa tcuV (ti 0 0xFFF0) = 0x1000
         ∧ ((s.tcuCounted 0 0).resolve (.tile 0) 0 0x1000 4 x.2).2.toOption.isSome = true
         ∧ (s.tile 0).sb.length + linesNeeded (s.tile 0).sb (s.keySlot 0) [(0, 0x4000 / 128)] ≤ 64)
    ∧ tcuIssues tcu0 (encTs 0x3B (ts 0 0 3)) := by
  simp only [tcuIssues, TcuIssues]
  decide +kernel

theorem witness_TcuWindowsAndTraps :
    (∀ n ∈ [7, 8], tcuIssues { tcu0 with wocc := n, wsp := 7 } (encTs 0x28 (ts 0 0 0)))
    ∧ (∀ op ∈ [0x29, 0x2B], tcuIssues { tcu0 with wocc := 2 } (encTs op (ts 0 0 0)) ∧ tcuIssues { tcu0 with wocc := 1, wsp := 1 } (encTs op (ts 0 0 0)))
    ∧ (∀ cause ∈ [1, 2, 3, 4], tcuIssues { tcu0 with trap := true, trapCause := cause } (encTs 0x2A (ts 0 0 0)))
    ∧ tcuIssues { tcu0 with trap := true } (encTs 0x3C (ts 15 0 15)) ∧ tcuIssues { tcu0 with trap := true } (encTs 0x3D (ts 0 15 15)) := by
  simp only [tcuIssues, TcuIssues]
  decide +kernel

def msg : Msg := { src := 1, typ := 2, tag := 0, deadline := none, payload := List.replicate 64 0 }

/-- A slot with one message waiting; handlers where `h`. -/
def tcuM (h : Bool) : Tcu :=
  { tcu0 with
    queue := [msg], hen := h
    entry := some { tile := 0, count := 2, image := { image with handlerBase := 512, handlers := List.replicate 16 512 }, firstBlock := 5 } }

def sending : Sending := { msg := msg, dest := 1, first := none, status := none, dst := 4 }

/-- A slot of tile 0 sends to tile 1, whose slot 2 has the launch (where `there`) and n messages. -/
def sendState (c : Tcu) (there : Bool) (n : Nat) : State :=
  { paged with
    tiles := { tcus := c :: List.replicate 3 {} }
      :: { tcus := [{}, {}, { state := .run, launch := if there then 7 else 8, queue := List.replicate n msg }, {}] } :: List.replicate 142 {} }

theorem witness_TcuMessagesAreSentAndReceived :
    (tcuIssues tcu0 (encTs 0x30 (ts 4 1 15)) ∧ ∀ op ∈ [0x31, 0x32], tcuIssues tcu0 (encTs op (ts 4 0 0)) ∧ tcuIssues (tcuM false) (encTs op (ts 4 0 0)))
    ∧ tcu0.msgOrder = [] ∧ (tcuM false).msgOrder.head? = some msg
    ∧ ((tcuM false).dispatch? = none ∧ (tcuM true).dispatch? = some msg ∧ (tcuM true).state = .run ∧ (tcuM true).wocc < 8)
    ∧ (∀ x ∈ [(true, 7), (true, 8), (false, 0)], let s := sendState { tcu0 with state := .waitSend, sending := some sending } x.1 x.2
       s.clocked = true ∧ s.live 0 = true ∧ 0 < (s.tile 0).tcus.length ∧ 1 < s.tiles.length ∧ 2 < (s.tile 1).tcus.length
         ∧ ((List.range 4).find? (fun i => ((s.tile 1).tcu i).state != .free && ((s.tile 1).tcu i).launch == 7)) = (if x.1 then some 2 else none)
         ∧ ((s.tile 1).tcu 2).queue.length = x.2)
    ∧ (max up.now 2000 ≤ 0 + 2000 ∧ 0 + 2000 ≤ max up.now 2000) := by
  simp only [tcuIssues, TcuIssues]
  decide +kernel

/-- A block of the slot. -/
def ownB (started exited : Bool) : Block := { block with tcu := some 0, started := started, exited := exited }

/-- The slot's word next, and the tile's blocks. -/
def ownState (w : Nat) (l : List Block) : State :=
  let s := tcuState { tcu0 with wins := tcu0.wins.modify 0 (·.set 1 3) } w
  { s with tiles := s.tiles.modify 0 fun t => { t with blocks := l } }

theorem witness_TcuBlocksArePlacedStartedAndReported :
    (tcuIssues { tcu0 with placed := 2 } (encTs 0x33 (ts 4 0 4)) ∧ tcuIssues { tcu0 with placed := 1 } (encTs 0x33 (ts 4 0 4))
      ∧ (tcu0.entry.getD default).count = 2 ∧ tcu0.image.khdrs.getD (4 % 4) none = some hdr)
    ∧ (∀ x ∈ [(0x34, 0), (0x35, 0), (0x36, 0), (0x38, 31)], ∀ l ∈ [[], [ownB false false], [ownB true false], [ownB true true]],
        let w := encTs x.1 (ts 4 (if x.1 = 0x35 then 0 else 1) x.2)
        TcuIssues (ownState w l) 0 0 w ∧ (ownState w l).ownBlock 0 0 3 = l.head? ∧ (ownState w l).blockStreams 0 3 = []
          ∧ (ownState w l).toReport 0 0 = (if l = [ownB true true] then l.head? else none) ∧ (ownState w l).unreported 0 0 = !l.isEmpty)
    ∧ (tcuIssues tcu0 (encTs 0x3F (ts 0 0 0)) ∧ (∀ n ∈ [0x14, 0x0E], tcuIssues tcu0 (encTs 0x39 (ts 4 0 n)))
        ∧ ∀ n ∈ [0x07, 0x0D], tcuIssues tcu0 (encTs 0x3A (ts 0 1 n)))
    ∧ (let s := tcuState { tcu0 with state := .waitPlace 4, placedSlot := some 3 } 0
       s.clocked = true ∧ 0 < s.tiles.length ∧ 0 < (s.tile 0).tcus.length ∧ (s.tile 0).block? 3 = some block ∧ s.live 0 = true)
    ∧ (let w : WaitEntry := { launch := 7, ctx := 0, entry := { tile := 0, count := 2, image := image, firstBlock := 5 }, arrival := 1 }
       let s := { paged with tiles := { tcus := [tcu0, {}, {}, {}], waitEntries := [w] } :: List.replicate 143 {} }
       (List.range 4).find? (fun i => ((s.tile 0).tcu i).state == .free) = some 1
         ∧ earliest (fun (w : WaitEntry) => ⟨s.launchDl w.launch, w.arrival, w.ctx⟩) ((s.tile 0).waitEntries.filter fun w => s.live w.ctx) = some w) := by
  simp only [tcuIssues, TcuIssues]
  decide +kernel

/-! ## Issue, fetch and placement -/

/-- A group whose lanes run at VA 0x1040, and the same for a group of width 64. -/
def ready0 : Group := { group with lanes := [some (lane 0x1040), some (lane 0x1040)] }

/-- A tile of paged with the block, groups, and the word in the near cache line of VA 0x1040. -/
def cycleTile (gs : List Group) (w : Nat) : Tile :=
  { blocks := [block], groups := gs
    ic := [{ line := 0x4040 / 128, part := 0, way := 0, data := List.replicate 64 0 ++ toLe 8 w ++ List.replicate 56 0 }] }
def cycleState (t : Tile) : State := { paged with tiles := t :: List.replicate 143 {} }
/-- After the Chisel's and the ray engines' cycle. -/
def cycled (t : Tile) : State := ((cycleState t).chiselCycle 0).engineCycle 0

theorem witness_TileCyclesIssueInOrder :
    (∀ t ∈ [{}, cycleTile [ready0] (encReg 0x03 (fr 1 0 0 0)), { cycleTile [ready0] (encReg 0x03 (fr 1 0 0 0)) with stretched := true },
        cycleTile [waiting (.barrier 1 7)] 0, { cycleTile [ready0] 0 with second := true }],
      (cycleState t).clocked = true ∧ ((cycleState t).tile 0).issued = none ∧ 0 < (cycled t).tiles.length
        ∧ ((cycled t).tile 0).cnt.stall.length = 11)
    ∧ ((cycled (cycleTile [ready0] (encReg 0x03 (fr 1 0 0 0)))).readyGroups 0 []).map (fun x => (x.g.slot, x.c.mask)) = [(0, [0, 1])]
    ∧ ((cycled (cycleTile [waiting (.barrier 1 7)] 0)).readyGroups 0 []).length = 0 ∧ opDefined (bits (encReg 0x03 (fr 1 0 0 0)) 56 8) = true
    ∧ up.endpoint 0 = true ∧ bitAt ((1 : DWord)).toNat 0 = true ∧ 143 < up.tiles.length := by
  decide +kernel

theorem witness_InstructionLinesAreFetched :
    (let s := cycleState { blocks := [block], groups := [ready0] }
     s.clocked = true ∧ (s.running 0 0).map (fun x => (x.1, x.2.1, x.2.2.pc)) = some (ready0, block, 0x1040)
       ∧ s.candWord 0 block { pc := 0x1040, mask := [0, 1], forced := false } = none
       ∧ (s.fetchLine 0 0 0x1040 8 false none none).2.toOption = some () ∧ nextLines 0x1040 0x1100 = true ∧ s.icLine 0 0 0x1100 = none
       ∧ (s.fetchLine 0 0 0x1100 8 true none none).2.toOption = some ())
    ∧ (let g := { ready0 with lanes := [some (lane 0xFFF)] }
       let s := cycleState { blocks := [block], groups := [{ g with lanes := [some (lane 0x1FF8)] }, { g with slot := 1, lanes := [some (lane 128)] }] }
       (s.running 0 1).map (fun x => x.2.2.pc) = some 128 ∧ s.candWord 0 block { pc := 128, mask := [0], forced := false } = none
         ∧ (s.fetchLine 0 0 128 8 false none none).2.toOption = none ∧ ((s.fetchLine 0 0 128 8 false none none).1.fetchLine 0 0 128 8 false none none).2.toOption = none
         ∧ (s.running 0 0).map (fun x => x.2.2.pc) = some 0x1FF8 ∧ nextLines 0x1FF8 0x2000 = true ∧ s.icLine 0 0 0x2000 = none
         ∧ (s.resolve (.tile 0) 0 0x2000 8 .exec).2.toOption = none ∧ (s.fetchLine 0 0 0x2000 8 true none none).2.toOption = none)
    ∧ (let s := { tcuState tcu0 0 with tiles := { tcus := tcu0 :: List.replicate 3 {} } :: List.replicate 143 {} }
       ((s.tile 0).tcu 0).state = .run ∧ s.live 0 = true ∧ s.tcuWord 0 0 = none ∧ (s.fetchLine 0 0 0x1040 4 false (some 0) none).2.toOption = some ()
         ∧ 0 < s.tiles.length ∧ (s.tile 0).blocks = []
         ∧ (match exec (.demandFetch 0 true 0) s with | .next t => (t.tcuWord 0 0).isSome | _ => false) = true)
    ∧ (let s := cycleState (cycleTile [ready0] (encBrn 0x80 (fb 0 0x80)))
       nextLines 0x1040 0x1440 = false ∧ s.decodesBranch 0 0 0x1040 0x1440 = true ∧ s.decodesBranch 0 0 0x1040 0x1540 = false
         ∧ s.icLine 0 0 0x1440 = none ∧ (s.fetchLine 0 0 0x1440 8 true none none).2.toOption = some ()) := by
  decide +kernel

def waitBlock (units : Nat) : WaitBlock :=
  { launch := 7, ctx := 0, tcu := some 0, hdr := { hdr with regs := units }, start := true, since := 0, arrival := 4, blockId := 9 }
def placeState (w : WaitBlock) : State := { up with tiles := { waiting := [w] } :: List.replicate 143 {} }

theorem witness_BlocksArePlacedWhereTheyFit :
    (let w := waitBlock 32
     let s := placeState w
     s.clocked = true ∧ 0 < s.tiles.length ∧ w.hdr.cluster = 0 ∧ (s.queueOrder 0).head? = some w
       ∧ s.lacks 0 w.hdr (s.launchWidth 7) (s.waitOwn w) = none ∧ s.live 0 = true ∧ s.held 0 = false ∧ (s.tile 0).admits w = true
       ∧ (s.tile 0).localFit w.hdr.local_ = some 0 ∧ (s.tile 0).freeBslots.head? = some 0)
    ∧ (let w := waitBlock 16384
       let s := placeState w
       (s.queueOrder 0).head? = some w ∧ s.lacks 0 w.hdr (s.launchWidth 7) (s.waitOwn w) = some 0
         ∧ (∀ x ∈ s.queueOrder 0,
             (s.updTile 0 fun t => { t with cnt := { t.cnt with placeWait := t.cnt.placeWait.modify 0 (· + 1) } }).placeable 0 x = none)
         ∧ (((s.at 100000).queueOrder 0).find? fun w => w.since + 100000 ≤ (s.at 100000).now) = some w) := by
  decide +kernel

/-! ## Queues -/

/-- Queue 0 of partition 0 in host memory, with one command. -/
def q0 : HostQ := { enable := true, tail := 1 }
def queued : State :=
  { paged with
    hst := { up.hst with up := true }
    cm := { paged.cm with queues := q0 :: List.replicate 127 {}, ctxs := paged.cm.ctxs.modify 0 fun c => { c with tiles := 1 } }
    mem := ((paged.mem.writeHbm 0 (0x4000 / 128) (cellsAt 0x4000 (toLe 2 0 ++ toLe 2 1 ++ toLe 4 0 ++ toLe 8 0x1080))).writeHbm 0
      (0x4080 / 128) (cellsAt 0x4080 (toLe 8 0x1100 ++ toLe 24 0 ++ toLe 4 64 ++ toLe 4 0 ++ toLe 4 128 ++ toLe 20 0))).writeHbm 0
      (0x4100 / 128) (cellsAt 0x4100 (toLe 8 64 ++ toLe 2 8 ++ toLe 1 4 ++ toLe 1 0 ++ toLe 4 0 ++ toLe 16 0)) }

/-- The 64 bytes of a command: its opcode, context 0, SEQ 5, its fields. -/
def cmd (op : Nat) (fields : List Byte) : List Byte := (toLe 8 (op + 5 * 2 ^ 32) ++ fields ++ List.replicate 56 0).take 64

/-- The queued state once the read of a command has left for the host. -/
def fetched : State := (queued.fetchCmd 0 []).1

/-- The checks of CmdStarts on the queued state. -/
def starts (op : Nat) (raw : List Byte) : Bool :=
  queued.clocked && queued.boot.powerDown == 0 && q0.waiting != 0 && (queued.part 0).enabled && (queued.fetchCmd 0 raw).2 == some raw
    && (parseCmd raw).opcode == op && !(parseCmd raw).reserved && (fetched.ctx 0).part == 0 && fetched.live 0 && !fetched.held 0

theorem cmdStarts_of (op : Nat) (raw : List Byte) (h : op ≤ 6) (hs : starts op raw = true) (hc : (parseCmd raw).ctx = 0) :
    CmdStarts queued 0 op raw (parseCmd raw) fetched := by
  simp only [starts, Bool.and_eq_true, beq_iff_eq, Bool.not_eq_true', bne_iff_ne] at hs
  obtain ⟨⟨⟨⟨⟨⟨⟨⟨⟨h1, h2⟩, h3⟩, h4⟩, h5⟩, h6⟩, h7⟩, h8⟩, h9⟩, h10⟩ := hs
  refine ⟨h1, h2, by decide, rfl, rfl, h3, h4, ⟨raw, Prod.ext rfl h5, rfl⟩, h6, h, fun _ => rfl, h7, fun _ _ => ?_⟩
  rw [hc]
  exact ⟨h8, h9, h10⟩

def launchCmd : List Byte := cmd 1 (toLe 8 0x1000 ++ toLe 8 0x1000 ++ toLe 3 2 ++ toLe 1 0 ++ toLe 2 1 ++ toLe 1 0 ++ toLe 1 0)

theorem witness_QueueCommandsRunInOrder :
    (∀ x ∈ [(0, cmd 0 []), (1, launchCmd), (2, cmd 2 []), (3, cmd 3 (toLe 8 0x1000)), (4, cmd 4 (toLe 8 0x1000)),
        (5, cmd 5 (toLe 8 0x1000 ++ toLe 8 0x1100 ++ toLe 8 8)), (6, cmd 6 [])],
      starts x.1 x.2 = true ∧ (parseCmd x.2).ctx = 0)
    ∧ 0 < fetched.cm.queues.length ∧ 0 < fetched.cm.ctxs.length ∧ 0 < fetched.cm.parts.length ∧ (∀ g ∈ fetched.cm.staged, g.part ≠ some 0)
    ∧ (let r := fetched.checkLaunch 0 [] launchCmd 8
       (r.2.toOption.map (·.map (·.tile))) = some [0] ∧ r.1.cm.queues = fetched.cm.queues ∧ r.1.cm.ctxs = fetched.cm.ctxs)
    ∧ ((fetched.resolve .host 0 0x1000 8 .load).2.toOption.isSome = true ∧ (fetched.resolve .host 0 0x1000 8 .load).1.cm = fetched.cm)
    ∧ ((fetched.writeVa .host 0 .store 3 0x1000 (toLe 8 0)).2 = none
       ∧ (fetched.writeVa .host 0 .store 3 0x1000 (toLe 8 0)).1.cm.queues = fetched.cm.queues) := by
  decide +kernel

def wait0 : Wait := { id := 3, ctx := 0, queue := 0, seq := 5, addr := 0x1080, value := 0x1100, eq := true }
def copy0 : Copy :=
  { id := 4, ctx := 0, queue := 0, seq := 6, signal := true, irq := false, src := 0x1000, dst := 0x1100, count := 8, tag := 0, deadline := none
    doneAddr := 0x1008, doneValue := 1, vector := 0 }
def launch0 : Launch :=
  { id := 7, ctx := 0, queue := 0, seq := 7, signal := true, irq := false, tag := 0, deadline := none, width := 8, oldest := false, args := 0
    entries := [], doneAddr := 0x1008, doneValue := 1, vector := 0, runLimit := 1, start := 0, blocks := 0 }
def working : State := queued.updCm fun m => { m with waits := [wait0], copies := [copy0], launches := [launch0] }

theorem witness_QueueCommandsComplete :
    (let r := working.readVa .host 0 [] .load none 2 0x1080 8
     working.cm.waits.find? (·.id == 3) = some wait0 ∧ r.2.toOption = some (toLe 8 0x1100) ∧ r.1.cm = working.cm
       ∧ 0 < working.cm.queues.length)
    ∧ (let r := working.copyBytes 0 [] copy0.deadline (8 / 64 + 4) 0x1000 0x1100 8
       let s := r.1.updCm fun m => { m with copies := m.copies.filter (·.id != 4) }
       working.cm.copies.find? (·.id == 4) = some copy0 ∧ working.live 0 = true ∧ r.2 = none
         ∧ (s.writeVa .host 0 .store 3 0x1008 (toLe 8 1)).2 = none)
    ∧ (working.launch? 7 = some launch0 ∧ (working.anyTile fun t => t.sb.any (·.launches.contains 7)) = false
       ∧ (working.mem.hwb.any (·.launches.contains 7)) = false ∧ working.dispatching 7 = false
       ∧ (working.writeVa .host 0 .store 3 0x1008 (toLe 8 1)).2 = none) := by
  decide +kernel

theorem witness_QueueRegistersAndWatchdog :
    (let x := queued.queue 0
     queued.clocked = true ∧ queued.hst.vfFlr.getD 1 false = false ∧ 127 < queued.cm.queues.length ∧ x.part + 1 = 1 ∧ x.enable = true
       ∧ (63 < x.size ∧ x.waiting ≤ (63 + x.size - x.head) % x.size) ∧ ¬64 < x.size ∧ ¬x.waiting ≤ (0 + x.size - x.head) % x.size)
    ∧ queued.pfWrite 0 = true ∧ (bitAt (2 ^ 22) 22 = true ∧ bitAt (2 ^ 22) 23 = false ∧ bitAt (2 ^ 23 + 2 ^ 22) 23 = true)
    ∧ (working.launch? 7 = some launch0 ∧ launch0.start + launch0.runLimit * 1000000 < max working.now 1000001 ∧ working.live 0 = true
       ∧ 0 < working.cm.ctxs.length) := by
  decide +kernel

/-! ## Contexts, changes and registers -/

/-- Context 3 in a state, of the enabled partition 0. -/
def ctxIn (st : CtxState) : State :=
  { up with cm := { up.cm with ctxs := up.cm.ctxs.set 3 { state := st, record := some { info := { code := 1, ctx := 3, unit := 0 }, secondary := 254, time := 0
                                                                                        partition := 0, gen := 0, seq := 0 } } } }
def busyTlb : State := { up with cm := { up.cm with ctxs := up.cm.ctxs.set 63 { state := .ready, tlb := { busy := true } } } }
/-- A slot of context 3 waits at END, so that the context is quiet since the start. -/
def quiet3 : State :=
  { up with
    cm := { up.cm with ctxs := up.cm.ctxs.set 3 { state := .running, quietSince := some 0 } }
    tiles := { tcus := { state := .waitEnd, ctx := 3 } :: List.replicate 3 {} } :: List.replicate 143 {} }

theorem witness_ContextsAreMadeKilledAndFreed :
    (up.pfWrite 0 = true ∧ 63 < up.cm.ctxs.length ∧ (up.ctx 63).state = .free ∧ (up.part (up.ctx 63).part).enabled = true
      ∧ bits 1 0 3 = 1 ∧ bits 2 0 3 = 2 ∧ bits 4 0 3 = 4 ∧ bitAt (2 ^ 63) 63 = true ∧ (up.ctx 63).tlb.busy = false)
    ∧ (∀ st ∈ [CtxState.ready, .running, .killing, .dead], ((ctxIn st).ctx 3).state = st ∧ (ctxIn st).pfWrite 0 = true)
    ∧ ((up.ctx 0).state.live = true ∧ up.serving = true ∧ up.cmdCheck 0x3100 1 0 = 0 ∧ up.mayCtx 1 0 = true ∧ up.endpoint 1 = true ∧ up.powered = true)
    ∧ (∀ st ∈ [CtxState.running, .killing, .dead], let s := (ctxIn st).raise { code := 4, ctx := 3, unit := 0 }
        s.clocked = true ∧ s.cm.faultQ = [{ code := 4, ctx := 3, unit := 0 }] ∧ (s.ctx 3).state = st ∧ FaultInfo.own { code := 4, ctx := 3, unit := 0 } = true
          ∧ (s.ctx 3).record.isSome = true)
    ∧ (ctxIn .killing).storesLeft 3 = false
    ∧ ((quiet3.at 100000).quiet 3 = true ∧ (quiet3.ctx 3).quietSince = some 0 ∧ 0 + 100000 ≤ max quiet3.now 100000
        ∧ (up.at 0).quiet 0 = false)
    ∧ (busyTlb.clocked = true ∧ (busyTlb.ctx 63).tlb.busy = true ∧ busyTlb.buffered 63 = false
        ∧ (busyTlb.tiles.all fun u => u.loads.isEmpty && u.port.lines.isEmpty) = true) := by
  decide +kernel

/-- A change of context 2's page table (context 2 is DEAD, its partition's others are idle). -/
def rootSetting : Setting := ⟨.ctxPtroot 2, 0x2000⟩
def drain2 : Drain := { act := .settings [rootSetting] false, parts := [0], all := false, time := 0 }

theorem witness_StagedAndDrainedChangesApply :
    (let g : Staged := { settings := [⟨.floor 31, 5⟩], part := some 31, time := 0, commit := false }
     let s := up.updCm fun m => { m with staged := [g] }
     s.powered = true ∧ s.cm.staged = [g] ∧ g.time + 1000000 ≤ max s.now 1000000 ∧ max s.now 999999 < g.time + 1000000)
    ∧ (let s := up.updCm fun m => { m with drain := some drain2 }
       s.powered = true ∧ s.cm.drain = some drain2 ∧ s.drained drain2 = true ∧ s.mayNotDisable [rootSetting] = false
         ∧ (s.setAll [rootSetting]).2 = true ∧ (s.setAll [rootSetting]).1.smp.waits = false)
    ∧ (let s := quiet3.updCm fun m => { m with drain := some drain2, copies := [copy0] }
       s.powered = true ∧ (s.at 5000000).drained drain2 = false ∧ drain2.time + 5000000 ≤ (s.at 5000000).now ∧ s.smp.waits = false)
    ∧ ((up.clocked = true ∧ up.endpoint 0 = true) ∧ bitAt 3 1 = true ∧ (up.fullWrite 0).changeCheck [⟨.resCtrl 31, 3⟩] false = 0)
    ∧ (let s := { up with tiles := { tcus := { tcu0 with state := .waitEnd } :: List.replicate 3 {}, blocks := [ownB true true] }
         :: List.replicate 143 {} }
       s.clocked = true ∧ 0 < (s.tile 0).tcus.length ∧ s.live 0 = true ∧ (s.tile 0).blocks = [ownB true true] ∧ s.blockStreams 0 3 = []) := by
  decide +kernel

theorem witness_RegisterAccesses :
    (up.endpoint 0 = true ∧ (0x1038 + 63 * 0x100 : Nat) < barBytes 0 ∧ 63 < up.cm.ctxs.length ∧ up.powered = true ∧ up.endpoint 32 = true)
    ∧ (up.reg 0x1000).isSome = true
    ∧ (let s := up.updHst fun h => { h with held := [⟨0, 0x1000, 5⟩], latches := [⟨0, 0x108, 6⟩] }
       s.heldHalf 0 0x1000 = some 5 ∧ s.regRead 0 0x108 = (.ro, s.cm.applyGen) ∧ s.latched 0 0x108 = some 6)
    ∧ (let s := up.updHst fun h => { h with apertures := [⟨1, 0, 3⟩] }
       s.clocked = true ∧ s.hst.vfFlr.getD 1 false = false ∧ s.bar4Map 0 64 false = some (32, 64) ∧ s.bar4Map 1 64 true = some (0, 64)
         ∧ s.bar4Map 1 (2 ^ 21) false = none ∧ s.bar4Map 2 0 true = none ∧ (s.mem.readMany 32 (8 / 128 + 2) 64 8).2.2 = false) := by
  decide +kernel

/-! ## Stream engine -/

/-- The descriptor of an OPEN of stream 7 of the slot's block 3: LOAD, 3 slots of 128 bytes from VA 0x1000. -/
def openDesc (op num base : Nat) : List Byte :=
  toLe 1 op ++ toLe 2 0 ++ toLe 1 3 ++ toLe 1 0 ++ toLe 1 3 ++ toLe 2 num ++ toLe 4 0 ++ toLe 4 128 ++ toLe 8 base ++ toLe 4 128 ++ toLe 4 128
    ++ toLe 8 128 ++ toLe 4 2 ++ toLe 20 0
def closeDesc : List Byte := toLe 6 1 ++ toLe 2 7 ++ toLe 56 0

/-- The slot's word next, register 1 at the address, the descriptor there, the slot's block, and streams. -/
def strcmdState (addr : Nat) (d : List Byte) (l : List Stream) : State :=
  let s := tcuState { tcu0 with wins := tcu0.wins.modify 0 (·.set 1 (BitVec.ofNat 32 addr)) } (encTs 0x37 (ts 4 1 0))
  { s with
    tiles := s.tiles.modify 0 fun t => { t with blocks := [ownB true false], localMem := Mem.putAll (some 0) [] addr d }
    str := { up.str with streams := l } }

/-- What is asked of a STRCMD's descriptor. -/
def reaches (s : State) (a : Nat) : Bool := a % 64 == 0 && (List.range 16).all fun i => s.tcuReach 0 0 (a + 4 * i)

def closing : Stream := { stream with closing := .close 4 }
/-- Stream 7 as LOAD and STORE at VA 0x1000; a line of it. -/
def loadS : Stream := { stream with base := 0x1000, slotBytes := 128, produced := 0, progress := 0 }
def storeS : Stream := { loadS with kind := 1, count := 0, acquired := 1, produced := 1 }
def line (data : Option (List Byte)) (leaf : Option (Leaf × Nat)) : PortLine :=
  { num := 7, id := 9, ctx := 0, idx := 0, va := 0x1000, data := data, eff := none, leaf := leaf }
/-- A page of a type at VA 0x1000. -/
def leafOf (typ : Nat) : Leaf := { va := 0x1000, size := 4096, pa := 0x4000, r := true, w := true, x := true, typ := typ }
def lineState (x : Stream) (l : List PortLine) : State :=
  { paged with tiles := { port := { lines := l } } :: List.replicate 143 {}, str := { up.str with streams := [x] } }
/-- A LINK_SEND 7 on tile 0 to a LINK_RECV 8 on tile 1. -/
def sendS : Stream := { stream with kind := 2, count := 0, partner := 8, acquired := 1, produced := 1 }
def recvS (n : Nat) : Stream := { stream with num := 8, id := 10, tile := 1, kind := 3, count := 0, produced := n }
def linkState (x : Stream) (n : Nat) : State := { paged with str := { up.str with streams := [x, recvS n] } }

theorem witness_StreamsOpen :
    (∀ x ∈ [(0x5F000, 7, 0x1000), (0x5F000, 7, 1), (0x5F020, 7, 0)], let s := strcmdState x.1 (openDesc 0 x.2.1 x.2.2) []
      TcuIssues s 0 0 (encTs 0x37 (ts 4 1 0)) ∧ ((((s.tile 0).tcu 0).reg 1).toNat % 64 = 0 ↔ x.1 = 0x5F000)
        ∧ (x.1 = 0x5F000 → reaches s x.1 = true ∧ s.localRead 0 x.1 1 ≠ [1]
          ∧ ((s.tcuCounted 0 0).openStatus 0 0 (s.localRead 0 x.1 64) = 0 ↔ x.2.2 = 0x1000)))
    ∧ (let s := strcmdState 0x5F000 closeDesc [stream]
       let d := s.localRead 0 0x5F000 64
       TcuIssues s 0 0 (encTs 0x37 (ts 4 1 0)) ∧ reaches s 0x5F000 = true ∧ s.localRead 0 0x5F000 1 = [1] ∧ field d 6 2 = 7
         ∧ (d.drop 1).take 5 = List.replicate 5 0 ∧ d.drop 8 = List.replicate 56 0 ∧ s.str.ranges.getD 0 (0, 0) = (0, 64)
         ∧ s.stream? 7 = some stream ∧ (∀ y ∈ s.str.streams, y.kind = 2 → y.partner ≠ 7) ∧ stream.closing = .no)
    ∧ (let s := { tcuState { tcu0 with state := .waitClose 7 } 0 with str := { up.str with streams := [closing] } }
       s.stream? 7 = some closing ∧ s.closeReady closing = true ∧ s.live 0 = true ∧ ((s.tile 0).tcu 0).state = .waitClose 7
         ∧ 0 < (s.tile 0).tcus.length) := by
  simp only [TcuIssues]
  decide +kernel

theorem witness_StreamsMoveLines :
    (∀ x ∈ [loadS, storeS, { loadS with base := 0 }, { loadS with base := 0x2000 }], let s := lineState x []
      s.clocked = true ∧ s.str.streams.filter (·.tile == 0) = [x] ∧ s.stream? 7 = some x ∧ x.settle = x ∧ s.lineCand x = true
        ∧ x.nextLine = some 0 ∧ (s.tile 0).port.lines.length < 256
        ∧ ((s.resolve .stream 0 (x.lineVa 0) 128 .load).2.toOption.map fun y => (y.1.typ, y.2))
            = (if x.base = 0x1000 then some (0, 0x4000) else none))
    ∧ (∀ bad : Bool, let l := line none (some (leafOf 0, 0x4000))
       let s := (fun s : State => if bad then { s with mem := s.mem.poisonLine (0x4000 / 128) } else s) (lineState loadS [l])
       let s2 := (s.pcTake (some l.rid)).lineOver 0 l
       (s.tile 0).port.lines[0]? = some l ∧ s.stream? 7 = some loadS ∧ loadS.id = l.id ∧ s.live 0 = true ∧ s.pcHeld (some l.rid) = false
         ∧ loadS.closing = .no ∧ Mem.wf (some 0) (s.tile 0).localMem ∧ (s2.mem.read (s.keySlot 0) 0x4000 128).2.2 = bad)
    ∧ (let l := line none (some (leafOf 1, 0x4000))
       let s := lineState loadS [l]
       (s.tile 0).port.lines[0]? = some l ∧ l.sent = true ∧ s.pcHeld (some l.rid) = false ∧ hostBytes [] 0x4000 128 = none
         ∧ hostBytes (Mem.putAll none [] 0x4000 (List.replicate 128 7)) 0x4000 128 = some (List.replicate 128 7))
    ∧ (let l := line (some (List.replicate 128 7)) none
       let s := lineState storeS [l]
       let r := (s.lineOver 0 l).resolve .stream 0 0x1000 128 .store
       (s.tile 0).port.lines[0]? = some l ∧ s.stream? 7 = some storeS ∧ r.2.toOption.map (fun y => y.1.typ) = some 0
         ∧ (r.1.writeVa .stream 0 .store 2 0x1000 (List.replicate 128 7)).2 = none)
    ∧ (∀ n ∈ [1, 2], let s := linkState sendS n
       s.stream? 7 = some sendS ∧ s.stream? 8 = some (recvS n) ∧ sendS.xfer = none ∧ sendS.consumed < sendS.produced
         ∧ ((recvS n).occ < (recvS n).limit ↔ n = 1))
    ∧ (let x : Stream := { sendS with xfer := some ⟨0, List.replicate 128 7, none⟩ }
       let s := linkState x 1
       s.stream? 7 = some x ∧ s.live 0 = true ∧ (recvS 1).kind = 3 ∧ x.partner ≠ 7 ∧ 1 < s.tiles.length
         ∧ Mem.wf (some 0) (s.tile 1).localMem ∧ x.tile ≠ (recvS 1).tile) := by
  decide +kernel

/-! ## Armatures -/

/-- A node of subtree 0 with one triangle leaf at VA 0x1080 in the box from (0, 0, 0) to (1, 1, 1); COUNT `count`. -/
def node (count : Nat) : List Byte :=
  toLe 12 0 ++ [127, 127, 127] ++ toLe 1 count ++ [0, 0, 0, 1, 1, 1] ++ List.replicate 30 0 ++ toLe 6 1 ++ toLe 2 0 ++ toLe 4 0 ++ toLe 8 0x1080
    ++ List.replicate 56 0

def entry0 : PEntry := { va := 0x1000, sub := 0, image := none, dist := 0, inst := none, depth := 1 }
def ray0 : Ray := { ray { ringDesc with tree := 0x1000 } with tmax := 0x3F800000 }
def visit0 : Visit := { ray := ray0, home := 0, best := none, stack := [entry0], sub := 0 }
def home0 : HomeRay := { ray := ray0, stack := [], out_ := true }

/-- Armature 0 owns subtree 0 of partition 0, whose node is at VA 0x1000; the rest as given. -/
def armState (count : Nat) (a : Arm) (e : ArmEng → ArmEng) : State :=
  { paged with
    mem := paged.mem.writeHbm 0 (0x4000 / 128) (cellsAt 0x4000 (node count))
    arm := e { up.arm with arms := a :: List.replicate 47 {}, parts := up.arm.parts.modify 0 fun x => { x with res := [⟨0, 0, false, 15⟩] } } }

def image0 : Image_ := { id := 5, part := 0, slot := 0, ctx := 0, root := 0x1000, homes := [3], budget := 1, entries := [] }
def cand0 : Cand := { t := 0, status := 1, prim := 0, inst := 0xFFFFFFFF, material := 0, flags := 0, u := 0, v := 0 }

theorem witness_RaysWalkTheArmatures_homes :
    (∀ img ∈ [none, some 5], let s := armState 1 {} fun e =>
        { e with rayFlight := [⟨0, [ray0]⟩], images := [{ image0 with live := img.isSome }] }
      s.clocked = true ∧ 0 < s.arm.arms.length ∧ s.arm.rayFlight[0]? = some ⟨0, [ray0]⟩ ∧ s.live 0 = true
        ∧ (s.imageFor 0 ray0.d.tree).map (·.id) = img
        ∧ (s.armOf 0).homes = [] ∧ (fv ray0.tmax).lt (fv ray0.tmin) = false ∧ (s.armOf 0).waiting = [] ∧ (s.armOf 0).visits = []
        ∧ (img = some 5 → s.image? 5 = some image0) ∧ image0.homes.contains 0 = false ∧ image0.homes.head? = some 3)
    ∧ (∀ arm ∈ [0, 4], let s := armState 1 {} fun e => { e with visitFlight := [⟨arm, visit0⟩] }
      s.arm.visitFlight[0]? = some ⟨arm, visit0⟩ ∧ visit0.stack.head? = some entry0 ∧ (s.holds arm ray0 entry0 = true ↔ arm = 0)
        ∧ entry0.image = none ∧ visit0.isOver = false ∧ s.destOf ray0 entry0 = some 0 ∧ (s.armOf arm).visits = [])
    ∧ (∀ best ∈ [none, some cand0], let v := { visit0 with stack := [], best := best }
      let s := armState 1 { homes := [home0] } fun e => { e with returns := [⟨0, v⟩] }
      s.arm.returns[0]? = some ⟨0, v⟩ ∧ (s.armOf 0).homes.find? (·.ray.id == 0) = some home0 ∧ home0.stack = [] ∧ home0.best = none) := by
  decide +kernel

theorem witness_RaysWalkTheArmatures_nodes :
    (∀ count ∈ [1, 0], let s := armState count { visits := [visit0] } id
      let r := s.nodeRead 0 0 0x1000 128 0 none
      s.visit? 0 0 = some visit0 ∧ s.live 0 = true ∧ visit0.leaves = [] ∧ visit0.stack = [entry0] ∧ (s.armOf 0).waiting = []
        ∧ r.2.toOption = some (node count) ∧ entry0.sub ≠ 4096
        ∧ r.1.armOf 0 = { s.armOf 0 with store := (r.1.armOf 0).store, cnt := (r.1.armOf 0).cnt }
        ∧ (r.1.nodeFormatBad 0 (node count) entry0 = false ↔ count = 1)
        ∧ (let w := ({ visit0 with stack := [] }.nodeStep (node 1) entry0).1
           w.isOver = false ∧ w.leaves.length = 1))
    ∧ (let v := { visit0 with stack := [{ entry0 with va := 0 }] }
       let s := armState 1 { visits := [v] } id
       s.visit? 0 0 = some v ∧ (s.nodeRead 0 0 0 128 0 none).2.toOption = none)
    ∧ (∀ va ∈ [0x1080, 0], let v := { visit0 with spec := [va] }
      let s := armState 1 { visits := [v] } id
      s.visit? 0 0 = some v ∧ va ∈ v.spec
        ∧ ((s.resolve (.armature 0) 0 va 128 .load).2.toOption.map fun y => (y.1.typ, y.2)) = (if va = 0 then none else some (0, 0x4080))
        ∧ ((s.armOf 0).store.any fun y => y.part == 0 && y.pa == 0x4080) = false ∧ ((s.pcNow 0 0 (0x4080 / 128) none 0).mem.read 0 0x4080 128).2.2 = false ∧ s.owner 0 v.sub = some 0
        ∧ 2 ≤ s.storeShare 0 0) := by
  decide +kernel

/-- A neural leaf at the origin: half extent 1, threshold 2^-10, relaxation 1. -/
def neuralLeaf : List Byte := toLe 12 0 ++ toLe 4 0x3F800000 ++ toLe 8 0x1000 ++ toLe 8 0 ++ toLe 4 0x3A800000 ++ toLe 4 0x3F800000 ++ toLe 24 0
def neuralRun : NeuralRun := { leaf := neuralLeaf, inst := none, t := 0, out_ := 0x3F800000, n := 30 }

theorem witness_RaysWalkTheArmatures_batches :
    (let s := { armState 1 {} id with bus := { up.bus with refused := [batch] } }
     s.bus.refused = [batch] ∧ batch.armature = 0 ∧ (s.armOf 0).forming = [])
    ∧ (∀ f ∈ [({ ctx := 0, va := 0x1000, since := 0, solo := false, points := [(0, [0, 0, 0])] } : Forming),
              { ctx := 0, va := 0x1000, since := 9, solo := true, points := [(0, [0, 0, 0])] }],
       let s := armState 1 { forming := [f], cycle := if f.solo then 9 else 32 } id
       s.bus.refused = [] ∧ (s.armOf 0).forming = [f] ∧ s.live f.ctx = true ∧ (f.solo = true ∨ f.since + 32 ≤ (s.armOf 0).cycle))
    ∧ (let v := { visit0 with neural := some neuralRun }
       let r : BatchReply := { armature := 0, req := 2, ctx := 0, outs := [[0x3F000000]] }
       let s := { armState 1 { visits := [v], sent := [⟨2, [0]⟩] } id with bus := { up.bus with replies := [r] } }
       let d := fv 0x3F000000
       let dir := (ray0.space none).d
       let t1 := (FVal.plus (fv 0) (FVal.div (FVal.mul (FVal.mul (fv (field neuralLeaf 36 4)) d) (fv (field neuralLeaf 12 4)))
         (dot dir dir).sqrt)).to32 .nearest
       s.bus.replies[0]? = some r ∧ (s.armOf 0).sent.find? (·.req == 2) = some ⟨2, [0]⟩ ∧ s.visit? 0 0 = some v ∧ (s.armOf 0).waiting = []
         ∧ d.le (fv (field neuralLeaf 32 4)) = false ∧ t1 = 0x3F000000 ∧ (fv t1).le (fv 0x3F800000) = true ∧ neuralRun.n + 1 ≠ 32) := by
  decide +kernel

/-- The parameters of a BUILD: slot 15, context 0, depth 8, budget 12287, Armature 47, 1 replica. -/
def mqParam : Nat := 15 + 8 * 2 ^ 10 + 12287 * 2 ^ 14 + 47 * 2 ^ 28 + 1 * 2 ^ 34
def mqState (p : Nat) (root param : Nat) (b : Option MqBuild) : State :=
  armState 1 {} fun e => { e with parts := e.parts.modify p fun x => { x with mqRoot := root, mqParam := param, build := b } }
def build0 (ctx : Nat) : MqBuild := { ctx := ctx, root := 0x1000, slot := 15, depth := 8, budget := 12287, home := 47, replicas := 1 }

theorem witness_MaquettesAreBuiltAndSubtreesMove :
    (∀ x ∈ [(0, 0x1000, mqParam, none), (0, 0x1000, 0, none), (31, 0x1000, mqParam, none), (0, 0, 0, some (build0 0))],
      let s := mqState x.1 x.2.1 x.2.2.1 x.2.2.2
      s.clocked = true ∧ x.1 < s.arm.parts.length ∧ (s.armPart x.1).build = x.2.2.2
        ∧ (x.2.2.2 = none → (mqBad (s.armPart x.1).mqRoot (s.armPart x.1).mqParam = false ↔ x.2.2.1 = mqParam))
        ∧ (s.ctx (mqCtx x.2.2.1)).part = 0 ∧ s.live (mqCtx x.2.2.1) = true)
    ∧ bits (1 : DWord).toNat 0 2 = 1 ∧ bits (2 : DWord).toNat 0 2 = 2
    ∧ (mqState 0 0 0 (some (build0 2))).live 2 = false
    ∧ (let s := mqState 0 0 0 (some (build0 0))
       let r := s.buildTree 47 (build0 0) 12287 [⟨0x1000, 4096, 1, none⟩] [] 1
       s.imageHomes (12287 + 1) 47 1 [] = some [47] ∧ (r.2.toOption.map (·.length)) = some 1 ∧ 0 < r.1.arm.parts.length)
    ∧ (let s := armState 1 { load := [((0, 0), 100)] } fun e => { e with parts := e.parts.modify 0 fun x => { x with adapt := true } }
       let s := { s with arm := { s.arm with arms := s.arm.arms.modify 0 fun x => { x with load := [((0, 0), 100), ((1, 0), 150)] } } }
       let load := s.arm.arms.map fun y => y.load.foldl (fun n z => n + z.2) 0
       ((List.range 32).filter fun q => (s.armPart q).adapt) = [0] ∧ hottest load = 0 ∧ (s.armPart 0).res.filter (·.owner == 0) = [⟨0, 0, false, 15⟩]
         ∧ bitAt 15 (armQuadrant 4) = true
         ∧ (∀ y < 48, bitAt 15 (armQuadrant y) = true → y ≠ 4 → [load.getD 4 0, armHops 0 4] < [load.getD y 0, armHops 0 y])
         ∧ 2 * s.arm.arms.foldl (fun n y => n + y.loadOf 0 0) 0 < load.getD 0 0 - load.getD 4 0) := by
  decide +kernel

/-! ## Power, HBM and the host link -/

/-- up with its power manager changed. -/
def upPwr (f : Pwr → Pwr) : State := { up with pwr := f up.pwr }
def mark31 : PhaseMark := { part := 31, phase := 2, tag := 3, time := 0, tile := 0 }
def dieWant : State :=
  upPwr fun p => { p with dies := p.dies.set 1 { (p.dies.getD 1 {}) with want := some 700 } }

theorem witness_PowerLoopsTakeEffect :
    (up.powered = true ∧ 143 < up.tiles.length ∧ 143 < up.pwr.tiles.length ∧ up.shed = false ∧ up.tiles.length = 144 ∧ up.pwr.tiles.length = 144
      ∧ up.stopped = false ∧ up.cm.ctxs.length = 64)
    ∧ (∀ x ∈ [({ low := [3] } : PwrTile), { left := 1 }, {}],
        let s := upPwr fun p => { p with tiles := p.tiles.set 143 x }
        s.powered = true ∧ (s.pwrTile 143).drooping = decide (x ≠ {}))
    ∧ (let s := upPwr fun p => { p with badRun := 2 }; 2 ≤ s.pwr.badRun ∧ up.pwr.badRun < 2)
    ∧ ((dieWant.pwr.dies.getD 1 {}).want = some 700 ∧ 1 < dieWant.pwr.dies.length ∧ dieWant.powered = true
      ∧ dieWant.pwr.effVolt (dieWant.pwrTile 6).want ≤ 700 ∧ dieOf 6 = 1)
    ∧ (up.pwr.railTurn < up.pwr.rails.length)
    ∧ (let s := upPwr fun p => { p with tiles := p.tiles.set 5 { trip := true } }
       (s.pwrTile 5).trip = true ∧ 240 ≤ (List.replicate 144 240).getD 5 0)
    ∧ ((∀ j < 144, (up.pwrTile j).trip = false) ∧ (∀ j < 32, (up.pwr.base.getD j {}).trip = false))
    ∧ (let s := upPwr fun p => { p with tiles := p.tiles.set 5 { hot := true, warm := true } }; s.pwr.tiles[5]? = some { hot := true, warm := true })
    ∧ (10999 < 11000 ∧ up.live 1 = true ∧ up.live 2 = false)
    ∧ (∀ a ∈ [none, some 5], let s := upPwr fun p => { p with dip := some ⟨0, 10500, a⟩ }
       s.pwr.dip = some ⟨0, 10500, a⟩ ∧ 11399 < 11400 ∧ 11410 ≤ 11410 ∧ 5 + 100000 ≤ (s.at 100005).now
         ∧ (s.at 100004).now < a.getD (s.at 100004).now + 100000)
    ∧ (let f : FaultInfo := { code := 4, ctx := 1, unit := 0 }
       let own : List FaultInfo := ([f].take 1).filter (·.ctx == 1)
       firstFault ({ code := 0x11, ctx := 1, unit := 8 } :: own) ≠ none ∧ ((ctxIn .killing).ctx 3).state = .killing
         ∧ ((ctxIn .killing).ctx 3).record.isSome = true)
    ∧ (let s := upPwr fun p => { p with marks := [mark31] }
       s.clocked = true ∧ s.pwr.marks.filter (·.part == 31) = [mark31] ∧ 31 < s.cm.parts.length ∧ 31 < s.pwr.parts.length)
    ∧ up.serving = true ∧ up.cmdCheck (0x2400 + 31) 1 0 = 0 := by
  decide +kernel

/-- up with HBM stack 0 as given. -/
def stackState (x : HbmStack) : State := { up with hbm := { up.hbm with stackList := up.hbm.stackList.set 0 x } }

theorem witness_HbmErrorsRowsAndTemperature :
    (0 < up.hbm.stackList.length ∧ up.clocked = true ∧ up.powered = true ∧ stackOf 0x1000 = 0 ∧ 0x1000 < hbmEnd)
    ∧ [eccClass [], eccClass [0, 0], eccClass [0, 1], eccClass [1, 2, 1]] = [0, 0, 1, 2]
    ∧ ((∀ c ∈ (up.stack 0).copies, ¬(c.pc = pcOf 0x1000 ∧ c.row = rowOf 0x1000)) ∧ (up.stack 0).free (pcOf 0x1000) ≠ 0)
    ∧ ((stackState { copies := [⟨4, 0, 1⟩] }).stack 0).copies[0]? = some ⟨4, 0, 1⟩
    ∧ (stackLines + 8 * ((stackState { patrolAt := stackLines - 1 }).stack 0).redirects.length
        ≤ ((stackState { patrolAt := stackLines - 1 }).stack 0).patrolAt + 1)
    ∧ ((84 < 105 ∨ (up.stack 0).hot = false) ∧ ((stackState { hot := true }).stack 0).hot = true ∧ 104 < 105)
    ∧ (let v : Word := BitVec.ofNat 32 (31 * 8 + 786431 * 256)
       bits v.toNat 3 5 = 31 ∧ bits v.toNat 8 20 = 786431 ∧ bits v.toNat 0 3 = 0 ∧ v.toNat < 2 ^ 28 ∧ up.serving = true
         ∧ (up.at 0).cmdCheck 0x5480 1 0 = 0 ∧ (up.stack 0).copies = [] ∧ (up.stack 0).free 31 ≠ 0 ∧ (31, 786431) ∉ (up.stack 0).redirects) := by
  decide +kernel

/-- A state with the loopback configuration of a depth. -/
def loopCfg (d inst pattern ms : Nat) : List Byte := toLe 1 d ++ toLe 1 inst ++ toLe 1 pattern ++ toLe 1 0 ++ toLe 4 ms
/-- No live context, and port 17 is held down. -/
def idleDown : State :=
  { up with cm := { up.cm with ctxs := List.replicate 64 {} }, fab := { up.fab with ports := up.fab.ports.set 17 { state := 3, adminDown := true } } }

theorem witness_HostLinkAndLoopbacks :
    (let s := { up with pins := { up.pins with perst := false } }
     s.phase = .ready ∧ s.pins.perst = false ∧ s.loop.state ≠ 1 ∧ s.hst.up = false ∧ s.hst.vfFlr.getD 32 false = false)
    ∧ (let s := up.updHst fun h => { h with up := true }
       s.hst.up = true ∧ (∀ u ∈ s.tiles, u.loads = [] ∧ u.port.lines = []) ∧ s.cm.copies = [])
    ∧ ((up.hst.vectors[0]?).isSome = true ∧ ((up.updHst fun h => { h with up := true }).hst.up = true))
    ∧ (let l := line none (some (leafOf 1, 0x4000))
       let s := lineState loadS [l]
       s.clocked = true ∧ (s.tile 0).port.lines[0]? = some l ∧ l.host = true ∧ l.sent = true ∧ s.stream? 7 = some loadS ∧ loadS.id = l.id
         ∧ loadS.closing = .no ∧ s.live 0 = true ∧ l.since + 10000000 ≤ (s.at 10000000).now)
    ∧ (up.clocked = true ∧ up.hst.vfFlr.getD 32 false = false ∧ up.cm.ctxs.length = 64 ∧ up.live 0 = true ∧ (up.ctx 0).part + 1 = 1)
    ∧ ((loopCfg 8 17 1 120000).length = 8 ∧ (up.at 0).cmdCheck 0x7100 0 0 = 0 ∧ (up.at 0).cmdCheck 0x7100 1 0 = 0 ∧ (up.at 0).cmdCheck 0x7100 2 0 = 0)
    ∧ (let s := { up with loop := { state := 1, depth := 3, inst := 7, pattern := 1, start := 0, ms := 1 } }
       s.serving = true ∧ s.loop.state = 1 ∧ (s.at 0).cmdCheck 0x7100 0 0 = 0 ∧ s.loop.start + s.loop.ms * 1000000 ≤ (s.at 1000000).now) := by
  decide +kernel

/-- No tile holds a group or a slot, so that no fence has asked anything. -/
theorem witness_HostLink_idle (tile : Nat) (tcu : Bool) (slot : Nat) : up.fence? tile tcu slot = none := by
  have h : up.tile tile = {} := by
    have : up.tile tile = (List.replicate 144 ({} : Tile)).getD tile {} := rfl
    rw [this, List.getD_eq_getElem?_getD, List.getElem?_replicate]
    split <;> rfl
  unfold State.fence?
  rw [h]
  cases tcu
  · rfl
  · have hs : ∀ n, (({} : Tile).tcu n).state = .free := by
      intro n
      have : ({} : Tile).tcu n = (List.replicate 4 ({} : Tcu)).getD n {} := rfl
      rw [this, List.getD_eq_getElem?_getD, List.getElem?_replicate]
      split <;> rfl
    rw [if_pos rfl]
    dsimp only
    split
    · rename_i h
      rw [hs] at h
      cases h
    · rfl

theorem witness_Loopbacks :
    [(1, 0, 1), (2, 0, 2), (3, 7, 3), (4, 7, 1), (5, 17, 1), (6, 17, 1), (7, 17, 1), (8, 17, 1)].map (fun (x : Nat × Nat × Nat) =>
      let c := loopCfg x.1 x.2.1 x.2.2 1
      (loopDepth c == x.1, loopBad c, idleDown.loopMay x.1 (loopInst c), ({ idleDown with loop := { state := 1 } } : State).loopMay x.1 (loopInst c)))
    = List.replicate 8 (true, 0, true, false) := by
  decide +kernel

/-! ## The fabric -/

/-- Chip 5 with port 17 (and port 0) as given. -/
def fabState (x : Port) : State := { up with fab := { up.fab with chipId := 5, ports := (up.fab.ports.set 17 x).set 0 x } }
def upPort : Port := { state := 2, lanes := 0xFF, credits := List.replicate 6 100 }
def trainFlit (role partner port flags : Nat) : List Byte :=
  flitBytes 2 0 0 false 0 0 (toLe 1 1 ++ toLe 1 role ++ toLe 2 partner ++ toLe 1 port ++ toLe 1 0 ++ toLe 1 flags ++ toLe 1 0 ++ List.replicate 12 1)
/-- A flit received whole, or not, and a port where it is the next. -/
def rx (f : List Byte) (whole : Bool) : RxFlit := ⟨f, whole, List.replicate 8 1⟩
def withFlit (x : Port) (y : RxFlit) : State := fabState { x with flits := [y] }
def trainingOf (f : Nat) (lanes : Nat) : Training := { lanes := lanes, fails := f, start := 0, run := 8, cold := true }
/-- A packet of a type for the chip of the tray's position 1, from chip 4, context 0 to context 0. -/
def pkt (typ cls : Nat) : FPkt :=
  { typ := typ, cls := cls, dst := 5, src := 4, dctx := 0, sctx := 0, tid := 9, deadline := 0, addr := 0x1000, aux := if typ == 2 then 16 else 0
    data := if typ == 1 then List.replicate 16 7 else [] }
def sentFlit (n : Nat) : Unacked := { seq := n, payload := [], sent := 0 }

/-- The first codeword of a frame of count 0 whose flits are zeros: its header, and its 30 parity symbols. The other three are zeros. -/
def trainWord : List Nat :=
  [933, 816, 419, 1] ++ List.replicate 510 0 ++ [305, 4, 155, 317, 182, 472, 100, 327, 299, 800, 738, 191, 322, 562, 337, 641, 724, 271, 217,
    746, 620, 392, 757, 333, 587, 904, 932, 898, 608, 814]
/-- The frame on its 8 lanes (R661). -/
def trainRow (l k : Nat) : List Nat := symLevels (if k % 4 = 0 then trainWord.getD (2 * k + l) 0 else 0)
def trainLanes : List (List Nat) := (List.range 8).map fun l => (List.range 272).flatMap (trainRow l)

theorem clean_errors (w : List Nat) (h : (rsSyndromes w).all (· == 0) = true) : rsErrors w = some [] := by
  unfold rsErrors
  simp only [h, if_true]

theorem trainWord_errors : rsErrors trainWord = some [] := clean_errors _ (by decide +kernel)

theorem trainWord_levels : ∀ v ∈ 0 :: trainWord, levelsSym (symLevels v) = v := by decide +kernel

theorem trainWords : ((List.range 4).map fun c => (List.range 544).map fun i =>
      levelsSym (((trainLanes.getD (i % trainLanes.length) []).drop (5 * (4 * (i / trainLanes.length) + c))).take 5))
      = [trainWord, List.replicate 544 0, List.replicate 544 0, List.replicate 544 0] := by
  have hl : trainLanes.length = 8 := by simp [trainLanes]
  have hs : ∀ c < 4, ∀ i < 544, levelsSym (((trainLanes.getD (i % trainLanes.length) []).drop (5 * (4 * (i / trainLanes.length) + c))).take 5)
      = if c = 0 then trainWord.getD i 0 else 0 := by
    intro c hc i hi
    have hr : trainLanes.getD (i % 8) [] = (List.range 272).flatMap (trainRow (i % 8)) := by
      simp [trainLanes, List.getD_eq_getElem?_getD, Nat.mod_lt]
    rw [hl, hr, drop_chunk _ (fun _ => rfl) _ _ (by simp; omega), List.getElem_range, trainRow, trainWord_levels]
    · by_cases h : c = 0
      · subst h
        rw [if_pos (by omega), if_pos rfl]
        congr 1
        omega
      · rw [if_neg (by omega), if_neg h]
    · split
      · rw [List.getD_eq_getElem?_getD]
        rcases h : trainWord[2 * (4 * (i / 8) + c) + i % 8]? with _ | v
        · simp
        · exact List.mem_cons_of_mem _ (List.mem_of_getElem? h)
      · simp
  have hm : ∀ c < 4, ((List.range 544).map fun i =>
      levelsSym (((trainLanes.getD (i % trainLanes.length) []).drop (5 * (4 * (i / trainLanes.length) + c))).take 5))
      = (List.range 544).map fun i => if c = 0 then trainWord.getD i 0 else 0 := fun c hc =>
    List.map_congr_left fun i hi => hs c hc i (List.mem_range.mp hi)
  have h4 : List.range 4 = [0, 1, 2, 3] := rfl
  rw [h4]
  simp only [List.map_cons, List.map_nil]
  rw [hm 0 (by omega), hm 1 (by omega), hm 2 (by omega), hm 3 (by omega)]
  have hw : ((List.range 544).map fun i => trainWord.getD i 0) = trainWord :=
    List.ext_getElem (by simp [trainWord]) fun i h1 h2 => by simp [List.getD_eq_getElem?_getD, List.getElem?_eq_getElem h2]
  have hz : ((List.range 544).map fun _ => 0) = List.replicate 544 0 := by rw [List.map_const', List.length_range]
  simp only [if_true, Nat.one_ne_zero, (by decide : ¬(2 : Nat) = 0), (by decide : ¬(3 : Nat) = 0), if_false, hw, hz]

theorem trainLanes_header : headerOk (frameView trainLanes 0).data 8 = true := by
  rw [frameView_clean _ _ trainWords]
  · decide +kernel
  · intro w h
    simp only [List.mem_cons, List.not_mem_nil, or_false] at h
    rcases h with rfl | rfl | rfl | rfl
    · exact trainWord_errors
    all_goals exact zeros_errors _

theorem witness_FabricPortsTrainAndRecover :
    (let s := fabState { state := 1, run := 7, training := some { trainingOf 0 0xFF with run := 7 } }
     s.clocked = true ∧ 17 < s.fab.ports.length ∧ (s.port 17).training = some { trainingOf 0 0xFF with run := 7 } ∧ (s.port 17).run = 7
       ∧ (s.port 17).state = 1 ∧ (s.port 17).lanesIn ≠ 0xF0 ∧ trainLanes.length = lanesOf 0xFF)
    ∧ (∀ x ∈ [(trainFlit 1 3 0 1, true), (trainFlit 1 4 0 1, false)],
       let y := rx x.1 true
       let s := withFlit { state := 1, training := some (trainingOf 0 0xFF) } y
       (s.port 17).flits.head? = some y ∧ y.kind = 3 ∧ y.good = true ∧ bitAt (field x.1 18 1) 0 = true ∧ (trainingOf 0 0xFF).cold = true
         ∧ wiringOk 5 17 (field x.1 13 1) (field x.1 14 2) (field x.1 16 1) = x.2)
    ∧ ((trainingOf 0 0xFF).start + 100000 ≤ max up.now 100000 ∧ 2 ≤ (trainingOf 2 0xF0).fails ∧ (trainingOf 2 0xF0).lanes = 0xF0)
    ∧ ((fabState {}).port 17).state = 0 ∧ ((fabState {}).port 17).since + 10 ^ 9 ≤ ((fabState {}).at (10 ^ 9)).now ∧ (fabState {}).fab.chipId ≠ 0xFFFF
    ∧ ((fabState { state := 3, adminDown := true }).port 17).adminDown = true
    ∧ (∀ whole : Bool, let y := rx (flitBytes 1 0 0 false 0 0 []) whole
       let s := withFlit upPort y
       (s.port 17).flits.head? = some y ∧ y.kind = 1 ∧ y.good = whole ∧ (viewFlit y.bytes).nak = false ∧ (viewFlit y.bytes).seq = upPort.expect
         ∧ (viewFlit y.bytes).seq ≠ ({ upPort with expect := 1023 } : Port).expect ∧ upPort.nakAt = none ∧ upPort.fails = 0)
    ∧ (let y := rx (flitBytes 0 0 6 false 5 8191 []) true
       let v := viewFlit y.bytes
       y.kind = 0 ∧ y.good = true ∧ v.typ = 0 ∧ v.ackv = true ∧ v.ack = 6 ∧ v.cvc = 5 ∧ v.ccnt = 8191
         ∧ (v.ack + 1024 - (sentFlit 6).seq) % 1024 ≤ 0)
    ∧ (let y := rx (let b := toLe 4 (2 ^ 25) ++ toLe 248 0; b ++ toLe 4 (crc32 b)) true
       y.kind = 2 ∧ y.good = true ∧ (viewFlit y.bytes).ackv = false)
    ∧ (let s := fabState { upPort with unacked := [sentFlit 6] }
       (s.port 17).unacked.head? = some (sentFlit 6) ∧ max (sentFlit 6).sent (s.port 17).progress + 2000 ≤ (s.at 2000).now)
    ∧ (let s := fabState { upPort with out := [pkt 1 0], seq := 1023 }
       s.portUp 17 = true ∧ (s.at 0).nextPkt (s.port 17) = some (pkt 1 0) ∧ 0 + (flitPayloads 2 (pkt 1 0).bytes).length ≤ 512)
    ∧ (upPort.state = 2 ∧ upPort.unacked = [] ∧ upPort.out = [])
    ∧ ∀ d ∈ [0, 2, 3], let y := rx (flitBytes 2 0 0 false 0 0 (toLe 1 3 ++ toLe 1 d)) true
       y.kind = 5 ∧ y.good = true ∧ zeroBytes y.bytes 14 238 = true ∧ field y.bytes 13 1 = d := by
  decide +kernel

/-- paged on chip 5, bound to context 0 of chip 4, with a packet received from port 0, and entries and requests of the fabric engine. -/
def recvState (k : FPkt) (es : List FEntry) (rs : List FReq) : State :=
  { paged with
    fab := { up.fab with
      chipId := 5, ports := up.fab.ports.set 0 { upPort with inq := [k] } |>.set 2 upPort, entries := es, reqs := rs
      peers := { valid := true, chip := 4, ctx := 0 } :: List.replicate 1023 {} } }
def fent : FEntry :=
  { id := 3, ctx := 0, queue := 0, va := 0, op := 1, cls := 0, dst := 4, dctx := 0, signal := none, done := some 7, len := 16, tag := 0, deadline := none
    loc := 0x1000, remote := 0x1000, next := 16, open_ := 1 }
def freq (attempt : Nat) : FReq := { pkt := { pkt 1 0 with dst := 4, src := 5 }, entry := 3, off := 0, attempt := attempt, sent := 0 }

/-- The packet is the next one for this chip of its kind, from port 0, and is then consumed. -/
def isNext (s : State) (kind : FPkt → Bool) (k : FPkt) : Bool := ((s.at 0).inNext kind) == some (0, k)
def taken (k : FPkt) (es : List FEntry) (rs : List FReq) : State := ((recvState k es rs).at 0).consume 0 k

theorem witness_FabricRequestsAreMadeAndServed_packets :
    (∀ typ ∈ [1, 2, 5], let k := pkt typ 0
      let s := recvState k [] []
      s.clocked = true ∧ isNext s s.isRequest k = true ∧ (taken k [] []).isDup k = false ∧ (taken k [] []).accepts k = true ∧ 0 < s.cm.ctxs.length)
    ∧ ((taken (pkt 1 0) [] []).deviceRun 0 .store 4 0x1000 16).2 = none
    ∧ (let r := (taken (pkt 2 0) [] []).deviceRun 0 .load 4 0x1000 16
       r.2 = none ∧ (r.1.readVa .fabric 0 [] .load (r.1.deadlineOf (pkt 2 0)) 4 0x1000 16).2.toOption.isSome = true)
    ∧ (let k := { pkt 5 0 with tid := 2 ^ 32 - 1 }
       (taken k [] []).isDup k = true)
    ∧ (let k := { pkt 5 0 with sctx := 1 }
       (taken k [] []).isDup k = false ∧ (taken k [] []).accepts k = false)
    ∧ (∀ k ∈ [{ pkt 4 0 with dctx := 0 }, { pkt 3 0 with data := List.replicate 16 1, aux := 0 }],
       let s := recvState k [fent] [freq 0]
       isNext s s.isAnswer k = true ∧ s.fab.reqs.find? (fun r => r.pkt.dst == k.src && r.pkt.tid == k.tid) = some (freq 0) ∧ s.fab.entries = [fent]
         ∧ (freq 0).entry = fent.id ∧ s.live fent.ctx = true ∧ k.aux ≤ 1 ∧ fent.total ≤ fent.next ∧ fent.open_ = 1
         ∧ ((taken k [fent] [freq 0]).writeVa .fabric 0 .store 4 (0x1000 + (freq 0).off) k.data).2 = none)
    ∧ (let k := { pkt 1 5 with dst := 6 }
       let s := recvState k [] []
       isNext s (fun k => k.dst != s.fab.chipId) k = true ∧ k.cls = 5 ∧ (taken k [] []).directRoute k = some 2 ∧ 2 < s.fab.ports.length) := by
  decide +kernel

/-- The bytes of an entry: OP, destination 4, context 0, LEN, VALID. -/
def fabBytes (op sig len loc ctx : Nat) : List Byte :=
  toLe 1 op ++ toLe 1 0 ++ toLe 2 4 ++ toLe 1 ctx ++ toLe 1 sig ++ toLe 1 0 ++ toLe 1 0 ++ toLe 4 len ++ toLe 4 0 ++ toLe 8 loc ++ toLe 8 loc
    ++ toLe 28 0 ++ toLe 4 1
/-- Queue 0 of context 0 with the entry at its head. -/
def headState (d : List Byte) : State :=
  let s := recvState (pkt 1 0) [] []
  { s with
    mem := (s.mem.writeHbm 0 (0x4000 / 128) (cellsAt 0x4000 (toLe 4 1 ++ toLe 4 0))).writeHbm 0 (0x4000 / 128) (cellsAt 0x4040 d)
    fab := { s.fab with queues := { base := 0x1000, enable := true } :: List.replicate 255 {} } }

theorem witness_FabricRequestsAreMadeAndServed_queue :
    (∀ a ∈ [1, 2], let s := recvState (pkt 1 0) [fent] [freq a]
      s.fab.reqs.find? (fun r => r.pkt.dst == 4 && r.pkt.tid == 9) = some (freq a) ∧ (freq a).sent + 50000 ≤ (s.at 50000).now
        ∧ s.fab.entries.find? (·.id == (freq a).entry) = some fent)
    ∧ (∀ x ∈ [(0, 0, 16, false), (4, 0, 16, true), (1, 0x80, 16, true), (2, 0, 16, true), (3, 0x80, 65535, true), (1, 0, 17, true)],
       let d := fabBytes x.1 x.2.1 x.2.2.1 (if x.1 == 3 then 0 else 0x2000) 0
       let r := (headState d).fabHead 0 0
       r.2 = some (0x1040, d) ∧ field d 0 1 = x.1 ∧ (r.1.fabTake 0 0 0x1040).bound 0 (field d 2 2) (field d 4 1) = true
         ∧ fabBad d = (x.1 == 0 || x.1 == 4 || x.2.2.1 == 17))
    ∧ (let d := fabBytes 1 0 16 0x2000 63
       let r := (headState d).fabHead 0 0
       r.2 = some (0x1040, d) ∧ fabBad d = false ∧ (r.1.fabTake 0 0 0x1040).bound 0 (field d 2 2) (field d 4 1) = false)
    ∧ (let y := rx (flitBytes 2 0 0 false 0 0 (toLe 1 2 ++ toLe 3 0 ++ toLe 8 1000 ++ toLe 2 4 ++ toLe 1 1)) true
       ((withFlit upPort y).port 0).flits.head? = some y ∧ upPort.state = 2 ∧ y.kind = 4 ∧ y.good = true
         ∧ ({ fabState upPort with fab := { (fabState upPort).fab with locked := true } } : State).fab.locked = true) := by
  decide +kernel

/-! ## Serial requests, commits, and the tray's server -/

def smpFrameOf (op index sub offset : Nat) (d : List Byte) : List Byte :=
  let b := toLe 1 0xA5 ++ toLe 1 op ++ toLe 1 0 ++ toLe 1 d.length ++ toLe 2 index ++ toLe 1 sub ++ toLe 1 9 ++ toLe 2 offset ++ toLe 6 0 ++ d
    ++ List.replicate (64 - d.length) 0
  b ++ toLe 4 (crc32 b)
def smpState (x : Smp) : State := { up with smp := x }
def jobOf (op index sub offset : Nat) (d : List Byte) : SmpReq := { seq := 9, op := op, index := index, sub := sub, offset := offset, data := d }
def jobState (r : SmpReq) : State := smpState { job := some r, mail := { status := 3, req := some r } }

theorem witness_SerialFramesAndRequests_frames :
    ((smpState {}).smp.cs = false ∧ (smpState {}).pins.pwrinGood = true ∧ (smpState {}).serving = true ∧ ({ up with phase := .cold } : State).serving = false)
    ∧ (let f := smpFrameOf 1 0x2000 2 0 []
       f.length = 84 ∧ field f 0 1 = 0xA5 ∧ field f 80 4 = crc32 (f.take 80) ∧ (parseSmp f).op = 1
         ∧ ¬(field (0 :: f.drop 1) 0 1 = 0xA5) ∧ ¬(field (f.take 83 ++ [0]) 80 4 = crc32 ((f.take 83 ++ [0]).take 80))
         ∧ (jobState (parseSmp f)).smp.mail.req.any (parseSmp f).same = true ∧ (smpState {}).smp.mail.req.any (parseSmp f).same = false)
    ∧ (parseSmp (smpFrameOf 0 0 0 0 [])).op = 0 ∧ 3 ≤ (parseSmp (smpFrameOf 255 0 0 0 [])).op ∧ (smpFrameOf 255 0 0 0 []).length = 84 := by
  decide +kernel

/-- What a READ or WRITE of an object finds: its access, whether it is scalar, its length. -/
def objView (s : State) (index sub : Nat) : Option (Acc × Bool × Nat) := (pickObj (s.dict index) sub).map fun o => (o.acc, scalar o.typ, o.bytes.length)

theorem witness_SerialFramesAndRequests_objects :
    (let s := jobState (jobOf 1 0x2000 2 0 [])
     s.smp.job = some (jobOf 1 0x2000 2 0 []) ∧ s.serving = true ∧ s.smp.mail.status = 3 ∧ (jobOf 1 0x2000 2 0 []).header = true ∧ s.dict 0x0FFF = []
       ∧ s.dict 0x2000 ≠ [] ∧ s.phase ≠ .rom ∧ objView s 0x2000 2 = some (.rw, true, 2))
    ∧ objView up 0x3000 3 = some (.ro, true, 4) ∧ objView up 0x7110 1 = some (.rw, false, 64) ∧ (0 < 64 ∧ 64 ≤ 64)
    ∧ (let s := smpState { job := some (jobOf 1 0x7110 1 64 []), mail := { status := 3 }, capture := some ⟨0x7110, 1, List.replicate 64 1⟩ }
       s.smp.capture = some ⟨0x7110, 1, List.replicate 64 1⟩)
    ∧ (let s := jobState (jobOf 2 0x2000 2 0 [0x90, 1])
       s.smp.waits = false ∧ (pickObj (s.dict 0x2000) 2).bind (·.tgt) = some .cap ∧ (toLe 2 400).length = 2 ∧ s.phase = .ready
         ∧ s.gatedNow (gateOf 0x2000) = false ∧ leNat (toLe 2 400) = 400 ∧ s.valueBad .cap 400 = 0 ∧ s.smp.commits.build = none
         ∧ (s.submit [⟨.cap, 400⟩] false).2.1 = 0 ∧ (s.submit [⟨.cap, 400⟩] false).2.2 = false ∧ (s.submit [⟨.cap, 400⟩] false).1.smp = s.smp)
    ∧ (let b : Build := { members := List.replicate 31 ⟨0x2000, 3, 0⟩, last := 0 }
       b.members.length < 32 ∧ ∀ m ∈ b.members, ¬(m.index = 0x2000 ∧ m.sub = 2)) := by
  decide +kernel

def building (l : List Member) : State := smpState { commits := { build := some { members := l, last := 0 } } }

theorem witness_CommitsAndPowerDown :
    (up.phase = .ready ∧ up.smp.commits.build = none ∧ up.commitsPending < 8 ∧ up.clocked = true ∧ up.cm.drain = none ∧ up.cm.ctxs.length = 64
      ∧ up.live 1 = true ∧ ∀ i < 64, idleDown.live i = false)
    ∧ (let s := building []
       s.smp.commits.build = some { members := [], last := 0 } ∧ 0 + 1000000000 ≤ (s.at 1000000000).now ∧ (s.at 999999999).now < 0 + 1000000000)
    ∧ (let l : List Member := [⟨0x5010, 1, 3⟩]
       let s := building l
       let s0 : State := { s with smp := { s.smp with commits := { s.smp.commits with build := none } } }
       let r := s0.submit (s0.memberSettings l) true
       l ≠ [] ∧ r.2.1 ≠ 0 ∧ r.1.smp = s0.smp)
    ∧ (let l : List Member := [⟨0x2000, 2, 400⟩]
       let s := building l
       let s0 : State := { s with smp := { s.smp with commits := { s.smp.commits with build := none } } }
       let r := s0.submit (s0.memberSettings l) true
       r.2.1 = 0 ∧ r.2.2 = false ∧ r.1.smp = s0.smp ∧ s.smp.waits = false)
    ∧ (let l : List Member := [⟨0x2400, 3, 0⟩]
       let s := building l
       let s0 : State := { s with smp := { s.smp with commits := { s.smp.commits with build := none } } }
       let r := s0.submit (s0.memberSettings l) true
       strictest (s0.memberSettings l) = .epoch ∧ r.2.1 = 0 ∧ r.2.2 = true ∧ r.1.smp = s0.smp ∧ s.smp.waits = false)
    ∧ (∀ who < 3, let s := up.setTray who { (up.trayAt who) with commits := { build := some { members := [], last := 0 } } }
       (s.trayAt who).commits.build = some { members := [], last := 0 } ∧ 0 + 1000000000 ≤ ((s.trayAt who).at 1000000000).time)
    ∧ (let s := { idleDown with boot := { idleDown.boot with powerDown := 1 } }
       s.boot.powerDown = 1 ∧ s.downReady = true ∧ s.clocked = true) := by
  decide +kernel

/-- A tray controller with an image in use, and the state with it as the compute tray's. -/
def trayOk : Tray := { up.tray with images := { up.tray.images with selected := 0 } }
def withTray (t : Tray) : State := { up with tray := t }
/-- A request to a controller by Ethernet. -/
def plinthMsg (target op index sub : Nat) (d : List Byte) : List Byte :=
  toLe 1 1 ++ toLe 1 0xFF ++ toLe 1 target ++ toLe 1 9 ++ toLe 1 op ++ toLe 1 0 ++ toLe 2 index ++ toLe 1 sub ++ toLe 1 0 ++ toLe 2 0 ++ toLe 2 d.length
    ++ toLe 6 0 ++ d

theorem witness_PlinthRequestsAndTheBridge_requests :
    (let u := trayOk
     let m := plinthMsg 0 1 0x8000 1 []
     let r := parseMsg 64 m
     u.channels.length = 4 ∧ 20 ≤ m.length ∧ ¬(64 < 64) ∧ field m 0 1 = 1 ∧ r.node = 0xFF ∧ 64 ≤ 64 ∧ ¬(20 ≤ ([] : List Byte).length)
       ∧ u.asked.find? (fun a => a.src == 64 && a.key == r.key) = none ∧ r.header = true ∧ r.op = 1 ∧ r.target = 0 ∧ u.images.selected ≠ 0xFF
       ∧ u.dict 0x8000 ≠ [] ∧ (pickObj (u.dict 0x8000) 1).map (fun o => (o.acc, scalar o.typ, o.bytes.length)) = some (.ro, true, 1) ∧ r.offset = 0
       ∧ ({ u with asked := [⟨64, r.key, none⟩, ⟨65, r.key, some []⟩] } : Tray).asked.find? (fun a => a.src == 65 && a.key == r.key)
          = some ⟨65, r.key, some []⟩)
    ∧ (∀ x ∈ [(0, 3), (5, 1)], let r := parseMsg 64 (plinthMsg x.1 x.2 0x8000 1 []); r.header = false ∨ 2 < r.op ∨ 4 < r.target)
    ∧ (∀ x ∈ [(1, 1, []), (4, 2, [1])], let r := parseMsg 64 (plinthMsg x.1 x.2.1 0x2000 2 x.2.2)
       r.header = true ∧ r.op ≤ 2 ∧ 1 ≤ r.target ∧ r.target ≤ 4 ∧ (r.op = 2 → r.fits = true))
    ∧ (let chan (c : Channel) : Tray := { trayOk with channels := List.replicate 4 c }
       (trayOk.owned 3 (some 64) = false ∧ (chan { owner := some (65, 0) }).owned 3 (some 64) = true)
         ∧ ((chan { state := 1 }).chan 3).state = 1 ∧ 16 ≤ ((chan { queue := List.replicate 16 ⟨64, [], 0⟩ }).chan 3).queue.length
         ∧ (trayOk.chan 3).queue.length < 16 ∧ (trayOk.chan 3).state ≠ 1) := by
  decide +kernel

def bridgedOf (src : Nat) : Bridged := ⟨src, plinthMsg 1 1 0x2000 2 [], 0⟩
def queuedTray : Tray := { trayOk with channels := List.replicate 4 { queue := [bridgedOf 64, bridgedOf 65] } }

theorem witness_PlinthRequestsAndTheBridge_answers :
    (let u := (withTray queuedTray).tray
     u.channels.length = 4 ∧ (u.chan 3).queue = [bridgedOf 64, bridgedOf 65] ∧ (toLe 4 400).length ≤ mediumMax 64 ∧ mediumMax 63 = 44
       ∧ (u.at 5999999).time < (bridgedOf 64).sent + 6000000 ∧ (bridgedOf 64).sent + 6000000 ≤ (u.at 6000000).time) := by
  decide +kernel

/-- A requester's write that the controller can perform. -/
def isFree (t : Tray) (index sub : Nat) (d : List Byte) : Bool :=
  t.node < 256 && t.images.selected != 0xFF && t.commits.build.isNone
    && t.asked.all fun a => !(a.src == 64 && a.key == (parseMsg 64 (t.writeMsg 64 9 index sub d)).key)
def runTray : Tray := { trayOk with state := 3, modules := List.replicate 4 { powered := true } }

theorem witness_TrayCommandObjects :
    (isFree trayOk 0x8000 0x0A [1] = true ∧ isFree runTray 0x8000 0x0A [4] = true ∧ isFree trayOk 0x8100 4 [1] = true
      ∧ isFree trayOk 0x8050 5 (List.replicate 1024 1) = true ∧ trayOk.kind = 2 ∧ trayOk.modules.length = 4 ∧ trayOk.channels.length = 4)
    ∧ (runTray.state = 3 ∧ (runTray.on.any fun p => bitAt 0 p) = false ∧ (runTray.on.any fun p => bitAt 8 p) = true
      ∧ ∀ p < 4, runTray.owned p none = false)
    ∧ trayOk.state ≠ 3 ∧ trayOk.state ≠ 5 ∧ trayOk.sensed.wet = false ∧ ({ trayOk with state := 5 } : Tray).state = 5
    ∧ runTray.drain = none ∧ (7 : Nat) ≤ 7
    ∧ ((runTray.mod 3).cycle = 0 ∧ (runTray.mod 3).powered = true ∧ [0, 0, 0, 2].getD 3 0 = 2 ∧ (trayOk.mod 3).powered = false
      ∧ (({ trayOk with modules := List.replicate 4 { tripped := true } } : Tray).mod 3).tripped = true)
    ∧ runTray.ber.state = 0 ∧ runTray.busOpen = false ∧ trayOk.images.state ≠ 1 ∧ trayOk.images.offset < 2 ^ 25
    ∧ ∀ who < 3, (up.trayAt who).node < 256 := by
  decide +kernel

/-! ## Trays, keys, resets and the test access port -/

def blockOf (state supply stopMs : Nat) : List Byte :=
  toLe 1 1 ++ toLe 1 state ++ toLe 16 0 ++ toLe 2 supply ++ toLe 4 0 ++ toLe 4 stopMs ++ toLe 32 0
def heardAll : List Heard :=
  [⟨29, 0, blockOf 3 320 0, true⟩, ⟨24, 0, blockOf 3 0 0, true⟩, ⟨25, 0, blockOf 3 0 0, true⟩, ⟨26, 0, blockOf 3 0 0, true⟩, ⟨27, 0, blockOf 3 0 0, true⟩]

theorem witness_RackBusCeilingsAndCoolant :
    (∀ who < 3, let x := up.trayAt who
      x.modules.length = 4 ∧ x.busOpen = false ∧ x.node ≠ 40 ∧ x.node ≠ 29)
    ∧ ((blockOf 3 0 30000).length = 60 ∧ field (blockOf 3 0 30000) 24 4 = 30000 ∧ field (blockOf 3 0 5000) 24 4 = 5000 ∧ trayOk.kind = 2
      ∧ trayOk.busLost = false)
    ∧ (let x := { trayOk with rack := heardAll, time := 50000001 }
       ∃ h ∈ x.rack, h.node = 29 ∧ h.fresh = true ∧ h.time + 50000000 < x.time)
    ∧ (let x := { runTray with busLost := false, lastFrame := 0, higher := some 0, time := 10000000000 }
       x.busLost = false ∧ x.lastFrame + 50000000 ≤ x.time ∧ x.higher = some 0 ∧ 0 + 10000000000 ≤ x.time ∧ 3 ∈ x.on
         ∧ (x.mod 3).capLast < [0, 0, 0, 1].getD 3 0)
    ∧ (let u := { runTray with coolantOk := true, lowFlow := 2 }
       u.kind = 2 ∧ u.coolantOk = true ∧ 599 < 600 ∧ 2 ≤ u.lowFlow ∧ u.state = 3 ∧ u.leakOff = none)
    ∧ (let u := { runTray with coolantOk := false, flowLost := true, flowSince := some 0, state := 8, start := none, time := 5000000000 }
       u.coolantOk = false ∧ u.flowLost = true ∧ 1050 ≤ 1050 ∧ u.flowSince = some 0 ∧ 0 + 5000000000 ≤ u.time ∧ u.okAt + 10000000 ≤ u.time
         ∧ u.state = 8 ∧ u.leakOff = none ∧ u.start = none)
    ∧ ({ runTray with leakOff := some 0 } : Tray).leakOff = some 0 ∧ (runTray.mod 3).powered = true
    ∧ ({ runTray with sentBlock := toLe 4 0 ++ toLe 4 0xFFFFFFFF ++ toLe 52 0 } : Tray).alarms ≠ 0xFFFFFFFF := by
  decide +kernel

def starting (step : Nat) : Tray :=
  { trayOk with
    rack := heardAll, start := some { step := step }, flowSince := some 0, time := 120000000000
    modules := List.replicate 4 { powered := true, cycle := 2 } }
def berObs0 (e : Nat) : BerObs := { pos := 3, port := 17, syms := List.replicate 8 e, bits := 10 ^ 7, bad := false }

theorem witness_TraysStartDrainAndTest :
    (∀ n ∈ [1, 2, 3, 4, 5, 6], let u := starting n
      u.start = some { step := n } ∧ u.cduGood = true ∧ u.flowGood = true ∧ u.okAt + 10000000 ≤ u.time
        ∧ (∀ i < 4, u.running (24 + i) = true) ∧ 0 + 120000000000 ≤ u.time ∧ u.modules.length = 4 ∧ bitAt u.persist.moduleEnable 3 = true
        ∧ ∀ p ∈ u.on, (u.mod p).cycle = 2 ∧ bitAt 0 p = false ∧ [0, 0, 0, 0].getD p 0 = 0)
    ∧ (∃ m ∈ (starting 6).modules, m.powered = true ∧ m.cycle = 2 ∧ m.since + 2000000000 ≤ (starting 6).time)
    ∧ (let u := { starting 4 with rack := heardAll.take 2 }; ∃ i, i < 4 ∧ u.running (24 + i) = true)
    ∧ (let x := { up.sw with rack := heardAll, flowSince := some 0, time := 5000000000 }
       x.powered = false ∧ x.cduGood = true ∧ x.flowGood = true ∧ up.mgmt.powered = false)
    ∧ (let x := { up.sw with powered := true, noCompute := some 0, time := 10000000000 }
       x.powered = true ∧ x.noCompute = some 0 ∧ 0 + 10000000000 ≤ x.time)
    ∧ (let c : TrayChange := ⟨[⟨0x8000, 3, 5⟩], ⟨64, [], 0⟩, false⟩
       let d (n : Nat) : TrayDrain := { step := n, forced := false, change := if n == 4 then some c else none }
       let u := { runTray with hostOn := true, time := 120000000000, drain := some (d 4) }
       u.drain = some (d 4) ∧ (d 4).shutdownAt + 120000000000 ≤ u.time ∧ (d 4).change = some c ∧ (d 2).change = none ∧ (d 1).planned = false
         ∧ (∀ p ∈ u.on, [0, 0, 0, 0].getD p 0 = 0 ∧ bitAt 15 p = true) ∧ ∀ p ∈ u.on, [2, 3, 2, 3].getD p 0 = 2 ∨ [2, 3, 2, 3].getD p 0 = 3)
    ∧ ((berObs0 0).pos < 4 ∧ (berObs0 0).port < 18 ∧ runTray.ber.results.length = 4 ∧ (runTray.ber.results.getD 3 []).length = 144
       ∧ laneFails 240 (10 ^ 7) false = false ∧ laneFails 241 (10 ^ 7) false = true)
    ∧ (let u := { runTray with ber := { runTray.ber with state := 2, port := some (3, 17, 0) }, time := 10000000000 }
       u.ber.state = 2 ∧ u.ber.port = some (3, 17, 0) ∧ 0 + 10000000000 ≤ u.time ∧ u.ber.next = [])
    ∧ (let u := { runTray with ber := { runTray.ber with state := 1 }, time := 120000000000 }
       u.ber.state = 1 ∧ u.ber.start + 120000000000 ≤ u.time)
    ∧ (let u := { runTray with time := 86400000000000 }
       let all (l : List (Nat × Nat)) := ((List.range 72).map fun i => (i / 18, i % 18)).filter fun z => l.contains z && testedHere z.1 z.2
       u.state = 3 ∧ u.ber.state = 0 ∧ u.ber.periodicAt + 86400000000000 ≤ u.time ∧ all [] = [] ∧ all [(3, 17), (0, 6)] = [(0, 6), (3, 17)]
         ∧ [((0 : Nat), (6 : Nat))].contains (0, 6) = true) := by
  decide +kernel

/-- A copy of 32 bytes with 16 zero bytes after its header: its magic, SEQ and CRC. -/
def copyOf (magic seq : Nat) : Mem :=
  Mem.putAll (some 0xFF) [] 0 (toLe 4 magic ++ toLe 4 seq ++ toLe 4 32 ++ toLe 4 (crc32 (toLe 16 0)) ++ toLe 16 0)

theorem witness_TrayCopiesAndLog :
    (let m := copyOf imageMagic 7
     copyValid m imageMagic imageSize = true ∧ copySeq m imageMagic imageSize = 7 ∧ Mem.wf (some 0xFF) m ∧ copyValid [] imageMagic imageSize = false
       ∧ copyValid (copyOf dictMagic 1) dictMagic dictSize = true ∧ copyValid [] dictMagic dictSize = false)
    ∧ (∀ who < 3, (up.trayAt who).images.dictDue = false ∧ (up.trayAt who).images.state ≠ 1)
    ∧ ({ trayOk with images := { trayOk.images with state := 1, dictDue := true } } : Tray).images.state = 1
    ∧ (let r : LogRecord := { time := 0, seq := 1, code := 0x0030, source := 1, severity := 2, detail := List.replicate 16 0 }
       (runTray.mod 3).powered = true ∧ runTray.persist.retired.length = 4 ∧ r.seq = (runTray.mod 3).seq + 1 ∧ r.detail.length = 16
         ∧ (runTray.mod 3).seq < 1) := by
  decide +kernel

/-- A key command: its OP and SLOT. -/
def keyCmd (op slot : Nat) : DWord := BitVec.ofNat 64 (op + slot * 2 ^ 8)

theorem witness_KeysUnlockAndIntrusion :
    (up.clocked = true ∧ up.mem.keys.length = 33 ∧ up.cm.ctxs.length = 64 ∧ up.pins.intrusion = false ∧ up.sec.busy = false ∧ up.cm.drain = none
      ∧ up.sec.unlock = 0 ∧ up.live 0 = true ∧ ∀ i < 64, idleDown.live i = false)
    ∧ (∀ op ∈ [1, 2, 3], keyOp (keyCmd op 32).toNat = op ∧ cmdSlot (keyCmd op 32).toNat = 32 ∧ 32 < cmdSlot (keyCmd op 33).toNat)
    ∧ (∀ b ∈ up.sec.blobs, b.kwk ≠ up.sec.kwk)
    ∧ (let s := { up with sec := { up.sec with busy := true, unlock := 2 }, pins := { up.pins with intrusion := true } }
       s.sec.busy = true ∧ s.sec.unlock = 2 ∧ s.pins.intrusion = true)
    ∧ (List.replicate 112 (0 : Byte)).length = 112 ∧ up.tokenValid (List.replicate 112 0) = false := by
  decide +kernel

/-- Whether a token is signed is a free value: one that is, and whose first bytes are as the rule says, is valid. -/
theorem witness_KeysUnlockAndIntrusion_token (s : State) (h : Config.tokenSigned (leNat s.challenge) (leNat (1 :: List.replicate 111 0)) = true) :
    s.tokenValid (1 :: List.replicate 111 0) = true ∧ (1 :: List.replicate 111 (0 : Byte)).length = 112 := by
  refine ⟨?_, by decide⟩
  simp only [State.tokenValid, h, Bool.and_true]
  decide

theorem witness_ResetsAndBoot :
    (up.phase = .ready ∧ up.smp.commits.build = none ∧ up.serving = true ∧ up.stopped = false
      ∧ ({ up with pins := { up.pins with pwrinGood := true, chipRst := false, perst := false } } : State).phase ≠ .off)
    ∧ (∀ p ∈ [Phase.off, .cold, .warm, .down], let s := { up with phase := p, pins := { up.pins with pwrinGood := true } }
       s.phase = p ∧ s.pins.pwrinGood = true ∧ s.smp.commits.build = none ∧ (p = .cold → s.serving = false)) := by
  decide +kernel

/-- Whether the test instructions are open to begin with rests on the fused lifecycle, which is a free value. -/
theorem witness_TestAccessPort :
    ({ up with pins := { up.pins with pwrinGood := true } } : State).pins.pwrinGood = true
    ∧ ({ up with sec := { up.sec with unlock := 3 } } : State).testOpen = true ∧ (Config.lifecycle ≠ 1 → up.testOpen = false) := by
  refine ⟨rfl, by simp [State.testOpen], fun h => ?_⟩
  simp only [State.testOpen, lifecycle, beq_iff_eq, h, if_false]
  rfl

/-! ## General statements -/

theorem witness_StepRunsTheFrontCommand :
    (let s := { State.reset with pending := [.issueCycle 0 [], .linkDown] }; s.pending = [.issueCycle 0 [], .linkDown]) ∧ State.reset.pending = [] := by
  decide

theorem witness_WordsOfInstructionsDecodeBack :
    (Instr.iadd 143 (fr 1 2 0 0)).wf = true ∧ (Instr.iadd 143 (fr 1 2 0 0)).threadWord? = some (143, encReg 0x10 (fr 1 2 0 0)) := by
  decide +kernel

theorem witness_CommandsLeaveTheQueueInOrder :
    let s := { State.reset with pending := [.perstNDeassert 5, .linkDown] }
    step s = .next { (State.reset.at 5) with pins := { State.reset.pins with perst := false }, pending := [.linkDown] } := by
  rfl

/-! ## Well-formedness: each check refuses a term -/

theorem test_wf_fields_out_of_range :
    (∀ c ∈ [Instr.iadd 0 (fr 256 0 0 0), .iadd 0 (fr 0 256 0 0), .iadd 0 (fr 0 0 256 0), .iadd 0 (fr 0 0 0 (2 ^ 20)),
        .iadd 0 { fr 0 0 0 0 with psel := 8 }, .iadd 0 { fr 0 0 0 0 with dst := 256 }, .movi 0 { fi 0 1 with mod4 := 16 }, .ld 0 (fm 0 8 0),
        .ld 0 (fm 0 0 16), .ld 0 { fm 0 0 0 with off := 2 ^ 20 }, .bra 0 { fb 0 1 with rsv := 16 }, .rdspec 0 (fs 0 (2 ^ 28)),
        .tcuAdd 0 0 { ta with rsv := 2 ^ 11 }, .tcuAdd 0 0 { ta with dst := 32 }, .tcuAddi 0 0 (ti 1 (2 ^ 16)), .tcuBeq 0 0 { tb 0 with sa := 32 },
        .tcuJal 0 0 ⟨2 ^ 26⟩, .tcuEnd 0 0 (ts 0 0 (2 ^ 16))], c.wf = false) := by decide

theorem test_wf_places_out_of_range :
    (∀ c ∈ [Instr.iadd 144 (fr 0 0 0 0), .issueCycle 0 [64], .tcuAdd 0 4 ta, .sacqWake 0 64,
        .exitRelease 0 0 64, .barrierComplete 0 16 0 0, .barrierComplete 0 0 3 0, .storeBufferDrain (some 144) 0, .registerWrite 33 0 4 0,
        .registerWrite 0 0 2 0, .doorbell 0 256 0 4 none, .droopDetect 0 4 0, .ctxKill 64 0, .phaseMarkApply 0 32, .nodeFetch 48 0, .traceAdmission 0 4,
        .voltageSettled 2, .vfFlr 0, .vfFlr 33, .linkRetrain 8 0 false 0, .linkUp 0 0 false [.resizeBar4 8], .linkUp 0 0 false [.power 33 true], .msixUnmask 2048, .hbmReadError 0 hbmEnd ⟨[0, 0, 0, 0], [0, 0, 0, 0], 0⟩, .hbmRefresh 0 8,
        .adminDown 18, .timeFlitReceive 0 18, .fabricPut 0 0 4 [], .bridgeTimeout 0 4, .dictSave 3 0, .commitBuildTimeout (some 3) 0,
        .stateFrameTimeout 0 0 64, .jtagTestInstruction 0x0F, .jtagBypass 0x3F], c.wf = false) := by decide

theorem test_wf_records_of_wrong_length :
    (∀ c ∈ [Instr.nopCommand 0 [1], .hbmReadError 0 0 ⟨[0], [0, 0, 0, 0], 0⟩, .pmbusReport 0 none [none],
        .frameReceive 0 0 [[0]], .smpFrame 0 [1], .stateFrameReceive 0 0 0 false [1], .loopbackPciePipe 0 [1],
        .unlockToken 0 [1]], c.wf = false) := by decide

theorem test_wf_accepts :
    (∀ c ∈ [Instr.iadd 143 (fr 255 255 255 (2 ^ 20 - 1)), .tcuAdd 143 3 { ta with dst := 31 }, .doorbell 32 255 0 8 none, .nopCommand 127 [],
        .nopCommand 0 (List.replicate 64 0), .putReceive 0, .jtagBypass 0xFF], c.wf = true) := by decide

/-! ## Words written out field by field from R206, R207, R215, R327 and R331 -/

/-- OPCODE, PNEG, PSEL, DST, SRCA, SRCB, SRCC, MOD: IADD r4, r1, r2 with no guard. -/
theorem test_word_reg :
    decodeThread 0 0b00010000_0_111_00000100_00000001_00000010_00000000_00000000000000000000 = some (.iadd 0 (fr 1 2 0 0)) := by decide
/-- OPCODE, PNEG, PSEL, DST, SRCA, MOD4, IMM32: MOVI r4, 0x80000001 unless pr1. -/
theorem test_word_imm :
    decodeThread 0 0b00000010_1_001_00000100_00000000_0000_10000000000000000000000000000001
      = some (.movi 0 { pneg := true, psel := 1, dst := 4, srca := 0, mod4 := 0, imm := 0x80000001 }) := by decide
/-- OPCODE, PNEG, PSEL, DST, SRCA, SRCB, SIZE, SUBOP, SIGNED, OFF. -/
theorem test_word_mem :
    decodeThread 0 0b01110000_0_111_00000100_00001000_00000000_010_0000_1_11111111111111111100
      = some (.ldl 0 { pneg := false, psel := 7, dst := 4, srca := 8, srcb := 0, size := 2, subop := 0, signed := true, off := 0xFFFFC }) := by
  decide
/-- OPCODE, PNEG, PSEL, DST, SRCA, reserved, DISP: a branch back by one instruction. -/
theorem test_word_brn :
    decodeThread 0 0b10000000_0_111_00000000_00000000_0000_11111111111111111111111111111000 = some (.bra 0 (fb 0 0xFFFFFFF8)) := by decide
/-- OPCODE, PNEG, PSEL, DST, SRCA, SRCB with SPEC: SPEC's 28 bits take those of SRCC and MOD. -/
theorem test_word_spc :
    decodeThread 0 0b00000101_0_111_00000100_00000000_00000000_0000000000000000000000000010
      = some (.rdspec 0 { pneg := false, psel := 7, dst := 4, srca := 0, srcb := 0, spec := 2 }) := by decide
/-- The TCU's OPCODE, DST, SA, SB, reserved: ADD r23, r1, r2; and OPCODE, DST, SA, IMM16; OPCODE, SA, SB, DISP16. -/
theorem test_word_tcu :
    decodeTcu 0 3 0b000001_10111_00001_00010_00000000000 = some (.tcuAdd 0 3 ta)
    ∧ decodeTcu 0 3 0b010000_01111_00001_1000000000000001 = some (.tcuAddi 0 3 (ti 1 0x8001))
    ∧ decodeTcu 0 3 0b100000_00001_00010_1111111111111111 = some (.tcuBeq 0 3 (tb 0xFFFF))
    ∧ decodeTcu 0 3 0b100110_11111111111111111111111111 = some (.tcuJal 0 3 ⟨0x3FFFFFF⟩) := by decide
/-- No command has an opcode that R215 assigns nothing. -/
theorem test_word_undefined : decodeThread 0 0 = none ∧ decodeThread 0 0xFF00000000000000 = none ∧ decodeTcu 0 0 0xF8000000 = none := by decide

/-! ## Single steps, the results computed by hand -/

/-- Register 4 of the two lanes after the command. -/
def r4 (c : Instr) (w : Nat) : List Nat :=
  match exec c (thr group w) with
  | .next t => ((t.tile 0).groups.getD 0 default).lanes.map fun l => ((l.getD default).gr 4).toNat
  | _ => []

theorem test_step_integer :
    r4 (.iadd 0 (fr 1 2 0 0)) (encReg 0x10 (fr 1 2 0 0)) = [7, 7] ∧ r4 (.isub 0 (fr 1 2 0 0)) (encReg 0x11 (fr 1 2 0 0)) = [0xFFFFFFFF, 0xFFFFFFFF]
    ∧ r4 (.imad 0 (fr 1 2 5 0)) (encReg 0x14 (fr 1 2 5 0)) = [19, 19] ∧ r4 (.sari 0 (fi 1 1)) (encImm 0x2C (fi 1 1)) = [1, 1] := by
  decide +kernel

/-- Values of binary32, the CRC-32 check value of "123456789", the HBM stack of R630. -/
theorem test_helpers :
    crc32 (textBytes "123456789") = 0xCBF43926 ∧ (clz 0x00010000).toNat = 15 ∧ fp32.unpack 0x40490FDB ≠ fp32.unpack 0x40490FDC
    ∧ (fp32.unpack 0xFF800000).isNan = false ∧ stackOf 0x80 = 1 ∧ stackOf 0x40080 = 0 := by
  decide +kernel

/-- A warm reset of a chip in service returns it to the warm phase; the start of a command from an empty queue changes nothing. -/
theorem test_step_resets :
    (match exec (.hotReset 0) up with | .next t => t.phase == .warm && t.hst.bar4Size == 16 && t.cm.ctxs == List.replicate 64 {} | _ => false) = true
    ∧ step State.reset = .next State.reset := by
  refine ⟨by decide +kernel, rfl⟩

/-- 2^3, log2 8, a twelfth of a turn's sine, half a turn's cosine, 1/2 and the square root of 2, the free distances being 0. -/
theorem test_unary :
    [unaryNear 0x48 0 2 0x40400000, unaryNear 0x49 0 2 0x41000000, unaryNear 0x4A 0 1 0x3DAAAAAB, unaryNear 0x4B 0 2 0x3F000000,
      unaryNear 0x45 0 2 0x40000000, unaryNear 0x47 0 1 0x40000000]
    = [0x41000000, 0x40400000, 0x3F000000, 0xBF800000, 0x3F000000, 0x3FB504F3] := by
  decide +kernel

end Sys2Proof.Tests
end

/-! Contexts: the acceptance of faults, kills and their end, host events and TLB invalidations (R17–R19, R69–R82, R159, R254). A tile
cycle: what Chisel and the ray engines leave of a tile, the counters, the choice of a group and its issue (R20–R24, R106, R113, R137, R141,
R147). -/
namespace Sys2Proof.Machine

/-! ## Repetition, messages and interrupts -/

/-- What each step of a repetition keeps, the repetition keeps. -/
theorem State.each_keeps {α β : Type} (g : State → β) {f : α → State → State} (h : ∀ x s, g (f x s) = g s) (l : List α) (s : State) :
    g (s.each l f) = g s := by
  induction l generalizing s with
  | nil => rfl
  | cons x r ih => exact (ih (f x s)).trans (h x s)

/-- A message over PCIe changes the host link alone. -/
theorem State.post_frame (s : State) (m : PcieMsg) : s.post m = { s with hst := (s.post m).hst } := by
  unfold State.post
  split <;> rfl

theorem State.vectorSend_frame (s : State) (v : Nat) : s.vectorSend v = { s with hst := (s.vectorSend v).hst } := by
  simp only [State.vectorSend]
  split
  · rfl
  · exact State.post_frame s _

/-- An interrupt changes the host link alone. -/
theorem State.msix_frame (s : State) (p : Option Nat) (v : Nat) : s.msix p v = { s with hst := (s.msix p v).hst } := by
  cases p with
  | none => exact State.vectorSend_frame s v
  | some p =>
    simp only [State.msix]
    split
    · exact State.vectorSend_frame s v
    · rfl

@[simp] theorem State.post_cm (s : State) (m : PcieMsg) : (s.post m).cm = s.cm := by rw [State.post_frame]
@[simp] theorem State.post_tiles (s : State) (m : PcieMsg) : (s.post m).tiles = s.tiles := by rw [State.post_frame]
@[simp] theorem State.msix_cm (s : State) (p : Option Nat) (v : Nat) : (s.msix p v).cm = s.cm := by rw [State.msix_frame]
@[simp] theorem State.msix_tiles (s : State) (p : Option Nat) (v : Nat) : (s.msix p v).tiles = s.tiles := by rw [State.msix_frame]

/-! ## The acceptance of a fault (R17–R19, R71–R74) -/

/-- The context manager without its queues and the WAITs on them. -/
def CtxMgr.withoutQueues (m : CtxMgr) : CtxMgr := { m with waits := [], queues := [] }

/-- The end of a WAIT changes of the context manager the WAITs and the queues alone. -/
theorem State.waitFails_cm (s : State) (id q code : Nat) : (s.waitFails id q code).cm.withoutQueues = s.cm.withoutQueues := by
  simp only [State.waitFails, State.queueError, State.msix_cm]
  rfl

/-- Of the context manager the start of a kill changes, beside the queues and the WAITs, what the record of the fault changes. -/
theorem State.startKill_cm (s : State) (f : FaultInfo) (n : Nat) :
    (s.startKill f n).cm.withoutQueues = (s.record f n).cm.withoutQueues := by
  unfold State.startKill
  exact State.each_keeps (fun s => s.cm.withoutQueues) (f := fun (w : Wait) s => s.waitFails w.id w.queue qeBadContext)
    (fun w s => s.waitFails_cm w.id w.queue qeBadContext) _ _

theorem State.acceptFaults_one (s : State) (f : FaultInfo) : s.acceptFaults [f] = s.acceptFor f.ctx [f] := by
  simp [State.acceptFaults, State.each, List.eraseDups_cons]

/-- The only fault of a live context starts its kill. -/
theorem State.acceptFaults_live (s : State) (f : FaultInfo) (h : s.live f.ctx = true) : s.acceptFaults [f] = s.startKill f 0 := by
  rw [State.acceptFaults_one]
  simp only [State.live] at h
  unfold State.acceptFor
  cases hs : (s.ctx f.ctx).state with
  | ready => simp [firstFault]
  | running => simp [firstFault]
  | free => simp [hs, CtxState.live] at h
  | killing => simp [hs, CtxState.live] at h
  | dead => simp [hs, CtxState.live] at h

/-- One more secondary fault in a context's record (R18). -/
def Ctx.countSecondary (x : Ctx) : Ctx := { x with record := x.record.map fun r => { r with secondary := min (r.secondary + 1) 255 } }

theorem State.acceptFaults_killing {s : State} {f : FaultInfo} (h : (s.ctx f.ctx).state = .killing) (ho : f.own = true) :
    s.acceptFaults [f] = s.updCtx f.ctx Ctx.countSecondary := by
  simp only [State.acceptFaults_one, State.acceptFor, h, List.filter_cons, ho, if_true, List.filter_nil, List.length_singleton]
  rfl

theorem State.acceptFaults_dead {s : State} {f : FaultInfo} (h : (s.ctx f.ctx).state = .dead) (ho : f.own = true) :
    s.acceptFaults [f] = s.updCm fun m => { m with lateArrivals := m.lateArrivals + 1 } := by
  simp [State.acceptFaults_one, State.acceptFor, h, ho]

/-- The acceptance of a live context's only fault starts the kill of that context alone, and counts it. -/
theorem State.startKill_live (s : State) (f : FaultInfo) (h : s.live f.ctx = true) (hc : f.ctx < s.cm.ctxs.length) :
    KillStarted (s.acceptFaults [f]) f.ctx f.code ∧ (∀ d, d ≠ f.ctx → (s.acceptFaults [f]).ctx d = s.ctx d)
      ∧ (s.acceptFaults [f]).cm.faultQ = s.cm.faultQ ∧ (s.acceptFaults [f]).cm.ctxKills = s.cm.ctxKills + 1
      ∧ (s.acceptFaults [f]).cm.faultSeq = (s.cm.faultSeq + 1) % 2 ^ 32
      ∧ (s.acceptFaults [f]).cm.eventDeadlocks = s.cm.eventDeadlocks + (if f.code = 0x08 then 1 else 0) := by
  rw [State.acceptFaults_live s f h]
  have hcm := State.startKill_cm s f 0
  have hctx (d : Nat) : (s.startKill f 0).ctx d = (s.record f 0).ctx d := congrArg (fun m => m.ctxs.getD d {}) hcm
  refine ⟨?_, fun d hd => ?_, (congrArg CtxMgr.faultQ hcm :), (congrArg CtxMgr.ctxKills hcm :), (congrArg CtxMgr.faultSeq hcm :),
    (congrArg CtxMgr.eventDeadlocks hcm :).trans ?_⟩
  · unfold KillStarted
    rw [hctx]
    have hr : (s.record f 0).ctx f.ctx = _ := State.ctx_updCtx_same (s.updCm _) f.ctx _ hc
    rw [hr]
    exact ⟨rfl, _, rfl, rfl, rfl⟩
  · rw [hctx]
    exact State.ctx_updCtx_other (s.updCm _) f.ctx d _ (Ne.symm hd)
  · change (if f.code == 0x08 then s.cm.eventDeadlocks + 1 else s.cm.eventDeadlocks) = _
    by_cases h8 : f.code = 0x08 <;> simp [h8]

/-! ## CTX_CTRL, CtxKill and CTX_TLB_INV (R69, R70, R100, R103, R159) -/

/-- A kill by the host of a live context starts its kill with HOST_KILL, and touches no other context. -/
theorem State.ctxKill_live (s : State) (c : Nat) (h : (s.ctx c).state.live = true) (hc : c < s.cm.ctxs.length) :
    KillStarted (s.ctxKill c) c 0x0F ∧ ∀ d, d ≠ c → (s.ctxKill c).ctx d = s.ctx d := by
  have hk : s.ctxKill c = s.acceptFaults [hostKill c 7] := by
    unfold State.ctxKill
    cases hs : (s.ctx c).state <;> simp_all [CtxState.live]
  obtain ⟨h1, h2, -⟩ := State.startKill_live s (hostKill c 7) h hc
  rw [hk]
  exact ⟨h1, h2⟩

/-- A write that the state of a context does not allow marks that context alone. -/
theorem State.ctxRefused_ctx (s : State) (c : Nat) (hc : c < s.cm.ctxs.length) :
    (s.ctxRefused c).ctx c = { s.ctx c with refused := true } ∧ ∀ d, d ≠ c → (s.ctxRefused c).ctx d = s.ctx d :=
  ⟨State.ctx_updCtx_same _ _ _ hc, fun _ h => State.ctx_updCtx_other _ _ _ _ (Ne.symm h)⟩

@[simp] theorem State.refuse_zero (s : State) : s.refuse 0 = s := if_neg (by decide)

@[simp] theorem State.answerWrite_cm (s : State) (index sub code typ total : Nat) :
    (s.answerWrite index sub code typ total).cm = s.cm := by
  have hm : ∀ s : State, (s.mailEnd code typ total []).cm = s.cm := fun s => by
    unfold State.mailEnd
    split <;> rfl
  unfold State.answerWrite
  split
  · split
    · exact hm s
    · rfl
  · rfl

@[simp] theorem State.releaseImages_cm (s : State) (f : Image_ → Bool) : (s.releaseImages f).cm = s.cm := rfl
@[simp] theorem State.releaseImages_tiles (s : State) (f : Image_ → Bool) : (s.releaseImages f).tiles = s.tiles := rfl

section
variable {s : State} {c : Nat} {val : DWord} (hc : c < 64) (hw : s.pfWrite 0 = true)
include hc hw

/-- CTX_CTRL takes the write of the command that its row names. -/
theorem exec_ctxCtrlCreate (h : bits val.toNat 0 3 = 1) :
    exec (.ctxCtrlCreate 0 c val) s = .next ((s.fullWrite 0).ctxCreate c) := by
  have hb : bitAt val.toNat 0 = true := by simp [bitAt, bits] at h ⊢; omega
  simp [exec, execCtxCtrlCreate, State.ctxCtrl, hw, hb, h, Nat.not_le.mpr hc]

theorem exec_ctxCtrlKill (h : bits val.toNat 0 3 = 2) :
    exec (.ctxCtrlKill 0 c val) s = .next ((s.fullWrite 0).ctxKill c) := by
  have hb : bitAt val.toNat 1 = true := by simp [bitAt, bits] at h ⊢; omega
  simp [exec, execCtxCtrlKill, State.ctxCtrl, hw, hb, h, Nat.not_le.mpr hc]

theorem exec_ctxCtrlRelease (h : bits val.toNat 0 3 = 4) :
    exec (.ctxCtrlRelease 0 c val) s = .next ((s.fullWrite 0).ctxRelease c) := by
  have hb : bitAt val.toNat 2 = true := by simp [bitAt, bits] at h ⊢; omega
  simp [exec, execCtxCtrlRelease, State.ctxCtrl, hw, hb, h, Nat.not_le.mpr hc]

theorem exec_tlbInvalidate : exec (.tlbInvalidate 0 c val) s = .next ((s.fullWrite 0).tlbInv c val.toNat) := by
  simp [exec, execTlbInvalidate, hw, Nat.not_le.mpr hc]

end

/-- An update of one context is seen in that context alone. -/
theorem State.ctx_updCtx (s : State) (c : Nat) (f : Ctx → Ctx) (hc : c < s.cm.ctxs.length) :
    (s.updCtx c f).ctx c = f (s.ctx c) ∧ ∀ d, d ≠ c → (s.updCtx c f).ctx d = s.ctx d :=
  ⟨State.ctx_updCtx_same s c f hc, fun d h => State.ctx_updCtx_other s c d f (Ne.symm h)⟩

theorem State.ctxCreate_of_free {s : State} {c : Nat} (h : (s.ctx c).state = .free) (he : (s.part (s.ctx c).part).enabled = true) :
    s.ctxCreate c = (s.updCtx c fun x =>
      { x with state := .ready, record := none, quietSince := none, hostLines := List.replicate 16 0
               fabricLines := List.replicate 8 0 }).updPwr fun p => { p with ctxNj := p.ctxNj.set c 0 } := by
  simp [State.ctxCreate, h, he]

theorem State.ctxCreate_of_not_free {s : State} {c : Nat} (h : (s.ctx c).state ≠ .free) : s.ctxCreate c = s.ctxRefused c := by
  simp [State.ctxCreate, h]

theorem State.ctxKill_of_free {s : State} {c : Nat} (h : (s.ctx c).state = .free) : s.ctxKill c = s.ctxRefused c := by
  simp [State.ctxKill, h]

theorem State.ctxKill_of_ending {s : State} {c : Nat} (h : (s.ctx c).state = .killing ∨ (s.ctx c).state = .dead) : s.ctxKill c = s := by
  rcases h with h | h <;> simp [State.ctxKill, h]

theorem State.ctxRelease_of_dead {s : State} {c : Nat} (h : (s.ctx c).state = .dead) :
    s.ctxRelease c = (s.updCtx c fun x => { x with state := .free }).releaseImages fun i => i.ctx == c := by
  simp [State.ctxRelease, h]

theorem State.ctxRelease_of_not_dead {s : State} {c : Nat} (h : (s.ctx c).state ≠ .dead) : s.ctxRelease c = s.ctxRefused c := by
  simp [State.ctxRelease, h]

theorem State.tlbInv_of_busy {s : State} {c : Nat} (v : Nat) (h : (s.ctx c).tlb.busy = true) :
    s.tlbInv c v = s.updCtx c fun x => { x with tlb := { x.tlb with dropped := true } } := by
  simp [State.tlbInv, h]

/-- The invalidation of every translation of a context begins. -/
theorem State.tlbInv_all {s : State} {c v : Nat} (h : (s.ctx c).tlb.busy = false) (hv : bitAt v 63 = true) :
    s.tlbInv c v = (s.nwcDrop (s.ctx c).part).updCtx c fun x => { x with tlb := { x.tlb with busy := true, first := 0, bytes := 2 ^ 52 } } := by
  simp [State.tlbInv, h, hv]

/-- A context whose kill has begun takes no notice of KILL. -/
theorem kill_ignored {s : State} {c : Nat} {val : DWord} (hc : c < 64) (hw : s.pfWrite 0 = true) (hv : bits val.toNat 0 3 = 2)
    (hx : (s.ctx c).state = .killing ∨ (s.ctx c).state = .dead) : Completes (.ctxCtrlKill 0 c val) s fun t => t.cm = s.cm := by
  refine ⟨_, exec_ctxCtrlKill hc hw hv, ?_⟩
  rw [State.ctxKill_of_ending (s := s.fullWrite 0) hx]
  rfl

section
variable {s : State} {c : Nat} {val : DWord} (hlen : c < s.cm.ctxs.length) (hc : c < 64) (hw : s.pfWrite 0 = true)
include hlen hc hw

/-- CREATE makes a FREE context of an enabled partition READY, without record. -/
theorem create_readies (hv : bits val.toNat 0 3 = 1) (hx : (s.ctx c).state = .free) (he : (s.part (s.ctx c).part).enabled = true) :
    Completes (.ctxCtrlCreate 0 c val) s fun t => (t.ctx c).state = .ready ∧ (t.ctx c).record = none
      ∧ (t.ctx c).hostLines = List.replicate 16 0 ∧ (t.ctx c).part = (s.ctx c).part ∧ ∀ d, d ≠ c → t.ctx d = s.ctx d := by
  refine ⟨_, exec_ctxCtrlCreate hc hw hv, ?_⟩
  rw [State.ctxCreate_of_free (s := s.fullWrite 0) hx he]
  obtain ⟨same, other⟩ := State.ctx_updCtx (s.fullWrite 0) c (fun x =>
    { x with state := .ready, record := none, quietSince := none, hostLines := List.replicate 16 0
             fabricLines := List.replicate 8 0 }) hlen
  exact ⟨(congrArg Ctx.state same :), (congrArg Ctx.record same :), (congrArg Ctx.hostLines same :), (congrArg Ctx.part same :), other⟩

theorem create_refused (hv : bits val.toNat 0 3 = 1) (hx : (s.ctx c).state ≠ .free) :
    Completes (.ctxCtrlCreate 0 c val) s fun t => t.ctx c = { s.ctx c with refused := true } ∧ ∀ d, d ≠ c → t.ctx d = s.ctx d := by
  refine ⟨_, exec_ctxCtrlCreate hc hw hv, ?_⟩
  rw [State.ctxCreate_of_not_free (s := s.fullWrite 0) hx]
  exact State.ctxRefused_ctx (s.fullWrite 0) c hlen

/-- KILL starts the kill of a live context. -/
theorem kill_kills (hv : bits val.toNat 0 3 = 2) (hx : (s.ctx c).state.live = true) :
    Completes (.ctxCtrlKill 0 c val) s fun t => KillStarted t c 0x0F ∧ ∀ d, d ≠ c → t.ctx d = s.ctx d :=
  ⟨_, exec_ctxCtrlKill hc hw hv, State.ctxKill_live (s.fullWrite 0) c hx hlen⟩

theorem kill_refused (hv : bits val.toNat 0 3 = 2) (hx : (s.ctx c).state = .free) :
    Completes (.ctxCtrlKill 0 c val) s fun t => t.ctx c = { s.ctx c with refused := true } ∧ ∀ d, d ≠ c → t.ctx d = s.ctx d := by
  refine ⟨_, exec_ctxCtrlKill hc hw hv, ?_⟩
  rw [State.ctxKill_of_free (s := s.fullWrite 0) hx]
  exact State.ctxRefused_ctx (s.fullWrite 0) c hlen

/-- RELEASE makes a DEAD context FREE. -/
theorem release_frees (hv : bits val.toNat 0 3 = 4) (hx : (s.ctx c).state = .dead) :
    Completes (.ctxCtrlRelease 0 c val) s fun t => t.ctx c = { s.ctx c with state := .free } ∧ ∀ d, d ≠ c → t.ctx d = s.ctx d := by
  refine ⟨_, exec_ctxCtrlRelease hc hw hv, ?_⟩
  rw [State.ctxRelease_of_dead (s := s.fullWrite 0) hx]
  exact State.ctx_updCtx (s.fullWrite 0) c (fun x => { x with state := .free }) hlen

theorem release_refused (hv : bits val.toNat 0 3 = 4) (hx : (s.ctx c).state ≠ .dead) :
    Completes (.ctxCtrlRelease 0 c val) s fun t => t.ctx c = { s.ctx c with refused := true } ∧ ∀ d, d ≠ c → t.ctx d = s.ctx d := by
  refine ⟨_, exec_ctxCtrlRelease hc hw hv, ?_⟩
  rw [State.ctxRelease_of_not_dead (s := s.fullWrite 0) hx]
  exact State.ctxRefused_ctx (s.fullWrite 0) c hlen

/-- An invalidation of every translation starts where none runs. -/
theorem tlbInvalidate_starts (hb : (s.ctx c).tlb.busy = false) (hv : bitAt val.toNat 63 = true) :
    Completes (.tlbInvalidate 0 c val) s fun t => (t.ctx c).tlb = { (s.ctx c).tlb with busy := true, first := 0, bytes := 2 ^ 52 }
      ∧ (t.ctx c).state = (s.ctx c).state ∧ (∀ d, d ≠ c → t.ctx d = s.ctx d) ∧ t.mem = s.mem := by
  refine ⟨_, exec_tlbInvalidate hc hw, ?_⟩
  rw [State.tlbInv_all (s := s.fullWrite 0) hb hv]
  obtain ⟨same, other⟩ := State.ctx_updCtx ((s.fullWrite 0).nwcDrop (s.ctx c).part) c
    (fun x => { x with tlb := { x.tlb with busy := true, first := 0, bytes := 2 ^ 52 } }) hlen
  exact ⟨(congrArg Ctx.tlb same :), (congrArg Ctx.state same :), other, rfl⟩

theorem tlbInvalidate_dropped (hb : (s.ctx c).tlb.busy = true) :
    Completes (.tlbInvalidate 0 c val) s fun t => t.ctx c = { s.ctx c with tlb := { (s.ctx c).tlb with dropped := true } }
      ∧ (∀ d, d ≠ c → t.ctx d = s.ctx d) ∧ t.mem = s.mem := by
  refine ⟨_, exec_tlbInvalidate hc hw, ?_⟩
  rw [State.tlbInv_of_busy (s := s.fullWrite 0) _ hb]
  obtain ⟨same, other⟩ := State.ctx_updCtx (s.fullWrite 0) c (fun x => { x with tlb := { x.tlb with dropped := true } }) hlen
  exact ⟨same, other, rfl⟩

end

/-- The CtxKill command of the dictionary kills a live context. -/
theorem ctxKill_kills {s : State} {c : Nat} (hlen : c < s.cm.ctxs.length) (hc : c < 64) (hs : s.serving = true)
    (hk : s.cmdCheck (0x3100 + c) 1 0 = 0) (hx : (s.ctx c).state.live = true) :
    Completes (.ctxKill c 1) s fun t => KillStarted t c 0x0F ∧ ∀ d, d ≠ c → t.ctx d = s.ctx d := by
  have hf : (s.ctx c).state ≠ .free := fun h => by rw [h] at hx; exact absurd hx (by decide)
  have he : exec (.ctxKill c 1) s = .next ((s.ctxKill c).answerWrite (0x3100 + c) 4 0 1 1) := by
    simp [exec, execCtxKill, State.ctxKillCmd, State.command, reservedUnless, Nat.not_le.mpr hc, hs, hk, hf]
  refine ⟨_, he, ?_⟩
  have hctx (d : Nat) : ((s.ctxKill c).answerWrite (0x3100 + c) 4 0 1 1).ctx d = (s.ctxKill c).ctx d := by
    simp [State.ctx]
  simpa only [KillStarted, hctx] using State.ctxKill_live s c hx hlen

/-- A host event post adds 1 to each line of its mask, and changes nothing else of the contexts. -/
theorem hostEventPost_adds {s : State} {fn c : Nat} {val : DWord} (hlen : c < s.cm.ctxs.length) (hc : c < 64)
    (he : s.endpoint fn = true) (hp : s.powered = true) (hm : s.mayCtx fn c = true) :
    Completes (.hostEventPost fn c val) s fun t => (∀ d, d ≠ c → t.ctx d = s.ctx d)
      ∧ t.ctx c = { s.ctx c with hostLines := (t.ctx c).hostLines }
      ∧ ∀ i, (t.ctx c).hostLines[i]? = (s.ctx c).hostLines[i]?.map fun w => if bitAt (bits val.toNat 0 16) i then w + 1 else w := by
  have hx : exec (.hostEventPost fn c val) s = .next ((s.fullWrite fn).hostEvents c (bits val.toNat 0 16)) := by
    simp [exec, execHostEventPost, he, hp, hm, Nat.not_le.mpr hc]
  obtain ⟨same, other⟩ := State.ctx_updCtx (s.fullWrite fn) c (fun x => { x with
    hostLines := x.hostLines.mapIdx fun i v => if bitAt (bits val.toNat 0 16) i then v + 1 else v }) hlen
  refine ⟨_, hx, other, ?_, fun i => ?_⟩
  · unfold State.hostEvents
    rw [same]
    rfl
  · unfold State.hostEvents
    rw [same]
    exact List.getElem?_mapIdx ..

/-! ## FAULT_ARRIVAL and EVENT_DEADLOCK (R17–R19, R71–R73, R79, R82) -/

theorem powered_of_clocked {s : State} (h : s.clocked = true) : s.powered = true := by
  simp only [State.clocked, Bool.and_eq_true] at h
  obtain ⟨⟨hr, -⟩, ht⟩ := h
  simp [State.powered, hr, ht]

/-- The one fault under way reaches the context manager. -/
theorem exec_faultArrival_one {s : State} {f : FaultInfo} (hp : s.powered = true) (hq : s.cm.faultQ = [f]) :
    exec (.faultArrival 1) s = .next ((s.updCm fun m => { m with faultQ := [] }).acceptFaults [f]) := by
  simp [exec, execFaultArrival, hp, hq, State.updCm]

/-- The one fault under way starts the kill of a live context. -/
theorem faultArrival_kills {s : State} {c : Nat} {f : FaultInfo} (hlen : c < s.cm.ctxs.length) (hp : s.powered = true)
    (hq : s.cm.faultQ = [f]) (hf : f.ctx = c) (hx : (s.ctx c).state.live = true) :
    Completes (.faultArrival 1) s fun t =>
      KillStarted t c f.code ∧ t.cm.faultQ = [] ∧ t.cm.ctxKills = s.cm.ctxKills + 1 ∧ t.cm.faultSeq = (s.cm.faultSeq + 1) % 2 ^ 32 := by
  subst hf
  obtain ⟨hk, -, hfq, hn, hseq, -⟩ := State.startKill_live (s.updCm fun m => { m with faultQ := [] }) f hx hlen
  exact ⟨_, exec_faultArrival_one hp hq, hk, hfq, hn, hseq⟩

/-- A fault of the own work of a context that is being killed is counted in its record. -/
theorem faultArrival_counts {s : State} {c : Nat} {f : FaultInfo} {r : FaultRec} (hlen : c < s.cm.ctxs.length) (hp : s.powered = true)
    (hq : s.cm.faultQ = [f]) (hf : f.ctx = c) (hx : (s.ctx c).state = .killing) (ho : f.own = true) (hr : (s.ctx c).record = some r) :
    Completes (.faultArrival 1) s fun t =>
      t.ctx c = { s.ctx c with record := some { r with secondary := min (r.secondary + 1) 255 } } ∧ t.cm.faultQ = []
        ∧ ∀ d, d ≠ c → t.ctx d = s.ctx d := by
  subst hf
  refine ⟨_, exec_faultArrival_one hp hq, ?_⟩
  rw [State.acceptFaults_killing (s := s.updCm fun m => { m with faultQ := [] }) hx ho]
  obtain ⟨same, other⟩ := State.ctx_updCtx (s.updCm fun m => { m with faultQ := [] }) f.ctx Ctx.countSecondary hlen
  have hs : (s.ctx f.ctx).countSecondary = { s.ctx f.ctx with record := some { r with secondary := min (r.secondary + 1) 255 } } := by
    simp [Ctx.countSecondary, hr]
  exact ⟨same.trans hs, rfl, other⟩

/-- A fault of the own work of a DEAD context is discarded and counted. -/
theorem faultArrival_late {s : State} {c : Nat} {f : FaultInfo} (hp : s.powered = true) (hq : s.cm.faultQ = [f]) (hf : f.ctx = c)
    (hx : (s.ctx c).state = .dead) (ho : f.own = true) :
    exec (.faultArrival 1) s = .next { s with cm := { s.cm with faultQ := [], lateArrivals := s.cm.lateArrivals + 1 } } := by
  subst hf
  rw [exec_faultArrival_one hp hq, State.acceptFaults_dead (s := s.updCm fun m => { m with faultQ := [] }) hx ho]
  rfl

/-- A quiet window that is open stays as it is while the context is quiet. -/
theorem State.watch_quiet {s : State} {c t0 : Nat} (hlen : c < s.cm.ctxs.length) (hq : s.quiet c = true)
    (h0 : (s.ctx c).quietSince = some t0) : (s.watch c).ctx c = s.ctx c := by
  have hkept : (if s.quiet c then some ((s.ctx c).quietSince.getD s.now) else none) = (s.ctx c).quietSince := by simp [hq, h0]
  exact (State.ctx_updCtx_same s c _ hlen).trans (congrArg (fun q => { s.ctx c with quietSince := q }) hkept)

/-- A context that is not quiet has no quiet window. -/
theorem State.watch_not_quiet {s : State} {c : Nat} (hq : s.quiet c = false) :
    s.watch c = s.updCtx c fun x => { x with quietSince := none } := by
  simp [State.watch, hq]

section
variable {s : State} {c now : Nat} (hlen : c < s.cm.ctxs.length) (hc : c < 64) (hk : s.clocked = true) (hx : (s.ctx c).state.live = true)
include hlen hc hk hx

/-- The check of a context that is quiet and has been for 100 µs kills it with EVENT_DEADLOCK. -/
theorem eventDeadlock_kills {t0 : Nat} (hq : (s.at now).quiet c = true) (h0 : (s.ctx c).quietSince = some t0)
    (ht : t0 + 100000 ≤ max s.now now) :
    Completes (.eventDeadlock now c) s fun t => KillStarted t c 0x08 ∧ t.cm.eventDeadlocks = s.cm.eventDeadlocks + 1 := by
  have hk' : (s.at now).clocked = true := hk
  have hl : (s.at now).live c = true := hx
  have hw : ((s.at now).watch c).ctx c = s.ctx c := State.watch_quiet (s := s.at now) hlen hq h0
  have hn : ¬((s.at now).watch c).now < t0 + 100000 := Nat.not_lt.mpr ht
  have hlen' : c < ((s.at now).watch c).cm.ctxs.length := by simpa [State.watch, State.updCtx] using hlen
  have he : ∃ n, exec (.eventDeadlock now c) s
      = .next (((s.at now).watch c).acceptFaults [{ code := 0x08, ctx := c, unit := 6, detail := n }]) := by
    simp only [exec, execEventDeadlock, hk', hl, hw, h0, hn, Nat.not_le.mpr hc, Bool.not_true, decide_false, Bool.or_self,
      Bool.false_eq_true, if_false]
    exact ⟨_, rfl⟩
  obtain ⟨n, he⟩ := he
  obtain ⟨h1, -, -, -, -, h2⟩ := State.startKill_live ((s.at now).watch c) { code := 0x08, ctx := c, unit := 6, detail := n }
    (by simpa only [State.live, hw] using hx) hlen'
  exact ⟨_, he, h1, h2⟩

/-- The check of a context that is not quiet ends its window and kills nothing. -/
theorem eventDeadlock_ends (hq : (s.at now).quiet c = false) :
    Completes (.eventDeadlock now c) s fun t =>
      t.ctx c = { s.ctx c with quietSince := none } ∧ (∀ d, d ≠ c → t.ctx d = s.ctx d) ∧ t.cm.ctxKills = s.cm.ctxKills := by
  have hk' : (s.at now).clocked = true := hk
  have hl : (s.at now).live c = true := hx
  obtain ⟨same, other⟩ := State.ctx_updCtx (s.at now) c (fun x => { x with quietSince := none }) hlen
  refine ⟨_, ?_, same, other, rfl⟩
  simp only [exec, execEventDeadlock, hk', hl, State.watch_not_quiet hq, Nat.not_le.mpr hc, same, Bool.not_true, decide_false,
    Bool.or_self, Bool.false_eq_true, if_false]

end

/-! ## The end of an invalidation (R157, R159) -/

/-- An invalidation ends where the context has nothing outstanding, and leaves no translation of its range. -/
theorem tlbInvalidateComplete_ends {s : State} {c : Nat} (hlen : c < s.cm.ctxs.length) (hc : c < 64) (hk : s.clocked = true)
    (hb : (s.ctx c).tlb.busy = true) (hs : s.buffered c = false)
    (ht : ∀ u ∈ s.tiles, (∀ r ∈ u.loads, r.ctx ≠ c) ∧ ∀ l ∈ u.port.lines, l.ctx ≠ c) :
    Completes (.tlbInvalidateComplete c) s fun t =>
      (t.ctx c).tlb = { (s.ctx c).tlb with busy := false } ∧ (∀ d, d ≠ c → t.ctx d = s.ctx d)
        ∧ t.cm.tlbInvalidations = s.cm.tlbInvalidations + 1
        ∧ ∀ e, e ∈ t.mem.tlb ↔ e ∈ s.mem.tlb
            ∧ (e.ctx ≠ c ∨ rangesMeet e.leaf.va e.leaf.size (s.ctx c).tlb.first (s.ctx c).tlb.bytes = false) := by
  obtain ⟨same, other⟩ := State.ctx_updCtx s c (fun x => { x with tlb := { x.tlb with busy := false } }) hlen
  have hidle : s.anyTile (fun x => x.loads.any (fun r => r.ctx == c && r.lanes.any fun l =>
        rangesMeet l.va r.bytes (s.ctx c).tlb.first (s.ctx c).tlb.bytes)
      || x.port.lines.any fun l => l.ctx == c && rangesMeet (l.va) 128 (s.ctx c).tlb.first (s.ctx c).tlb.bytes) = false := by
    simp only [State.anyTile, List.any_eq_false, Bool.or_eq_true, List.any_eq_true, Bool.and_eq_true, beq_iff_eq]
    rintro u hu (⟨r, hr, h, -⟩ | ⟨l, hl, h, -⟩)
    · exact (ht u hu).1 r hr h
    · exact (ht u hu).2 l hl h
  have he : exec (.tlbInvalidateComplete c) s
      = .next (((s.updCtx c fun x => { x with tlb := { x.tlb with busy := false } }).updMem fun m => { m with
          tlb := m.tlb.filter fun e => e.ctx != c || !rangesMeet e.leaf.va e.leaf.size (s.ctx c).tlb.first (s.ctx c).tlb.bytes }).updCm
            fun m => { m with tlbInvalidations := m.tlbInvalidations + 1 }) := by
    simp only [exec, execTlbInvalidateComplete, hk, hs, hb, hidle, Nat.not_le.mpr hc, Bool.not_true, decide_false, Bool.or_self,
      Bool.false_eq_true, if_false]
  exact ⟨_, he, (congrArg Ctx.tlb same :), other, rfl, fun e => by simp [State.updCtx]⟩

/-! ## The end of a kill (R72, R188, R288) -/

/-- The state without its Armatures: what the walk of visits leaves unchanged. -/
def State.withoutArm (s : State) : State := { s with arm := {} }

@[simp] theorem State.updArms_withoutArm (s : State) (f : ArmEng → ArmEng) : (s.updArms f).withoutArm = s.withoutArm := rfl
@[simp] theorem State.updArm_withoutArm (s : State) (n : Nat) (f : Arm → Arm) : (s.updArm n f).withoutArm = s.withoutArm := rfl
@[simp] theorem State.armCount_withoutArm (s : State) (a i n : Nat) : (s.armCount a i n).withoutArm = s.withoutArm := rfl
@[simp] theorem State.armTests_withoutArm (s : State) (a i c n : Nat) : (s.armTests a i c n).withoutArm = s.withoutArm := rfl
@[simp] theorem State.gcImages_withoutArm (s : State) : s.gcImages.withoutArm = s.withoutArm := rfl
@[simp] theorem State.releaseImages_withoutArm (s : State) (f : Image_ → Bool) : (s.releaseImages f).withoutArm = s.withoutArm := rfl

@[simp] theorem State.walkImages_withoutArm (a : Nat) :
    ∀ (fuel : Nat) (s : State) (v : Visit), (s.walkImages a fuel v).1.withoutArm = s.withoutArm := by
  intro fuel
  induction fuel with
  | zero => intro s v; rfl
  | succ fuel ih =>
    intro s v
    unfold State.walkImages
    repeat' split
    all_goals simp [ih]

@[simp] theorem State.settleVisit_withoutArm (s : State) (a : Nat) (v : Visit) : (s.settleVisit a v).withoutArm = s.withoutArm := by
  have h := State.walkImages_withoutArm a 16384 s v
  unfold State.settleVisit
  split <;> simp_all

@[simp] theorem State.forward_withoutArm (s : State) (a : Nat) (v : Visit) : (s.forward a v).withoutArm = s.withoutArm := by
  unfold State.forward
  simp only
  split <;> simp

theorem State.fillVisits_withoutArm (a : Nat) : ∀ (fuel : Nat) (s : State), (s.fillVisits a fuel).withoutArm = s.withoutArm := by
  intro fuel
  induction fuel with
  | zero => intro s; rfl
  | succ fuel ih =>
    intro s
    unfold State.fillVisits
    simp only
    split
    · rfl
    · split
      · rfl
      · rw [ih]
        split <;> simp [State.startVisit]

/-- The start of waiting visits changes the Armatures alone. -/
@[simp] theorem State.startWaiting_withoutArm (s : State) (a : Nat) : (s.startWaiting a).withoutArm = s.withoutArm :=
  State.fillVisits_withoutArm a _ s

theorem map_modify_of_keeps {α β : Type} (g : α → β) (f : α → α) (h : ∀ x, g (f x) = g x) (l : List α) (i : Nat) :
    (l.modify i f).map g = l.map g := by
  refine List.ext_getElem? fun j => ?_
  rw [List.getElem?_map, List.getElem?_modify, List.getElem?_map]
  cases l[j]? with
  | none => rfl
  | some x => by_cases hj : i = j <;> simp [hj, h]

/-- What of a tile's work is a context's: its blocks, its TCU slots and the blocks that wait. -/
def Tile.work (t : Tile) : List Block × List Tcu × List WaitBlock := (t.blocks, t.tcus, t.waiting)

/-- The work of contexts that the end of a kill takes away, and the number of contexts. -/
def State.work (s : State) : Nat × List Launch × List Copy × List (List Block × List Tcu × List WaitBlock) :=
  (s.cm.ctxs.length, s.cm.launches, s.cm.copies, s.tiles.map Tile.work)

/-- The work is no part of the Armatures. -/
theorem State.work_of_withoutArm {s t : State} (h : t.withoutArm = s.withoutArm) : t.work = s.work :=
  (congrArg State.work h :)

theorem State.updTile_work (s : State) (t : Nat) (f : Tile → Tile) (h : ∀ x, (f x).work = x.work) : (s.updTile t f).work = s.work := by
  simp [State.work, map_modify_of_keeps Tile.work f h]

@[simp] theorem State.rewayTile_work (s : State) (t : Nat) : (s.rewayTile t).work = s.work := State.updTile_work _ _ _ fun _ => rfl
@[simp] theorem State.updCtx_work (s : State) (c : Nat) (f : Ctx → Ctx) : (s.updCtx c f).work = s.work := by
  simp [State.work, State.updCtx]
@[simp] theorem State.stirWaiting_work (s : State) (t : Nat) : (s.stirWaiting t).work = s.work :=
  State.each_keeps State.work (fun c s => State.updCtx_work s c _) _ _
@[simp] theorem State.paceEnd_work (s : State) (c l : Nat) : (s.paceEnd c l).work = s.work := by
  unfold State.paceEnd
  simp only
  split
  · rfl
  · split <;> rfl
@[simp] theorem State.updPart_work (s : State) (p : Nat) (f : Part → Part) : (s.updPart p f).work = s.work := rfl
@[simp] theorem State.updPwrPart_work (s : State) (p : Nat) (f : PwrPart → PwrPart) : (s.updPwrPart p f).work = s.work := rfl
@[simp] theorem State.post_work (s : State) (m : PcieMsg) : (s.post m).work = s.work := by simp [State.work]
@[simp] theorem State.msix_work (s : State) (p : Option Nat) (v : Nat) : (s.msix p v).work = s.work := by simp [State.work]
@[simp] theorem State.startWaiting_work (s : State) (a : Nat) : (s.startWaiting a).work = s.work :=
  State.work_of_withoutArm (s.startWaiting_withoutArm a)
@[simp] theorem State.releaseImages_work (s : State) (f : Image_ → Bool) : (s.releaseImages f).work = s.work := rfl

theorem State.updStrCnt_cm (s : State) (num : Nat) (f : StrCnt → StrCnt) : (s.updStrCnt num f).cm = s.cm := rfl
theorem State.localWrite_cm (s : State) (t a : Nat) (l : List Byte) : (s.localWrite t a l).cm = s.cm := rfl

@[simp] theorem State.updStream_cm (s : State) (num : Nat) (f : Stream → Stream) : (s.updStream num f).cm = s.cm := by
  unfold State.updStream
  split
  · rfl
  · simp only [apply_ite State.cm, State.updStrCnt_cm, State.localWrite_cm, State.updStr_cm, ite_self]

@[simp] theorem State.dropStream_cm (s : State) (x : Stream) : (s.dropStream x).cm = s.cm := by
  simp only [State.dropStream, apply_ite State.cm, State.updStream_cm, State.updStr_cm, ite_self]

/-- What the end of commands leaves of the context manager: the number of contexts, the launches and the copies. -/
def CtxMgr.jobs (m : CtxMgr) : Nat × List Launch × List Copy := (m.ctxs.length, m.launches, m.copies)

theorem State.queueDone_jobs (s : State) (q id seq : Nat) (done : Bool) : (s.queueDone q id seq done).cm.jobs = s.cm.jobs := rfl

/-- After the purge of a context the tiles are purged tiles, and its launches and copies are gone. -/
theorem State.purge_work (s : State) (c : Nat) : ∃ (ts : List Tile) (ls : List Nat), (s.purge c).work
    = (s.cm.ctxs.length, s.cm.launches.filter (·.ctx != c), s.cm.copies.filter (·.ctx != c), ts.map fun t => (t.purge c ls).work) := by
  have ended (ls : List Launch) (ks : List Copy) :
      ((s.each ls fun l s => s.queueDone l.queue l.id l.seq false).each ks fun k s => s.queueDone k.queue k.id k.seq false).cm.jobs
        = s.cm.jobs :=
    (State.each_keeps (fun s => s.cm.jobs) (fun (k : Copy) s => s.queueDone_jobs k.queue k.id k.seq false) ks _).trans
      (State.each_keeps (fun s => s.cm.jobs) (fun (l : Launch) s => s.queueDone_jobs l.queue l.id l.seq false) ls s)
  have dropped (l : List Stream) (s : State) : (s.each l fun x s => s.dropStream x).cm = s.cm :=
    State.each_keeps (fun s => s.cm) (fun x (s : State) => s.dropStream_cm x) l s
  unfold State.purge
  simp only [State.each_keeps State.work (fun l (s : State) => s.paceEnd_work c l),
    State.each_keeps State.work (fun a (s : State) => s.startWaiting_work a), State.releaseImages_work]
  rw [State.each_keeps State.work (f := fun t s => (s.rewayTile t).stirWaiting t) (fun t s => by simp)]
  simp only [State.work, State.updMem_cm, State.updMem_tiles, State.updTiles_cm, State.updTiles_tiles, dropped, State.updCm_cm, List.map_map]
  have hj := ended (s.cm.launches.filter (·.ctx == c)) ((s.each (s.cm.launches.filter (·.ctx == c)) fun l s =>
    s.queueDone l.queue l.id l.seq false).cm.copies.filter (·.ctx == c))
  exact ⟨_, _, Prod.ext (congrArg (·.1) hj) (Prod.ext (congrArg (fun j => j.2.1.filter (·.ctx != c)) hj)
    (Prod.ext (congrArg (fun j => j.2.2.filter (·.ctx != c)) hj) rfl))⟩

/-- A purged tile has no block of the context, no slot that works for it, and no block of it that waits. -/
theorem Tile.purge_free (t : Tile) (c : Nat) (ls : List Nat) :
    (∀ b ∈ (t.purge c ls).work.1, b.ctx ≠ c) ∧ (∀ y ∈ (t.purge c ls).work.2.1, y.ctx = c → y.state = .free)
      ∧ ∀ w ∈ (t.purge c ls).work.2.2, w.ctx ≠ c := by
  refine ⟨fun b hb => ?_, fun y hy hc => ?_, fun w hw => ?_⟩
  · simpa using (List.mem_filter.mp hb).2
  · obtain ⟨u, -, rfl⟩ := List.mem_map.mp hy
    by_cases hu : u.ctx = c
    · simp [hu]
    · simp [hu] at hc
  · simpa using (List.mem_filter.mp hw).2

/-- After the purge the end of a kill makes the context DEAD; beside that it sets partition, power and host link registers. -/
theorem State.killEnd_eq (s : State) (c : Nat) : ∃ s1 : State, s1.work = (s.purge c).work
    ∧ (s.killEnd c).cm = (s1.updCtx c fun x => { x with state := .dead, ran := false }).cm ∧ (s.killEnd c).tiles = s1.tiles := by
  unfold State.killEnd
  generalize s.purge c = p
  dsimp only
  repeat' split
  all_goals
    refine ⟨_, ?_, State.msix_cm _ _ _, ?_⟩
    · simp only [State.post_work, State.updPart_work, State.updPwrPart_work]
    · simp only [State.updHst_tiles, State.msix_tiles, State.updCtx_frame]

/-- The end of a kill leaves of the work what the purge does, and the context is DEAD. -/
theorem State.killEnd_work (s : State) (c : Nat) (hlen : c < s.cm.ctxs.length) :
    (s.killEnd c).work = (s.purge c).work ∧ ((s.killEnd c).ctx c).state = .dead := by
  obtain ⟨s1, hw, hcm, ht⟩ := State.killEnd_eq s c
  have hl : s1.work.1 = s.cm.ctxs.length := by
    obtain ⟨ts, ls, hp⟩ := State.purge_work s c
    rw [hw, hp]
  constructor
  · rw [← hw, ← State.updCtx_work s1 c fun x => { x with state := .dead, ran := false }]
    simp only [State.work, hcm, ht]
    rfl
  · rw [State.ctx, hcm]
    exact congrArg Ctx.state (State.ctx_updCtx_same s1 c (fun x => { x with state := .dead, ran := false }) (Nat.lt_of_lt_of_eq hlen hl.symm))

/-- KILL_COMPLETE of a context that is being killed and has no store left. -/
theorem killComplete_ends {s : State} {c : Nat} (hlen : c < s.cm.ctxs.length) (hc : c < 64) (hk : s.clocked = true)
    (hx : (s.ctx c).state = .killing) (hs : s.storesLeft c = false) :
    Completes (.killComplete c) s fun t =>
      (t.ctx c).state = .dead ∧ (∀ l ∈ t.cm.launches, l.ctx ≠ c) ∧ (∀ k ∈ t.cm.copies, k.ctx ≠ c)
        ∧ ∀ u ∈ t.tiles, (∀ b ∈ u.blocks, b.ctx ≠ c) ∧ (∀ y ∈ u.tcus, y.ctx = c → y.state = .free) ∧ ∀ w ∈ u.waiting, w.ctx ≠ c := by
  have he : exec (.killComplete c) s = .next (s.killEnd c) := by
    simp [exec, execKillComplete, hk, hx, hs, Nat.not_le.mpr hc]
  obtain ⟨hw, hdead⟩ := State.killEnd_work s c hlen
  obtain ⟨ts, ls, hp⟩ := State.purge_work s c
  obtain ⟨-, hl, hcopies, ht⟩ : _ ∧ (s.killEnd c).cm.launches = _ ∧ (s.killEnd c).cm.copies = _ ∧ (s.killEnd c).tiles.map Tile.work = _ := by
    simpa only [State.work, Prod.mk.injEq] using hw.trans hp
  refine ⟨_, he, hdead, fun l h => ?_, fun k h => ?_, fun u hu => ?_⟩
  · rw [hl] at h
    simpa using (List.mem_filter.mp h).2
  · rw [hcopies] at h
    simpa using (List.mem_filter.mp h).2
  · have hu' := List.mem_map_of_mem (f := Tile.work) hu
    rw [ht] at hu'
    obtain ⟨t, -, h⟩ := List.mem_map.mp hu'
    have hfree := Tile.purge_free t c ls
    rw [h] at hfree
    exact hfree

/-- Settles O36, one lemma for each command and state of the context. -/
theorem contextsAreMadeKilledAndFreed : Obligations.ContextsAreMadeKilledAndFreed := by
  intro s c hlen hc x others
  refine ⟨fun val hw => ⟨fun hv => ⟨?_, ?_⟩, fun hv => ⟨?_, ?_, ?_⟩, fun hv => ⟨?_, ?_⟩, ?_, ?_⟩, ?_, fun fn val => ?_, fun hk => ?_⟩
  · exact create_readies hlen hc hw hv
  · exact create_refused hlen hc hw hv
  · exact kill_kills hlen hc hw hv
  · exact kill_refused hlen hc hw hv
  · exact kill_ignored hc hw hv
  · exact release_frees hlen hc hw hv
  · exact release_refused hlen hc hw hv
  · exact tlbInvalidate_starts hlen hc hw
  · exact tlbInvalidate_dropped hlen hc hw
  · exact ctxKill_kills hlen hc
  · exact hostEventPost_adds hlen hc
  · have hp := powered_of_clocked hk
    refine ⟨fun f hq hf => ⟨?_, fun hx ho r hr => ?_, ?_⟩, ?_, fun now hx => ⟨fun t0 => ?_, ?_⟩, ?_⟩
    · exact faultArrival_kills hlen hp hq hf
    · exact faultArrival_counts hlen hp hq hf hx ho hr
    · exact faultArrival_late hp hq hf
    · exact killComplete_ends hlen hc hk
    · exact eventDeadlock_kills hlen hc hk hx
    · exact eventDeadlock_ends hlen hc hk hx
    · exact tlbInvalidateComplete_ends hlen hc hk

/-! ## What a Chisel cycle leaves of a tile -/

/-- A view of a tile that an update of one tile keeps is the same of every tile. -/
theorem State.tile_updTile_keeps {β : Type} (g : Tile → β) (s : State) (t u : Nat) {f : Tile → Tile} (h : ∀ x, g (f x) = g x) :
    g ((s.updTile t f).tile u) = g (s.tile u) := by
  by_cases htu : t = u
  · subst htu
    by_cases hl : t < s.tiles.length
    · rw [State.tile_updTile_same s t f hl, h]
    · simp [State.tile, State.updTile, List.getD_eq_getElem?_getD, hl]
  · rw [State.tile_updTile_other s t u f htu]

/-- A tile without what Chisel works on: its own state, the local memory and the activity counts. -/
def Tile.shell (t : Tile) : Tile := { t with chs := {}, localMem := [], acts := [] }

/-- A tile of the state without what Chisel works on. -/
def State.shell (s : State) (u : Nat) : Tile := (s.tile u).shell

section
variable (s : State) (u tile : Nat)

@[simp] theorem State.updChs_shell (f : Chisel → Chisel) : (s.updChs tile f).shell u = s.shell u :=
  State.tile_updTile_keeps Tile.shell s tile u fun _ => rfl
@[simp] theorem State.updOp_shell (id : Nat) (f : ChiselOp → ChiselOp) : (s.updOp tile id f).shell u = s.shell u :=
  State.updChs_shell s u tile _
@[simp] theorem State.chsCount_shell (i : Nat) : (s.chsCount tile i).shell u = s.shell u := State.updChs_shell s u tile _
@[simp] theorem State.act_shell (c j n : Nat) : (s.act tile c j n).shell u = s.shell u :=
  State.tile_updTile_keeps Tile.shell s tile u fun _ => rfl
@[simp] theorem State.localWrite_shell (a : Nat) (l : List Byte) : (s.localWrite tile a l).shell u = s.shell u :=
  State.tile_updTile_keeps Tile.shell s tile u fun _ => rfl
@[simp] theorem State.updStr_shell (f : StrEng → StrEng) : (s.updStr f).shell u = s.shell u := rfl
@[simp] theorem State.updStrCnt_shell (num : Nat) (f : StrCnt → StrCnt) : (s.updStrCnt num f).shell u = s.shell u := rfl

@[simp] theorem State.drainRows_shell (o : ChiselOp) : (s.drainRows tile o).shell u = s.shell u :=
  State.each_keeps (State.shell · u) (fun _ s => State.localWrite_shell s u tile _ _) _ _

@[simp] theorem State.updStream_shell (num : Nat) (f : Stream → Stream) : (s.updStream num f).shell u = s.shell u := by
  unfold State.updStream
  split
  · rfl
  · simp only [apply_ite (State.shell · u), State.updStrCnt_shell, State.localWrite_shell, State.updStr_shell, ite_self]

@[simp] theorem State.acquire_shell (num : Nat) : (s.acquire num).shell u = s.shell u := State.updStream_shell s u num _
@[simp] theorem State.release_shell (num i : Nat) : (s.release num i).shell u = s.shell u := State.updStream_shell s u num _

@[simp] theorem State.takeSlot_shell (o : ChiselOp) : (s.takeSlot tile o).shell u = s.shell u := by
  unfold State.takeSlot
  split
  · split <;> simp
  · rfl

@[simp] theorem State.offer_shell (id : Nat) : (s.offer tile id).shell u = s.shell u := by
  unfold State.offer
  split
  · rfl
  · split <;> simp

@[simp] theorem State.sliceUsed_shell (o : ChiselOp) : (s.sliceUsed tile o).shell u = s.shell u := by
  simp only [State.sliceUsed, State.updOp_shell]
  split
  · split
    · split <;> simp
    · simp
  · split <;> simp

@[simp] theorem State.opCycle_shell (o : ChiselOp) (mac : Bool) : (s.opCycle tile o mac).shell u = s.shell u := by
  unfold State.opCycle
  split
  · simp [apply_ite (State.shell · u)]
  · simp [apply_ite (State.shell · u)]
  · simp
  · simp [apply_ite (State.shell · u)]
  · dsimp only
    repeat' split
    all_goals simp
  · simp
  · rfl

@[simp] theorem State.chiselCycle_shell : (s.chiselCycle tile).shell u = s.shell u := by
  simp only [State.chiselCycle, State.updChs_shell]
  split
  · simp
  · split <;> simp

@[simp] theorem State.engineCycle_tiles : (s.engineCycle tile).tiles = s.tiles := by
  simp only [State.engineCycle]
  repeat' split
  all_goals rfl

/-- Whether an instruction waits to take effect is the same after droop stretching, the Chisel cycle and the ray engines' cycle. -/
theorem State.cycle_issued : ((((s.stretchCycle tile).chiselCycle tile).engineCycle tile).tile u).issued = (s.tile u).issued := by
  have hs : ((s.stretchCycle tile).tile u).issued = (s.tile u).issued := by
    simp only [State.stretchCycle]
    split
    · rfl
    · split
      · rfl
      · exact State.tile_updTile_keeps Tile.issued s tile u fun _ => rfl
  rw [State.tile, State.engineCycle_tiles]
  exact (congrArg Tile.issued (State.chiselCycle_shell (s.stretchCycle tile) u tile) :).trans hs

end

/-! ## What a tile's own state does not change: translation and the causes of a stall -/

/-- A translation reads no tile. -/
theorem State.translate_updTile (s : State) (t : Nat) (f : Tile → Tile) (ag : Agent) (c va : Nat) :
    ((s.updTile t f).translate ag c va).2 = (s.translate ag c va).2 := by
  unfold State.translate
  rw [State.updTile_mem, State.ctx_updTile]
  split
  · rfl
  · generalize s.mem.walk va walkLevels (s.ctx c).root = w
    obtain ⟨m, r⟩ := w
    dsimp only
    generalize m.tlb.find? _ = held
    cases held with
    | none => cases r <;> rfl
    | some e =>
      rw [State.updTile_freeCount]
      generalize Config.choice s.freeCount = b
      cases r with
      | error x => cases b <;> rfl
      | ok l =>
        dsimp only
        split
        · rfl
        · cases b <;> rfl

theorem State.resolve_updTile (s : State) (t : Nat) (f : Tile → Tile) (ag : Agent) (c va n : Nat) (a : Access) :
    ((s.updTile t f).resolve ag c va n a).2 = (s.resolve ag c va n a).2 := by
  have h := s.translate_updTile t f ag c va
  unfold State.resolve
  generalize (s.updTile t f).translate ag c va = x at h
  generalize s.translate ag c va = y at h
  obtain ⟨s1, r1⟩ := x
  obtain ⟨s2, r2⟩ := y
  subst h
  cases r1 <;> rfl

/-- The word of a candidate is found by its translation and the lines of the instruction near cache. -/
theorem State.candWord_updTile (s : State) (t tile : Nat) {f : Tile → Tile} (hf : ∀ x, (f x).ic = x.ic) (b : Block) (c : Candidate) :
    (s.updTile t f).candWord tile b c = s.candWord tile b c := by
  have hic := State.tile_updTile_keeps Tile.ic s t tile hf
  simp only [State.candWord, State.icRead, State.icLine, State.resolve_updTile, hic, State.ctx_updTile]

/-- The causes of a stall do not rest on the activity counts of a tile. -/
theorem State.stallCause_act (s was : State) (tile c j n : Nat) (gs : List Group) :
    (s.act tile c j n).stallCause was tile gs = s.stallCause was tile gs := by
  have hg (g : Group) : (s.act tile c j n).groupHolds was tile g = s.groupHolds was tile g := by
    have hcw (b : Block) (k : Candidate) : (s.act tile c j n).candWord tile b k = s.candWord tile b k :=
      State.candWord_updTile s tile tile (f := fun t => { t with acts := addAct t.acts (c, j) n }) (fun _ => rfl) b k
    have hchs : ((s.act tile c j n).tile tile).chs = (s.tile tile).chs := State.tile_updTile_keeps Tile.chs s tile tile fun _ => rfl
    have hb : ((s.act tile c j n).tile tile).blocks = (s.tile tile).blocks := State.tile_updTile_keeps Tile.blocks s tile tile fun _ => rfl
    simp only [State.groupHolds, hcw, Tile.block?, hb, hchs, chopRefused, Tile.groupLimited, Tile.groupOps]
    rfl
  rw [State.stallCause, funext hg]
  rfl

/-! ## The counters of a cycle (R20–R24, R106, R137) -/

theorem sum_modify_succ : ∀ (l : List Nat) (i : Nat), i < l.length → (l.modify i (· + 1)).sum = l.sum + 1
  | a :: r, 0, _ => by simp; omega
  | a :: r, i + 1, h => by
    have := sum_modify_succ r i (by simpa using h)
    simp; omega

/-- A stall has one of the eleven causes. -/
theorem State.stallCause_le (s was : State) (tile : Nat) (gs : List Group) : s.stallCause was tile gs ≤ 10 := by
  rw [State.stallCause, List.foldl_min]
  exact Nat.min_le_left _ _

/-- The cycles that the thread engine's counters count. -/
def TileCnt.total (n : TileCnt) : Nat := n.empty + n.issue + n.stall.sum

/-- The counters n are those of the tile after one more cycle, which issues or not: an empty one where no group is resident and none
issues; a stall of droop stretching where the cycle is stretched; of the cause where nothing issues; else an issue cycle. -/
def Tile.Counted (t : Tile) (cause : Nat) (issues : Bool) (n : TileCnt) : Prop :=
  if t.groups = [] ∧ issues = false then n = { t.cnt with empty := t.cnt.empty + 1 }
  else if t.stretched = true ∨ issues = false then
    ∃ f, n = { t.cnt with stall := t.cnt.stall.modify (if t.stretched then 0 else cause) (· + 1), fstall := f }
  else n = { t.cnt with issue := t.cnt.issue + 1 }

/-- One cycle is counted once. -/
theorem Tile.Counted.total {t : Tile} {cause : Nat} {issues : Bool} {n : TileCnt} (h : t.Counted cause issues n) (hc : cause ≤ 10)
    (hl : t.cnt.stall.length = 11) : n.total = t.cnt.total + 1 := by
  unfold Tile.Counted at h
  split at h
  · subst h; simp only [TileCnt.total]; omega
  · split at h
    · obtain ⟨f, rfl⟩ := h
      have := sum_modify_succ t.cnt.stall (if t.stretched then 0 else cause) (by split <;> omega)
      simp only [TileCnt.total, this]; omega
    · subst h; simp only [TileCnt.total]; omega

/-- A cycle that is not empty counts two activities of one context. -/
theorem State.nonEmpty_eq (s : State) (tile : Nat) (issues : Bool) :
    ∃ c, s.nonEmpty tile issues = (s.act tile c 11 1).act tile c 0 (b2n issues) := ⟨_, rfl⟩

theorem State.nonEmpty_tile (s : State) (tile : Nat) (issues : Bool) (h : tile < s.tiles.length) :
    (s.nonEmpty tile issues).tiles.length = s.tiles.length
      ∧ ∃ acts, (s.nonEmpty tile issues).tile tile = { s.tile tile with acts := acts } := by
  obtain ⟨c, hc⟩ := s.nonEmpty_eq tile issues
  obtain ⟨-, -, h1⟩ := State.act_frame s tile c 11 1
  obtain ⟨-, -, h2⟩ := State.act_frame (s.act tile c 11 1) tile c 0 (b2n issues)
  have h2 := h2 (by simpa [State.act] using h)
  rw [h1 h] at h2
  rw [hc]
  exact ⟨by simp [State.act], _, h2⟩

theorem State.stallCause_nonEmpty (s was : State) (tile : Nat) (issues : Bool) (gs : List Group) :
    (s.nonEmpty tile issues).stallCause was tile gs = s.stallCause was tile gs := by
  simp only [State.nonEmpty, State.stallCause_act]

theorem State.countStall_tile (s was : State) (tile : Nat) (h : tile < s.tiles.length) :
    (s.countStall was tile).tiles.length = s.tiles.length
      ∧ ∃ f, (s.countStall was tile).tile tile = { s.tile tile with cnt := { (s.tile tile).cnt with
          stall := (s.tile tile).cnt.stall.modify (if (s.tile tile).stretched then 0 else s.stallCause was tile (s.tile tile).groups) (· + 1)
          fstall := f } } :=
  ⟨by simp [State.countStall], _, State.tile_updTile_same s tile _ h⟩

/-- The counting of a cycle changes the tile's counters as Counted says, and its activity counts; it adds no tile. -/
theorem State.countCycle_tile (s was : State) (tile : Nat) (issues : Bool) (h : tile < s.tiles.length) :
    (s.countCycle was tile issues).tiles.length = s.tiles.length
      ∧ ∃ n acts, (s.countCycle was tile issues).tile tile = { s.tile tile with cnt := n, acts := acts }
        ∧ (s.tile tile).Counted (s.stallCause was tile (s.tile tile).groups) issues n := by
  obtain ⟨hl, acts, ha⟩ := s.nonEmpty_tile tile issues h
  unfold State.countCycle Tile.Counted
  by_cases he : (s.tile tile).groups = [] ∧ issues = false
  · have he' : ((s.tile tile).groups.isEmpty && !issues) = true := by simpa using he
    simp only [he', if_true, if_pos he]
    exact ⟨by simp, _, (s.tile tile).acts, State.tile_updTile_same s tile _ h, rfl⟩
  · have he' : ((s.tile tile).groups.isEmpty && !issues) = false := by simpa using he
    simp only [he', he, if_false]
    by_cases hs : (s.tile tile).stretched = true ∨ issues = false
    · have hs' : ((s.tile tile).stretched || !issues) = true := by simpa using hs
      obtain ⟨hlen, f, hf⟩ := (s.nonEmpty tile issues).countStall_tile was tile (hl ▸ h)
      rw [ha, State.stallCause_nonEmpty] at hf
      simp only [hs', hs, if_true]
      exact ⟨hlen.trans hl, _, acts, hf, f, rfl⟩
    · have hs' : ((s.tile tile).stretched || !issues) = false := by simpa using hs
      have hf := State.tile_updTile_same (s.nonEmpty tile issues) tile
        (fun t => { t with cnt := { t.cnt with issue := t.cnt.issue + 1 } }) (hl ▸ h)
      rw [ha] at hf
      simp only [hs', hs, if_false]
      exact ⟨by simp [hl], _, acts, hf, rfl⟩

/-! ## The choice of a group (R113–R115) -/

/-- What the choice ranks a ready group by, the first number that differs deciding: background work, which has no deadline, last (R34,
R35), deadline, arrival of its launch, context, the launch's own order. -/
def Ready.key (a : Ready) : List Nat := [if a.deadline.isNone then 1 else 0, a.deadline.getD 0, a.order, a.ctx, a.place]

theorem dlLt_iff (a b : Option Nat) :
    dlLt a b = true ↔ [if a.isNone then 1 else 0, a.getD 0] < [if b.isNone then 1 else 0, b.getD 0] := by
  cases a <;> cases b <;> simp [dlLt, List.cons_lt_cons_iff]

/-- One ready group goes before another where its key is the smaller one. -/
theorem Ready.before_iff (a b : Ready) : a.before b = true ↔ a.key < b.key := by
  simp only [Ready.before, Bool.or_eq_true, Bool.and_eq_true, Bool.not_eq_true', ← Bool.not_eq_true, dlLt_iff, decide_eq_true_eq,
    beq_iff_eq, Ready.key, List.cons_lt_cons_iff, List.not_lt_nil, and_false, or_false]
  omega

theorem Ready.before_self (a : Ready) : a.before a = false := by
  rw [Bool.eq_false_iff, Ne, Ready.before_iff]
  exact List.lt_irrefl _

theorem Ready.before_asymm {a b : Ready} (h : a.before b = true) : b.before a = false := by
  rw [Bool.eq_false_iff, Ne, Ready.before_iff]
  exact List.lt_asymm ((Ready.before_iff a b).mp h)

/-- Groups that do not go before `y` do not go before what `y` does not go before. -/
theorem Ready.before_trans {x y z : Ready} (hy : y.before x = false) (hz : z.before y = false) : z.before x = false := by
  rw [Bool.eq_false_iff, Ne, Ready.before_iff] at hy hz ⊢
  exact List.not_lt.mpr (List.le_trans (List.not_lt.mp hy) (List.not_lt.mp hz))

theorem firstReady_none : ∀ {l : List Ready}, firstReady l = none → l = []
  | [], _ => rfl
  | a :: r, h => by
    unfold firstReady at h
    split at h
    · cases h
    · split at h <;> cases h

/-- The group that issues is a ready one that none of the others goes before. -/
theorem firstReady_some : ∀ {l : List Ready} {x : Ready}, firstReady l = some x → x ∈ l ∧ ∀ y ∈ l, y.before x = false
  | a :: r, x, h => by
    unfold firstReady at h
    cases hr : firstReady r with
    | none =>
      obtain rfl : a = x := by simpa [hr] using h
      simp [firstReady_none hr, Ready.before_self]
    | some y =>
      obtain ⟨hy, hmin⟩ := firstReady_some hr
      by_cases hb : y.before a = true
      · obtain rfl : y = x := by simpa [hr, hb] using h
        exact ⟨List.mem_cons_of_mem _ hy, List.forall_mem_cons.mpr ⟨Ready.before_asymm hb, hmin⟩⟩
      · obtain rfl : a = x := by simpa [hr, hb] using h
        have hya : y.before a = false := Bool.eq_false_iff.mpr hb
        exact ⟨List.mem_cons_self, List.forall_mem_cons.mpr ⟨a.before_self, fun z hz => Ready.before_trans hya (hmin z hz)⟩⟩

/-! ## The issue of a group (R106, R109, R112, R115) -/

theorem State.updTile_length (s : State) (t : Nat) (f : Tile → Tile) : (s.updTile t f).tiles.length = s.tiles.length := by simp

theorem State.icUsed_cnt (s : State) (tile ctx va u : Nat) :
    ((s.icUsed tile ctx va).tile u).cnt = (s.tile u).cnt ∧ (s.icUsed tile ctx va).tiles.length = s.tiles.length := by
  unfold State.icUsed
  split
  · exact ⟨rfl, rfl⟩
  · exact ⟨State.tile_updTile_keeps Tile.cnt s tile u fun _ => rfl, State.updTile_length s tile _⟩

/-- A fault of an issue changes of a tile its groups alone. -/
theorem TC.fault_tile {β : Type} (g : Tile → β) (hg : ∀ t slot f, g (Tile.updGroup t slot f) = g t) (tc : TC) (code detail : Nat)
    (s : State) (u : Nat) : g ((tc.fault code detail s).tile u) = g (s.tile u) :=
  State.tile_updTile_keeps g (s.raise _) tc.tile u fun t => hg t tc.i.slot _

/-- The issue of a group counts a forced reconvergence at most, is followed by a second cycle where the group's width is 64, and makes
the candidate's word the tile's next instruction where its opcode is defined. -/
theorem State.issue_tile (s : State) (tile : Nat) (x : Ready) (h : tile < s.tiles.length) :
    (s.issue tile x).tiles.length = s.tiles.length
      ∧ ((s.issue tile x).tile tile).second = (x.g.width == 64)
      ∧ (∃ n, ((s.issue tile x).tile tile).cnt = { (s.tile tile).cnt with reconvForced := n })
      ∧ (opDefined (bits x.w 56 8) = true → ((s.issue tile x).tile tile).issued = some ⟨x.g.slot, x.c.pc, x.c.mask, x.w⟩) := by
  have hskip : ((s.updGroup tile x.g.slot (·.skipped x.c)).tile tile).cnt = (s.tile tile).cnt :=
    State.tile_updTile_keeps Tile.cnt s tile tile fun _ => rfl
  have hlen : (s.updGroup tile x.g.slot (·.skipped x.c)).tiles.length = s.tiles.length := State.updTile_length s tile _
  obtain ⟨hc, hl⟩ := (s.updGroup tile x.g.slot (·.skipped x.c)).icUsed_cnt tile x.ctx x.c.pc tile
  rw [hskip] at hc
  rw [hlen] at hl
  unfold State.issue
  dsimp only
  generalize (s.updGroup tile x.g.slot (·.skipped x.c)).icUsed tile x.ctx x.c.pc = s1 at hc hl ⊢
  generalize hs2 : s1.updTile tile _ = s2
  have hl2 : s2.tiles.length = s.tiles.length := by rw [← hs2, State.updTile_length, hl]
  have h2 := (congrArg (State.tile · tile) hs2).symm.trans (State.tile_updTile_same s1 tile _ (hl ▸ h))
  have hsecond := congrArg Tile.second h2
  have hcnt := congrArg Tile.cnt h2
  rw [hc] at hcnt
  by_cases hop : opDefined (bits x.w 56 8) = true
  · have same := State.tile_updTile_same s2 tile (fun t => { t with issued := some ⟨x.g.slot, x.c.pc, x.c.mask, x.w⟩ }) (hl2 ▸ h)
    rw [if_pos hop, State.updTile_length, same]
    exact ⟨hl2, hsecond, ⟨_, hcnt⟩, fun _ => rfl⟩
  · rw [if_neg hop]
    split
    · exact ⟨(State.updTile_length _ _ _).trans hl2, (TC.fault_tile Tile.second (fun _ _ _ => rfl) _ 1 0 s2 tile).trans hsecond,
        ⟨_, (TC.fault_tile Tile.cnt (fun _ _ _ => rfl) _ 1 0 s2 tile).trans hcnt⟩, fun h => absurd h hop⟩
    · exact ⟨hl2, hsecond, ⟨_, hcnt⟩, fun h => absurd h hop⟩

/-! ## ISSUE_CYCLE -/

section
variable {t : Tile} {cause : Nat} {issues : Bool} {n : TileCnt}

theorem Tile.Counted.empty (h : t.Counted cause false n) (hg : t.groups = []) : n.empty = t.cnt.empty + 1 := by
  rw [Tile.Counted, if_pos ⟨hg, rfl⟩] at h
  rw [h]

theorem Tile.Counted.droop (h : t.Counted cause issues n) (hg : t.groups ≠ []) (hs : t.stretched = true) :
    n.stall = t.cnt.stall.modify 0 (· + 1) := by
  rw [Tile.Counted, if_neg fun hx => hg hx.1, if_pos (.inl hs)] at h
  obtain ⟨f, rfl⟩ := h
  simp [hs]

theorem Tile.Counted.stall (h : t.Counted cause false n) (hg : t.groups ≠ []) (hs : t.stretched = false) :
    n.stall = t.cnt.stall.modify cause (· + 1) := by
  rw [Tile.Counted, if_neg fun hx => hg hx.1, if_pos (.inr rfl)] at h
  obtain ⟨f, rfl⟩ := h
  simp [hs]

theorem Tile.Counted.issue (h : t.Counted cause true n) (hs : t.stretched = false) : n.issue = t.cnt.issue + 1 := by
  rw [Tile.Counted, if_neg (by simp), if_neg (by simp [hs])] at h
  rw [h]

end

theorem State.readyGroups_of_empty {s : State} {tile : Nat} (holds : List Nat) (h : (s.tile tile).groups = []) :
    s.readyGroups tile holds = [] := by
  simp [State.readyGroups, h]

/-- The state in which a tile's cycle finds it once the Chisel and the ray engines have had theirs. -/
def State.cycled (s : State) (tile : Nat) : State := ((s.stretchCycle tile).chiselCycle tile).engineCycle tile

/-- The waits of a tile's groups are one cycle shorter. -/
def State.waited (s : State) (tile : Nat) : State := s.updTile tile fun t => { t with groups := t.groups.map Group.waited }

section
variable {s : State} {tile : Nat} {holds : List Nat} (hk : s.clocked = true) (ht : tile < 144)
include hk ht

/-- What a cycle of a tile does that has one: with a held store or a second cycle nothing issues; else the first ready group. -/
theorem exec_issueCycle {held : Bool} (hh : ((s.tile tile).issued.map (s.storeRefused tile)).getD false = held)
    (hi : (s.tile tile).issued.isSome = held) :
    exec (.issueCycle tile holds) s = .next (State.waited (
      if ((s.cycled tile).tile tile).second then
        ((s.cycled tile).countCycle (s.stretchCycle tile) tile true).updTile tile fun t => { t with second := false }
      else if held then (s.cycled tile).countCycle (s.stretchCycle tile) tile false
      else match firstReady ((s.cycled tile).readyGroups tile holds) with
        | some x => (((s.cycled tile).updTile tile fun t => { t with lastCtx := x.ctx }).countCycle (s.stretchCycle tile) tile true).issue tile x
        | none => (s.cycled tile).countCycle (s.stretchCycle tile) tile false) tile) := by
  simp only [exec, execIssueCycle, hk, hh, hi, Nat.not_le.mpr ht, Bool.not_true, decide_false, Bool.or_self, Bool.and_not_self,
    Bool.false_eq_true, if_false]
  rfl

end

theorem State.waited_tile (s : State) (tile : Nat) (h : tile < s.tiles.length) :
    (s.waited tile).tile tile = { s.tile tile with groups := (s.tile tile).groups.map Group.waited } :=
  State.tile_updTile_same s tile _ h

section
variable (s was : State) (tile : Nat) (h : tile < s.tiles.length)
include h

/-- A cycle in which nothing issues counts, and shortens the waits. -/
theorem State.stalled_tile : ∃ n acts, ((s.countCycle was tile false).waited tile).tile tile
      = { s.tile tile with groups := (s.tile tile).groups.map Group.waited, cnt := n, acts := acts }
    ∧ (s.tile tile).Counted (s.stallCause was tile (s.tile tile).groups) false n := by
  obtain ⟨hl, n, acts, hv, hn⟩ := s.countCycle_tile was tile false h
  have hw := State.waited_tile (s.countCycle was tile false) tile (hl ▸ h)
  rw [hv] at hw
  exact ⟨n, acts, hw, hn⟩

/-- The second cycle of an issue counts, shortens the waits and ends. -/
theorem State.second_tile : ∃ n acts, (((s.countCycle was tile true).updTile tile fun t => { t with second := false }).waited tile).tile tile
      = { s.tile tile with groups := (s.tile tile).groups.map Group.waited, cnt := n, acts := acts, second := false }
    ∧ (s.tile tile).Counted (s.stallCause was tile (s.tile tile).groups) true n := by
  obtain ⟨hl, n, acts, hv, hn⟩ := s.countCycle_tile was tile true h
  have hs := State.tile_updTile_same (s.countCycle was tile true) tile (fun t => { t with second := false }) (hl ▸ h)
  have hw := State.waited_tile ((s.countCycle was tile true).updTile tile fun t => { t with second := false }) tile
    (by rw [State.updTile_length, hl]; exact h)
  rw [hs, hv] at hw
  exact ⟨n, acts, hw, hn⟩

/-- A cycle in which a ready group issues counts, and leaves the group's word to take effect. -/
theorem State.issuing_tile (x : Ready) :
    let v := ((((s.updTile tile fun t => { t with lastCtx := x.ctx }).countCycle was tile true).issue tile x).waited tile).tile tile
    v.second = (x.g.width == 64) ∧ (opDefined (bits x.w 56 8) = true → v.issued = some ⟨x.g.slot, x.c.pc, x.c.mask, x.w⟩)
      ∧ ∃ cause n k, cause ≤ 10 ∧ v.cnt = { n with reconvForced := k } ∧ (s.tile tile).Counted cause true n := by
  have hlast := State.tile_updTile_same s tile (fun t => { t with lastCtx := x.ctx }) h
  have hl0 : (s.updTile tile fun t => { t with lastCtx := x.ctx }).tiles.length = s.tiles.length := State.updTile_length s tile _
  generalize (s.updTile tile fun t => { t with lastCtx := x.ctx }) = s0 at hlast hl0 ⊢
  obtain ⟨hl1, n, acts, hv, hn⟩ := s0.countCycle_tile was tile true (hl0 ▸ h)
  generalize s0.countCycle was tile true = s1 at hl1 hv ⊢
  obtain ⟨hl2, hsecond, ⟨k, hcnt⟩, hissued⟩ := s1.issue_tile tile x (hl1.trans hl0 ▸ h)
  rw [hv] at hcnt
  rw [hlast] at hn
  intro v
  have hw : v = _ := State.waited_tile (s1.issue tile x) tile ((hl2.trans (hl1.trans hl0)) ▸ h)
  exact ⟨(congrArg Tile.second hw).trans hsecond, fun hop => (congrArg Tile.issued hw).trans (hissued hop),
    _, n, k, s0.stallCause_le was tile _, (congrArg Tile.cnt hw).trans hcnt, hn⟩

end

/-! ## TILE_CNT_SNAP_TAKE (R141, R147) -/

/-- Where the registers of a tile lie. -/
theorem blockOf_tile (tile off : Nat) (ht : tile < 144) (ho : off < 0x10000) :
    blockOf (0x1000000 + tile * 0x10000 + off) = .tile tile off := by
  have hd : (0x1000000 + tile * 0x10000 + off - 0x1000000) / 0x10000 = tile := by omega
  have hm : (0x1000000 + tile * 0x10000 + off - 0x1000000) % 0x10000 = off := by omega
  have below (lo n size : Nat) (h : lo + n * size ≤ 0x1000000) :
      (decide (lo ≤ 0x1000000 + tile * 0x10000 + off) && decide (0x1000000 + tile * 0x10000 + off < lo + n * size)) = false := by
    simp; omega
  have here : (decide (0x1000000 ≤ 0x1000000 + tile * 0x10000 + off)
      && decide (0x1000000 + tile * 0x10000 + off < 0x1000000 + 144 * 0x10000)) = true := by
    simp; omega
  simp only [blockOf, below _ _ _ (show 0x100 + 1 * 0x18 ≤ 0x1000000 by decide), below _ _ _ (show 0x1000 + 64 * 0x100 ≤ 0x1000000 by decide),
    below _ _ _ (show 0x8000 + 32 * 0x40 ≤ 0x1000000 by decide), below _ _ _ (show 0x9000 + 32 * 0x40 ≤ 0x1000000 by decide),
    below _ _ _ (show 0x100000 + 128 * 0x40 ≤ 0x1000000 by decide), below _ _ _ (show 0x110000 + 1 * 0x40 ≤ 0x1000000 by decide),
    below _ _ _ (show 0x200000 + 32 * 0x8000 ≤ 0x1000000 by decide), here, hd, hm, if_true, Bool.false_eq_true, if_false]

/-- The registers of a tile are not gated while its clock runs. -/
theorem regGated_tile {s : State} {a tile off : Nat} (hk : s.clocked = true) (hb : blockOf a = .tile tile off) : s.regGated a = false := by
  simp only [State.clocked, Bool.and_eq_true, beq_iff_eq, Bool.not_eq_true'] at hk
  obtain ⟨⟨hp, hs⟩, ht⟩ := hk
  simp [State.regGated, hb, Block_.gate, State.gatedNow, hp, hs, ht]

/-- TAKE copies the counters of a tile to its snapshot. -/
theorem exec_tileCntSnapTake {s : State} {tile : Nat} {val : DWord} (hk : s.clocked = true) (ht : tile < 144) (he : s.endpoint 0 = true)
    (hv : bitAt val.toNat 0 = true) :
    exec (.tileCntSnapTake 0 tile val) s = .next ((s.fullWrite 0).updTile tile fun x => { x with snap := x.cnt }) := by
  have ha : 0x1000018 + tile * 0x10000 = 0x1000000 + tile * 0x10000 + 0x18 := by omega
  have hb := blockOf_tile tile 0x18 ht (by decide)
  have hg : (s.fullWrite 0).regGated (0x1000000 + tile * 0x10000 + 0x18) = false := regGated_tile hk hb
  have hin : ¬0x1000000 + tile * 0x10000 + 0x18 ≥ barBytes 0 := by simp [barBytes]; omega
  have hal : (0x1000000 + tile * 0x10000 + 0x18) % 8 = 0 := by omega
  simp only [exec, execTileCntSnapTake, State.bar0Write, State.regWrite, State.tileWrite, ha, hb, hg, he, hv, hin, hal, Nat.not_le.mpr ht]
  simp

/-! ## The statement -/

/-- ISSUE_CYCLE of a tile with no instruction waiting: what it counts, and which group issues. -/
theorem issueCycle_issues {s : State} {tile : Nat} (holds : List Nat) (hk : s.clocked = true) (ht : tile < 144)
    (hlen : tile < (s.cycled tile).tiles.length) (hstall : ((s.cycled tile).tile tile).cnt.stall.length = 11)
    (hi : (s.tile tile).issued = none) :
    Completes (.issueCycle tile holds) s fun t =>
      let u := (s.cycled tile).tile tile
      let v := t.tile tile
      let ready := (s.cycled tile).readyGroups tile holds
      v.cnt.total = u.cnt.total + 1 ∧ (u.groups = [] → u.second = false → v.cnt.empty = u.cnt.empty + 1)
        ∧ (u.groups ≠ [] → u.stretched = true → v.cnt.stall = u.cnt.stall.modify 0 (· + 1))
        ∧ (u.groups ≠ [] → u.stretched = false → u.second = false → ready = [] →
            v.cnt.stall = u.cnt.stall.modify ((s.cycled tile).stallCause (s.stretchCycle tile) tile u.groups) (· + 1) ∧ v.issued = u.issued
            ∧ v.groups = u.groups.map Group.waited)
        ∧ (u.second = true → v.second = false ∧ v.issued = u.issued)
        ∧ (u.second = false → ready ≠ [] → ∃ x ∈ ready, (∀ y ∈ ready, y.before x = false) ∧ v.second = (x.g.width == 64)
            ∧ (u.stretched = false → v.cnt.issue = u.cnt.issue + 1)
            ∧ (opDefined (bits x.w 56 8) = true → v.issued = some ⟨x.g.slot, x.c.pc, x.c.mask, x.w⟩)) := by
  have he := exec_issueCycle (holds := holds) hk ht (held := false) (by simp [hi]) (by simp [hi])
  generalize s.cycled tile = s1 at he hlen hstall ⊢
  generalize s.stretchCycle tile = was at he ⊢
  by_cases h2 : (s1.tile tile).second = true
  · rw [if_pos h2] at he
    obtain ⟨n, acts, hv, hn⟩ := s1.second_tile was tile hlen
    refine ⟨_, he, ?_⟩
    dsimp only
    rw [hv]
    exact ⟨hn.total (s1.stallCause_le was tile _) hstall, fun _ h => by simp [h] at h2, hn.droop, fun _ _ h => by simp [h] at h2,
      fun _ => ⟨rfl, rfl⟩, fun h => by simp [h] at h2⟩
  · rw [if_neg h2, if_neg Bool.false_ne_true] at he
    cases hf : firstReady (s1.readyGroups tile holds) with
    | none =>
      have hready := firstReady_none hf
      rw [hf] at he
      obtain ⟨n, acts, hv, hn⟩ := s1.stalled_tile was tile hlen
      refine ⟨_, he, ?_⟩
      dsimp only
      rw [hv]
      exact ⟨hn.total (s1.stallCause_le was tile _) hstall, fun hg _ => hn.empty hg, hn.droop, fun hg hs _ _ => ⟨hn.stall hg hs, rfl, rfl⟩,
        fun h => absurd h h2, fun _ h => absurd hready h⟩
    | some x =>
      obtain ⟨hx, hmin⟩ := firstReady_some hf
      have hready : s1.readyGroups tile holds ≠ [] := List.ne_nil_of_mem hx
      rw [hf] at he
      obtain ⟨hsecond, hissued, cause, n, k, hc, hcnt, hn⟩ := s1.issuing_tile was tile hlen x
      refine ⟨_, he, ?_⟩
      dsimp only
      rw [hcnt]
      exact ⟨hn.total hc hstall, fun hg => absurd (State.readyGroups_of_empty holds hg) hready, hn.droop, fun _ _ _ h => absurd h hready,
        fun h => absurd h h2, fun _ _ => ⟨x, hx, hmin, hsecond, hn.issue, hissued⟩⟩

/-- ISSUE_CYCLE of a tile whose issued store waits for room: the cycle counts, and the store stays. -/
theorem issueCycle_holds {s : State} {tile : Nat} {i : Issued} (holds : List Nat) (hk : s.clocked = true) (ht : tile < 144)
    (hlen : tile < (s.cycled tile).tiles.length) (hstall : ((s.cycled tile).tile tile).cnt.stall.length = 11)
    (hi : (s.tile tile).issued = some i) (hr : s.storeRefused tile i = true) :
    Completes (.issueCycle tile holds) s fun t =>
      (t.tile tile).cnt.total = ((s.cycled tile).tile tile).cnt.total + 1 ∧ (t.tile tile).issued = some i := by
  have he := exec_issueCycle (holds := holds) hk ht (held := true) (by simp [hi, hr]) (by simp [hi])
  have hkept : ((s.cycled tile).tile tile).issued = some i := (State.cycle_issued s tile tile).trans hi
  generalize s.cycled tile = s1 at he hlen hstall hkept ⊢
  generalize s.stretchCycle tile = was at he
  by_cases h2 : (s1.tile tile).second = true
  · rw [if_pos h2] at he
    obtain ⟨n, acts, hv, hn⟩ := s1.second_tile was tile hlen
    refine ⟨_, he, ?_⟩
    dsimp only
    rw [hv]
    exact ⟨hn.total (s1.stallCause_le was tile _) hstall, hkept⟩
  · rw [if_neg h2, if_pos rfl] at he
    obtain ⟨n, acts, hv, hn⟩ := s1.stalled_tile was tile hlen
    refine ⟨_, he, ?_⟩
    dsimp only
    rw [hv]
    exact ⟨hn.total (s1.stallCause_le was tile _) hstall, hkept⟩

/-- Settles O31, by the three ways in which a cycle goes: the second cycle of an issue, a cycle in which nothing issues, and an issue. -/
theorem tileCyclesIssueInOrder : Obligations.TileCyclesIssueInOrder := by
  intro s tile hk ht
  exact ⟨fun holds hlen hstall => ⟨issueCycle_issues holds hk ht hlen hstall,
      fun i hi hr => issueCycle_holds holds hk ht hlen hstall hi hr⟩,
    fun val _ he hv => exec_tileCntSnapTake hk ht he hv⟩

end Sys2Proof.Machine
